-- ==== Sys2Proof/Word.lean ====
section
/-! DEFINITION. The word types of the Vairil VX1 and nothing else: the machine's registers and
instruction words are 32 bits, its memories are byte-addressed (R33, R165, R215). -/

namespace Sys2Proof

/-- A 32-bit register or instruction word. -/
abbrev Word := BitVec 32

/-- A 64-bit address, time or register pair. -/
abbrev DWord := BitVec 64

/-- A byte of memory. -/
abbrev Byte := BitVec 8

/-- A mask over the threads of a warp (at most 128). -/
abbrev Mask := BitVec 128

/-- The 128 bytes of one line, byte 0 in the least significant byte (R184). -/
abbrev Line := BitVec 1024

end Sys2Proof
end

