-- ==== Sys2Proof/Syntax.lean ====
section
/-! DEFINITION. The instructions of the VX1 and its machine steps, as syntax: one constructor per row of the
opcode table. Rows named `…X` are the extended forms (R220, R221); the others are base forms (R218), forms of
one length only, or steps of the part that no instruction issues. -/

namespace Sys2Proof

/-- The major opcodes of R234. -/
inductive Op where
  | nop | bra | brc | brm | join | call | ret | jmpx | exit | barsync | waitk | waitm | yield | sleep | brkpt
  | trap | split | spawn | poolq | recruit | hend | hjoin | iadd | isub | imul | imulh | imad | idiv | irem
  | imin | imax | iabs | iand | ior | ixor | inot | shl | shr | sar | rot | bfx | bfi | popc | clz | brev
  | lea | mov | movl | sel | icmp | plop | pmov | cvti | idot4 | fadd | fsub | fmul | ffma | fdiv | fsqrt
  | fsqr | frcp | frsqrt | fabs | fneg | fmin | fmax | fhull | fisect | fmk | flo | fhi | fmid | frad | fwid
  | fmig | fmag | fbis | fcmp | fset | fclass | fdec | fcvt | fcvti | fpown | fldexp | fmov | fsel | fmovl
  | rmax | rsum | rstat | smxu | smxa | rnorm | dadd | dsub | dmul | dfma | ddiv | dsqrt | dcmp | dcvt | fexp
  | fexp2 | flog | flog2 | ftanh | fsig | ferf | fsin | fcos | fgelu | fsilu | fgate | ld | st | ldf | stf
  | sld | sst | atom | atomf | red | cas | fence | pref | cctl | smap | sunmap | sflush | sqry | cpy | cpyg
  | cpya | cpyq | binit | barr | bwait | btest | mma | mmaq | mmai | mtrn | mperm | mred | xopen | xnext
  | xnext2 | xisect | xunion | xskip | xclose | xsave | xload | xpos | vote | shfl | fshfl | matchV | redux
  | scan | srd | swr | topo | time | perf | rte | csave | cload | rgnclr | tlbinv
deriving DecidableEq, Repr

/-- The special registers of R173, in selector order from 0x2a8. -/
inductive SReg where
  | lane | tid | warp | team | nteam | gang | gangsize | die | ndie | wwidth | core | cluster | dieid | grade
  | tc | tchi | item | hidx | hcount | mrp | tstat | fcause | faddr | faddrhi | lpc | lpchi | hfault
deriving DecidableEq, Repr

/-- A 10-bit operand selector (R222). `reg` is a V register, or an F register in a floating position; selector
0x000 also stands in a position the opcode does not have. -/
inductive Sel where
  | reg (n : BitVec 7)
  | s (n : Fin 384)
  | p (n : BitVec 4)
  | x (n : BitVec 3)
  | b (n : BitVec 4)
  | sr (r : SReg)
  | imm (k : BitVec 7)
  | const (k : BitVec 6)
  | lit
deriving DecidableEq, Repr

/-- The second destination field E (R221). -/
inductive Sel2 where
  | reg (n : BitVec 7)
  | p (n : BitVec 4)
  | none
deriving DecidableEq, Repr

/-- The fields of the extended form (R217, R220, R221), with the literal if there is one. -/
structure Ext where
  u : Bool
  d : Sel
  a : Sel
  b : Sel
  c : Sel
  e : Sel2
  g : BitVec 4
  gs : BitVec 2
  tA : Bool
  tB : Bool
  tC : Bool
  fzi : Bool
  fzo : Bool
  imm : BitVec 8
  mod : BitVec 16
  lit : Option DWord
deriving DecidableEq, Repr

/-- A position the opcode does not have (R223). -/
abbrev Sel.absent : Sel := .reg 0

/-- The instructions and the steps of the part: one constructor per row of the opcode table. The fields of an
instruction are those its words encode; JOIN, RET, BRKPT and RTE have one extended form each, whose fields are all
fixed (R376, R470). A step of the part acts on what the state's agenda names for it. -/
inductive Instr where
  | nop
  | nopX (x : Ext)
  | bra (j : BitVec 22)
  | braX (j : BitVec 22) (g : BitVec 4) (gs : BitVec 2)
  | brc (c : BitVec 4) (tC : Bool) (lit : DWord)
  | brm (p3 : BitVec 4) (p2 : BitVec 4) (p1 : BitVec 4) (p0 : BitVec 4) (join : BitVec 16) (lit : DWord)
  | join
  | joinX
  | call (j : BitVec 22)
  | callX (j : BitVec 22) (g : BitVec 4) (gs : BitVec 2)
  | ret
  | retX
  | jmpx (a : BitVec 7)
  | jmpxX (x : Ext)
  | exit
  | exitX (x : Ext)
  | barsync
  | barsyncX (x : Ext)
  | waitk (x : Ext)
  | waitm (x : Ext)
  | yield
  | yieldX (x : Ext)
  | sleep (a : BitVec 7)
  | sleepX (x : Ext)
  | brkpt
  | brkptX
  | trap (a : BitVec 7)
  | trapX (x : Ext)
  | split (x : Ext)
  | spawn (x : Ext)
  | poolq (a : BitVec 7) (d : BitVec 7)
  | poolqX (x : Ext)
  | recruit (x : Ext)
  | hend (x : Ext)
  | hjoin (x : Ext)
  | iadd (u : Bool) (b : BitVec 7) (a : BitVec 7) (d : BitVec 7)
  | iaddX (x : Ext)
  | isub (u : Bool) (b : BitVec 7) (a : BitVec 7) (d : BitVec 7)
  | isubX (x : Ext)
  | imul (u : Bool) (b : BitVec 7) (a : BitVec 7) (d : BitVec 7)
  | imulX (x : Ext)
  | imulh (u : Bool) (b : BitVec 7) (a : BitVec 7) (d : BitVec 7)
  | imulhX (x : Ext)
  | imad (u : Bool) (b : BitVec 7) (a : BitVec 7) (d : BitVec 7)
  | imadX (x : Ext)
  | idiv (u : Bool) (b : BitVec 7) (a : BitVec 7) (d : BitVec 7)
  | idivX (x : Ext)
  | irem (u : Bool) (b : BitVec 7) (a : BitVec 7) (d : BitVec 7)
  | iremX (x : Ext)
  | imin (u : Bool) (b : BitVec 7) (a : BitVec 7) (d : BitVec 7)
  | iminX (x : Ext)
  | imax (u : Bool) (b : BitVec 7) (a : BitVec 7) (d : BitVec 7)
  | imaxX (x : Ext)
  | iabs (u : Bool) (a : BitVec 7) (d : BitVec 7)
  | iabsX (x : Ext)
  | iand (u : Bool) (b : BitVec 7) (a : BitVec 7) (d : BitVec 7)
  | iandX (x : Ext)
  | ior (u : Bool) (b : BitVec 7) (a : BitVec 7) (d : BitVec 7)
  | iorX (x : Ext)
  | ixor (u : Bool) (b : BitVec 7) (a : BitVec 7) (d : BitVec 7)
  | ixorX (x : Ext)
  | inot (u : Bool) (a : BitVec 7) (d : BitVec 7)
  | inotX (x : Ext)
  | shl (u : Bool) (b : BitVec 7) (a : BitVec 7) (d : BitVec 7)
  | shlX (x : Ext)
  | shr (u : Bool) (b : BitVec 7) (a : BitVec 7) (d : BitVec 7)
  | shrX (x : Ext)
  | sar (u : Bool) (b : BitVec 7) (a : BitVec 7) (d : BitVec 7)
  | sarX (x : Ext)
  | rot (u : Bool) (b : BitVec 7) (a : BitVec 7) (d : BitVec 7)
  | rotX (x : Ext)
  | bfx (u : Bool) (b : BitVec 7) (a : BitVec 7) (d : BitVec 7)
  | bfxX (x : Ext)
  | bfi (u : Bool) (b : BitVec 7) (a : BitVec 7) (d : BitVec 7)
  | bfiX (x : Ext)
  | popc (u : Bool) (a : BitVec 7) (d : BitVec 7)
  | popcX (x : Ext)
  | clz (u : Bool) (a : BitVec 7) (d : BitVec 7)
  | clzX (x : Ext)
  | brev (u : Bool) (a : BitVec 7) (d : BitVec 7)
  | brevX (x : Ext)
  | lea (u : Bool) (b : BitVec 7) (a : BitVec 7) (d : BitVec 7)
  | leaX (x : Ext)
  | mov (u : Bool) (a : BitVec 7) (d : BitVec 7)
  | movX (x : Ext)
  | movl (u : Bool) (d : BitVec 7) (lit : DWord)
  | movlX (x : Ext)
  | sel (x : Ext)
  | icmp (x : Ext)
  | plop (x : Ext)
  | pmov (x : Ext)
  | cvti (u : Bool) (a : BitVec 7) (d : BitVec 7)
  | cvtiX (x : Ext)
  | idot4 (u : Bool) (b : BitVec 7) (a : BitVec 7) (d : BitVec 7)
  | idot4X (x : Ext)
  | fadd (b : BitVec 7) (a : BitVec 7) (d : BitVec 7)
  | faddX (x : Ext)
  | fsub (b : BitVec 7) (a : BitVec 7) (d : BitVec 7)
  | fsubX (x : Ext)
  | fmul (b : BitVec 7) (a : BitVec 7) (d : BitVec 7)
  | fmulX (x : Ext)
  | ffma (b : BitVec 7) (a : BitVec 7) (d : BitVec 7)
  | ffmaX (x : Ext)
  | fdiv (b : BitVec 7) (a : BitVec 7) (d : BitVec 7)
  | fdivX (x : Ext)
  | fsqrt (a : BitVec 7) (d : BitVec 7)
  | fsqrtX (x : Ext)
  | fsqr (a : BitVec 7) (d : BitVec 7)
  | fsqrX (x : Ext)
  | frcp (a : BitVec 7) (d : BitVec 7)
  | frcpX (x : Ext)
  | frsqrt (a : BitVec 7) (d : BitVec 7)
  | frsqrtX (x : Ext)
  | fabs (a : BitVec 7) (d : BitVec 7)
  | fabsX (x : Ext)
  | fneg (a : BitVec 7) (d : BitVec 7)
  | fnegX (x : Ext)
  | fmin (b : BitVec 7) (a : BitVec 7) (d : BitVec 7)
  | fminX (x : Ext)
  | fmax (b : BitVec 7) (a : BitVec 7) (d : BitVec 7)
  | fmaxX (x : Ext)
  | fhull (b : BitVec 7) (a : BitVec 7) (d : BitVec 7)
  | fhullX (x : Ext)
  | fisect (b : BitVec 7) (a : BitVec 7) (d : BitVec 7)
  | fisectX (x : Ext)
  | fmk (b : BitVec 7) (a : BitVec 7) (d : BitVec 7)
  | fmkX (x : Ext)
  | flo (a : BitVec 7) (d : BitVec 7)
  | floX (x : Ext)
  | fhi (a : BitVec 7) (d : BitVec 7)
  | fhiX (x : Ext)
  | fmid (a : BitVec 7) (d : BitVec 7)
  | fmidX (x : Ext)
  | frad (a : BitVec 7) (d : BitVec 7)
  | fradX (x : Ext)
  | fwid (a : BitVec 7) (d : BitVec 7)
  | fwidX (x : Ext)
  | fmig (a : BitVec 7) (d : BitVec 7)
  | fmigX (x : Ext)
  | fmag (a : BitVec 7) (d : BitVec 7)
  | fmagX (x : Ext)
  | fbis (x : Ext)
  | fcmp (x : Ext)
  | fset (x : Ext)
  | fclass (a : BitVec 7) (d : BitVec 7)
  | fclassX (x : Ext)
  | fdec (a : BitVec 7) (d : BitVec 7)
  | fdecX (x : Ext)
  | fcvt (a : BitVec 7) (d : BitVec 7)
  | fcvtX (x : Ext)
  | fcvti (a : BitVec 7) (d : BitVec 7)
  | fcvtiX (x : Ext)
  | fpown (b : BitVec 7) (a : BitVec 7) (d : BitVec 7)
  | fpownX (x : Ext)
  | fldexp (b : BitVec 7) (a : BitVec 7) (d : BitVec 7)
  | fldexpX (x : Ext)
  | fmov (a : BitVec 7) (d : BitVec 7)
  | fmovX (x : Ext)
  | fsel (x : Ext)
  | fmovl (d : BitVec 7) (lit : DWord)
  | fmovlX (x : Ext)
  | rmax (x : Ext)
  | rsum (x : Ext)
  | rstat (x : Ext)
  | smxu (x : Ext)
  | smxa (x : Ext)
  | rnorm (x : Ext)
  | dadd (b : BitVec 7) (a : BitVec 7) (d : BitVec 7)
  | daddX (x : Ext)
  | dsub (b : BitVec 7) (a : BitVec 7) (d : BitVec 7)
  | dsubX (x : Ext)
  | dmul (b : BitVec 7) (a : BitVec 7) (d : BitVec 7)
  | dmulX (x : Ext)
  | dfma (b : BitVec 7) (a : BitVec 7) (d : BitVec 7)
  | dfmaX (x : Ext)
  | ddiv (b : BitVec 7) (a : BitVec 7) (d : BitVec 7)
  | ddivX (x : Ext)
  | dsqrt (a : BitVec 7) (d : BitVec 7)
  | dsqrtX (x : Ext)
  | dcmp (x : Ext)
  | dcvt (a : BitVec 7) (d : BitVec 7)
  | dcvtX (x : Ext)
  | fexp (a : BitVec 7) (d : BitVec 7)
  | fexpX (x : Ext)
  | fexp2 (a : BitVec 7) (d : BitVec 7)
  | fexp2X (x : Ext)
  | flog (a : BitVec 7) (d : BitVec 7)
  | flogX (x : Ext)
  | flog2 (a : BitVec 7) (d : BitVec 7)
  | flog2X (x : Ext)
  | ftanh (a : BitVec 7) (d : BitVec 7)
  | ftanhX (x : Ext)
  | fsig (a : BitVec 7) (d : BitVec 7)
  | fsigX (x : Ext)
  | ferf (a : BitVec 7) (d : BitVec 7)
  | ferfX (x : Ext)
  | fsin (a : BitVec 7) (d : BitVec 7)
  | fsinX (x : Ext)
  | fcos (a : BitVec 7) (d : BitVec 7)
  | fcosX (x : Ext)
  | fgelu (a : BitVec 7) (d : BitVec 7)
  | fgeluX (x : Ext)
  | fsilu (a : BitVec 7) (d : BitVec 7)
  | fsiluX (x : Ext)
  | fgate (b : BitVec 7) (a : BitVec 7) (d : BitVec 7)
  | fgateX (x : Ext)
  | ld (a : BitVec 7) (d : BitVec 7)
  | ldX (x : Ext)
  | st (b : BitVec 7) (a : BitVec 7)
  | stX (x : Ext)
  | ldf (a : BitVec 7) (d : BitVec 7)
  | ldfX (x : Ext)
  | stf (b : BitVec 7) (a : BitVec 7)
  | stfX (x : Ext)
  | sld (x : Ext)
  | sst (x : Ext)
  | atom (b : BitVec 7) (a : BitVec 7) (d : BitVec 7)
  | atomX (x : Ext)
  | atomf (b : BitVec 7) (a : BitVec 7) (d : BitVec 7)
  | atomfX (x : Ext)
  | red (b : BitVec 7) (a : BitVec 7)
  | redX (x : Ext)
  | cas (b : BitVec 7) (a : BitVec 7) (d : BitVec 7)
  | casX (x : Ext)
  | fence
  | fenceX (x : Ext)
  | pref (a : BitVec 7)
  | prefX (x : Ext)
  | cctl
  | cctlX (x : Ext)
  | smap (x : Ext)
  | sunmap (x : Ext)
  | sflush (x : Ext)
  | sqry (x : Ext)
  | cpy (x : Ext)
  | cpyg (x : Ext)
  | cpya (x : Ext)
  | cpyq (x : Ext)
  | binit (x : Ext)
  | barr (x : Ext)
  | bwait (x : Ext)
  | btest (x : Ext)
  | mma (x : Ext)
  | mmaq (x : Ext)
  | mmai (x : Ext)
  | mtrn (x : Ext)
  | mperm (x : Ext)
  | mred (x : Ext)
  | xopen (x : Ext)
  | xnext (x : Ext)
  | xnext2 (x : Ext)
  | xisect (x : Ext)
  | xunion (x : Ext)
  | xskip (x : Ext)
  | xclose (x : Ext)
  | xsave (x : Ext)
  | xload (x : Ext)
  | xpos (x : Ext)
  | vote (x : Ext)
  | shfl (x : Ext)
  | fshfl (x : Ext)
  | matchV (x : Ext)
  | redux (x : Ext)
  | scan (x : Ext)
  | srd (x : Ext)
  | swr (x : Ext)
  | topo (a : BitVec 7) (d : BitVec 7)
  | topoX (x : Ext)
  | time (d : BitVec 7)
  | timeX (x : Ext)
  | perf (x : Ext)
  | rte
  | rteX
  | csave (x : Ext)
  | cload (x : Ext)
  | rgnclr (x : Ext)
  | tlbinv (x : Ext)
  | trapEntry
  | fenceComplete
  | sleepEnd
  | waitmTimeout
  | warpActivate
  | scratchClear
  | readReq
  | readGrant
  | exclReq
  | exclWaitExpire
  | exclGrant
  | storeReq
  | writePerform
  | storeAck
  | atomReq
  | atomAck
  | forward
  | fwdData
  | writeback
  | recall
  | renew
  | renewTimer
  | holderLeaseBound
  | watchSet
  | watchFire
  | watchTimeout
  | lostNotice
  | unknownMessage
  | xexpReached
  | holderDeadTimeout
  | sharedExpire
  | lenDouble
  | regionMerge
  | lostClearRequest
  | homeMemoryFailure
  | patrolScrub
  | hbmSelfRefresh
  | hbmBwWindow
  | tcCalibration
  | replicaOutOfService
  | eRaise
  | eLower
  | linkLaneFail
  | linkWidthChangeDone
  | linkDisableReroute
  | kelviaHalfFail
  | dieClockChangeDone
  | powerSample
  | gatingDelayExpire
  | gatingPowerSwitch
  | dieWake
  | dieWakeDone
  | firmwareRetireDie
  | walkDone
  | faultRecordRetry
  | translationInvalidate
  | queueTableWrite
  | queueTailBind
  | slotRotation
  | launchAdmit
  | dieReserve
  | priorityPreempt
  | teamPlace
  | progressSwap
  | timeSliceSwap
  | dieGroupSwap
  | preemptRequest
  | teamResume
  | watchdogFirstLimit
  | watchdogSecondLimit
  | gridComplete
  | poolGridTermination
  | shellerFullWarp
  | shellerPartialWarp
  | stealSearch
  | stealRequest
  | stealReply
  | copyChunkSend
  | copyArrive
  | matrixGrant
  | rowGroupCommit
  | lookaheadRead
  | sproutBudgetExpire
  | recruitmentReleaseDone
  | spanIncomingPut
  | spanIncomingGet
  | spanIncomingAtomic
  | spanAck
  | spanTimeout
  | spanPortFail
  | spanPortRestore
  | noticeRetry
  | moduleIdWrite
  | svcErrClear
  | deadWrite
  | fqLogWrite
  | fqReplyResolve
  | fqReplyDecline
  | nrDroppedClear
  | attGoStart
  | attestationDone
  | dbgHalt
  | dbgResume
  | dbgDataWrite
  | incWrite
  | lclrStart
  | lclrDone
  | serviceRegisterWrite
  | serviceUndefinedAccess
  | bootFirmwareVerify
  | memorySitesTrained
  | kelviaLinkUp
  | dieJoin
  | fullServiceReached
  | moduleReset
  | computeDieFailure
  | memorySiteFailure
  | companionMemoryResponse
  | vaultAccessComplete
  | outstandingDecrementSend
  | lostClearAnswer
  | invalidationAcknowledge
deriving DecidableEq, Repr

end Sys2Proof
end

