-- ==== Sys2Proof/Machine/Sig.lean ====
section
/-! DEFINITION. What each opcode's operand positions hold: the tables of R246 to R261, R262, R283, R290, R303,
R324, R337, R338, R360 to R368, R376, R386, R436, R443 and R470, as one function from the opcode and its fields
to a signature. Well-formedness (R236), the declarations check (R182) and the full/empty checks (R177, R178) are
all read off the signature. -/

namespace Sys2Proof
namespace Machine

/-- Register files that carry full/empty bits (R176). -/
inductive File where
  | v | f | s | p
deriving DecidableEq, Repr

/-- Kinds of an operand position (R223); `n` is the number of registers, `al` the alignment of the first. -/
inductive PK where
  | none                       -- the opcode does not have the position
  | int (n : Nat)              -- V or S run, special register, inline integer, literal
  | uni (n : Nat)              -- S run, uniform special register, inline integer, literal (R338)
  | vs (n al : Nat)            -- V or S registers only
  | v (n al : Nat)             -- V registers; S under U = 1
  | s (n al : Nat)             -- S registers
  | flt                        -- F register, interval constant or literal
  | dbl                        -- even F pair, interval constant or literal
  | f (n al : Nat)             -- F registers
  | pred
  | stream
  | bar
  | special                    -- a special register
  | memb                       -- a member mask: S quad or inline −1 (R385)
deriving DecidableEq, Repr

/-- Kinds of the second destination. -/
inductive EK where
  | none
  | pred
  | predOpt
  | v (n al : Nat)
deriving DecidableEq, Repr

/-- How an opcode uses a literal (R227). -/
inductive LitUse where
  | selector                   -- through selectors 0x3ff
  | disp                       -- a displacement (R233)
  | operand                    -- an operand of its own
  | operand32                  -- likewise, sign-extended from 32 bits (R226)
  | label                      -- a label in bits [31:0]
deriving DecidableEq, Repr

structure Sig where
  d : PK := .none
  dRead : Bool := false
  a : PK := .none
  b : PK := .none
  c : PK := .none
  e : EK := .none
  mod : Bool := true           -- MOD is defined and accepted
  imm : Bool := true           -- IMM8 is accepted
  uOk : Bool := false
  base : Bool := false
  lit : LitUse := .selector
  fzi : Bool := false
  fzo : Bool := false
  always : Bool := false       -- the guard must be always
  other : Bool := true         -- any further condition
  reads : List (File × Nat) := []
  writes : List (File × Nat) := []
deriving Repr

end Machine
open Machine
/-- Bits [lo + w − 1 : lo] of MOD. -/
def Ext.m (x : Ext) (lo w : Nat) : Nat := x.mod.toNat / 2 ^ lo % 2 ^ w

/-- MOD has no bit outside the mask. -/
def Ext.within (x : Ext) (mask : BitVec 16) : Bool := x.mod &&& ~~~mask = 0

/-- The integer type code (R246) and the registers one value takes. -/
def Ext.ty (x : Ext) : Nat := x.m 0 4
def tyN (ty : Nat) : Nat := if ty = 2 || ty = 3 then 2 else 1

namespace Machine

/-- Registers moved by an access size code of LD, ST, SLD and SST. -/
def szN (sz : Nat) : Nat := if sz = 1 then 2 else if sz = 2 then 4 else 1

/-- Positions of the address of R233 in space SP. -/
def baseKind (sp : Nat) : PK := if sp = 0 then .int 2 else .int 1
def baseUni (sp : Nat) : PK := if sp = 0 then .uni 2 else .uni 1

end Machine

/-- Scale and displacement are well-formed (R233). -/
def Ext.addrOk (x : Ext) : Bool := x.m 12 3 ≤ 4 && (x.m 15 1 = 0 || x.imm = 0)
def Ext.dispUse (x : Ext) : LitUse := if x.m 15 1 = 1 then .disp else .selector

namespace Machine

def sigInt (op : Op) (x : Ext) : Sig :=
  let n := tyN x.ty
  let tyOk := x.ty ≤ 3
  let bin (mask : BitVec 16) : Sig :=
    { d := .v n n, a := .int n, b := .int n, mod := tyOk && x.within mask, imm := x.imm = 0, uOk := true, base := true }
  let una (mask : BitVec 16) : Sig := { bin mask with b := .none }
  let shf (mask : BitVec 16) : Sig := { bin mask with b := .int 1 }
  match op with
  | .iadd | .isub | .imul => bin 0x1f
  | .imulh | .imin | .imax | .iand | .ior | .ixor => bin 0xf
  | .imad => { bin 0x1f with dRead := true }
  | .idiv | .irem => bin 0x3f
  | .iabs => { una 0x1f with other := x.ty % 2 = 0 }
  | .inot | .brev | .mov => una 0xf
  | .shl | .shr | .sar | .rot | .bfx => shf 0xf
  | .bfi => { shf 0xf with dRead := true }
  | .popc | .clz => { una 0xf with d := .v 1 1 }
  | .lea => { shf 0x1ff with other := x.m 4 3 ≤ 4 && x.m 7 2 ≤ 2 && (x.m 7 2 = 0 || x.ty ≤ 1) }
  | .movl => { una 0xf with a := .none, lit := if n = 2 then .operand else .operand32, base := false }
  | .sel => { bin 0xf with c := .int n, imm := x.imm.toNat < 16, uOk := false, base := false, reads := [(.p, x.imm.toNat)] }
  | .icmp => { bin 0xff with d := .pred, other := x.m 4 4 ≤ 5, uOk := false, base := false }
  | .plop =>
    let o := x.m 0 4
    { d := .pred, a := .pred, b := if o ∈ [1, 2, 3, 6, 7, 8] then .pred else .none, c := if o ∈ [6, 7] then .pred else .none, mod := x.within 0xf && o ≤ 10, imm := x.imm = 0 }
  | .pmov =>
    let o := x.m 0 3
    let g : Sig := { mod := x.within 0x7 && o ≤ 4, imm := x.imm = 0 }
    match o with
    | 0 => { g with d := .pred, a := .pred }
    | 1 => { g with d := .vs 1 1, a := .pred }
    | 2 => { g with d := .pred, a := .vs 1 1 }
    | 3 => { g with d := .vs 1 1, reads := (List.range 16).map fun i => (.p, i) }
    | _ => { g with a := .vs 1 1, writes := (List.range 15).map fun i => (.p, i) }
  | .cvti =>
    { una 0xf1f with d := .v (tyN x.ty) (tyN x.ty), a := .int (tyN (x.m 8 4)), mod := x.within 0xf1f && x.ty ≤ 7 && x.m 8 4 ≤ 7 }
  | _ => { bin 0x70 with dRead := true }

def sigFlt (op : Op) (x : Ext) : Sig :=
  let imm0 := x.imm = 0
  let ff (k : PK) (mask : BitVec 16) : Sig :=
    { d := if k = .dbl then .f 2 2 else .f 1 1, a := k, b := k, mod := x.within mask, imm := imm0, base := true,
      fzi := true, fzo := true }
  let f1 (k : PK) (mask : BitVec 16) : Sig := { ff k mask with b := .none }
  match op with
  | .fadd | .fsub | .fmul | .fdiv => ff .flt 1
  | .ffma => { ff .flt 1 with dRead := true }
  | .fsqrt | .fsqr | .frcp | .frsqrt | .fmid | .frad | .fwid | .fmig | .fmag => f1 .flt 1
  | .fabs | .fneg | .fmov => f1 .flt 0
  | .fmin | .fmax | .fhull | .fisect => ff .flt 0
  | .fmk => { ff .flt 0 with a := .int 1, b := .int 1, fzi := false }
  | .flo | .fhi | .fclass => { f1 .flt 0 with d := .v 1 1, fzo := false }
  | .fbis => { f1 .flt 1 with e := .pred, base := false }
  | .fcmp => { ff .flt 7 with d := .pred, other := x.m 0 3 ≤ 5, base := false, fzo := false }
  | .fset =>
    { ff .flt 7 with d := .pred, b := if 3 ≤ x.m 0 3 then .none else .flt, other := x.m 0 3 ≤ 6, base := false, fzo := false }
  | .fdec =>
    if x.m 0 2 = 0 then { f1 .flt 3 with d := .v 1 1 }
    else { ff .flt 3 with b := .int 1, other := x.m 0 2 ≤ 2 }
  | .fcvt =>
    let fmt := x.m 0 3; let dir := x.m 3 1; let sat := x.m 4 1; let en := x.m 5 1
    let g := { f1 .flt 0x3f with other := fmt ≤ 5 && (sat = 0 || (fmt = 3 && dir = 0)) && (en = 0 || dir = 0) }
    if dir = 0 then { g with d := .v 1 1, e := if en = 1 then .pred else .none }
    else { g with a := .int 1 }
  | .fcvti =>
    let n := tyN x.ty; let dir := x.m 4 1; let en := x.m 6 1
    let g := { f1 .flt 0x7f with other := x.ty ≤ 3 && (en = 0 || dir = 0) }
    if dir = 0 then { g with d := .v n n, e := if en = 1 then .v n n else .none }
    else { g with a := .int n }
  | .fpown | .fldexp => { ff .flt 1 with b := .int 1 }
  | .fsel => { ff .flt 0 with c := .flt, imm := x.imm.toNat < 16, base := false, reads := [(.p, x.imm.toNat)] }
  | .fmovl => { f1 .flt 0 with a := .none, base := false, lit := .operand, fzi := false }
  | .dadd | .dsub | .dmul | .ddiv => ff .dbl 1
  | .dfma => { ff .dbl 1 with dRead := true }
  | .dsqrt => f1 .dbl 1
  | .dcmp => { ff .dbl 7 with d := .pred, other := x.m 0 3 ≤ 5, base := false, fzo := false }
  | .dcvt =>
    if x.m 0 1 = 0 then { f1 .flt 3 with d := .f 2 2, other := x.m 1 1 = 0 } else { f1 .dbl 3 with d := .f 1 1 }
  | .fgate => { ff .flt 0x3f with other := x.m 0 3 ≤ 4 && x.m 4 2 ≤ 2 }
  | _ => { f1 .flt 0xf with other := x.m 0 3 ≤ 4 }

def sigRow (op : Op) (x : Ext) : Sig :=
  let n := x.imm.toNat
  let g : Sig := { d := .f 1 1, a := .f n 1, e := .pred, mod := x.mod = 0, imm := 1 ≤ n && n ≤ 64, fzi := true, fzo := true }
  match op with
  | .rmax | .rsum => g
  | .rstat => { g with d := .f 2 1 }
  | .smxu => { g with d := .f 2 1, dRead := true }
  | .smxa => { g with d := .f n 1, b := .f 2 1 }
  | _ => { g with d := .f n 1, b := .flt, mod := x.within 1 }

def sigMem (op : Op) (x : Ext) : Sig :=
  let imm0 := x.imm = 0
  let addr (sp : Nat) (mask : BitVec 16) : Sig :=
    { a := baseKind sp, c := .int 1, mod := x.within (mask ||| 0xf000), other := x.addrOk, lit := x.dispUse, base := true }
  match op with
  | .ld =>
    let sz := x.m 0 3; let sp := x.m 3 2
    let g := addr sp 0x1ff
    { g with d := .v (szN sz) (szN sz), other := g.other && sz ≤ 6 && x.m 5 3 ≤ 1 && (x.m 8 1 = 0 || sp = 0) }
  | .st =>
    let sz := x.m 0 3; let sp := x.m 3 2
    let g := addr sp 0xff
    { g with b := if sz = 2 then .vs 4 4 else .int (szN sz), other := g.other && sz ≤ 5 && sz ≠ 4 && x.m 5 3 ≤ 6 }
  | .ldf =>
    let fmt := x.m 0 4; let sp := x.m 4 2
    let g := addr sp 0x3ff
    { g with d := if fmt = 9 then .f 2 2 else .f 1 1, other := g.other && fmt ≤ 9 && x.m 6 3 ≤ 1 && (x.m 9 1 = 0 || sp = 0) }
  | .stf =>
    let fmt := x.m 0 4; let sp := x.m 4 2
    let g := addr sp 0xfff
    { g with b := if fmt = 9 then .dbl else .flt, other := g.other && fmt ≤ 9 && fmt ≠ 6 && x.m 6 2 ≤ 2 && (x.m 8 1 = 0 || fmt = 5)
        && x.m 9 3 ≤ 6 && ((x.m 6 2 = 0 && x.m 8 1 = 0) || !(fmt ∈ [0, 7, 8])) }
  | .sld =>
    let sz := x.m 0 2; let sp := x.m 2 2
    let g := addr sp 0x7f
    { g with d := .s (szN sz) (szN sz), a := baseUni sp, c := .uni 1, base := false, other := g.other && sz ≤ 2 && x.m 4 3 ≤ 1 }
  | .sst =>
    let sz := x.m 0 2; let sp := x.m 2 2
    let g := addr sp 0x7f
    { g with b := if sz = 2 then .s 4 4 else .uni (szN sz), a := baseUni sp, c := .uni 1, base := false, other := g.other && sz ≤ 2 && x.m 4 3 ≤ 6 }
  | .atom =>
    let n := if 2 ≤ x.m 0 2 then 2 else 1; let sp := x.m 2 2
    let g := addr sp 0x1ff
    { g with d := .v n n, b := .int n, other := g.other && x.m 4 4 ≤ 7 && (x.m 8 1 = 0 || sp = 0) }
  | .atomf =>
    let sp := x.m 2 2; let fop := x.m 4 4
    let g := addr sp 0x1fd
    { g with d := .f 1 1, b := .flt, other := g.other && fop ≤ 5 && (x.m 0 1 = 0 || !(fop ∈ [3, 4])) && (x.m 8 1 = 0 || sp = 0) }
  | .red =>
    let sp := x.m 2 2; let o := x.m 4 4; let fl := x.m 9 1
    let n := if 2 ≤ x.m 0 2 then 2 else 1
    let g := addr sp 0x3ff
    { g with b := if fl = 1 then .flt else .int n, other := g.other && (x.m 8 1 = 0 || sp = 0)
        && (if fl = 1 then x.m 1 1 = 0 && o ≤ 4 && (x.m 0 1 = 0 || o ≤ 2) else o ≤ 7 && o ≠ 6) }
  | .cas =>
    let n := if 2 ≤ x.m 0 2 then 2 else 1; let sp := x.m 2 2
    let g := addr sp 0x10f
    { g with d := .v n n, dRead := true, b := .int n, other := g.other && (x.m 8 1 = 0 || sp = 0) }
  | .fence => { mod := x.within 7 && x.m 0 3 ≤ 5, imm := imm0, base := true }
  | .pref => let g := addr 0 3; { g with other := g.other && x.m 0 2 ≤ 1 }
  | .cctl =>
    if x.m 0 2 = 0 then { mod := x.mod = 0, imm := imm0, base := true }
    else let g := addr 0 3; { g with other := g.other && x.m 0 2 ≤ 2 }
  | .smap => { a := .uni 1, b := .uni 1, c := .uni 2, mod := x.within 1, imm := imm0 }
  | .sunmap | .sflush => { a := .uni 1, b := .uni 1, mod := x.mod = 0, imm := imm0 }
  | .sqry => { d := .vs 1 1, a := .uni 1, mod := x.within 0xf && x.m 0 4 ≤ 4, imm := imm0 }
  | .cpy | .cpyg | .cpya =>
    { a := .uni 1, b := .uni 1, c := .uni 1, e := if x.m 0 1 = 1 then .pred else .none, mod := x.within 1, imm := imm0 }
  | .cpyq => { d := .vs 1 1, b := .uni 1, mod := x.mod = 0, imm := imm0 }
  | .binit | .barr => { a := .bar, b := .uni 1, mod := x.mod = 0, imm := imm0 }
  | .bwait => { a := .bar, mod := x.mod = 0, imm := x.imm.toNat < 2 }
  | _ => { d := .vs 1 1, a := .bar, mod := x.mod = 0, imm := imm0 }

/-- Element formats of R303: integers are codes 3 and 4. -/
def fmtPair (fa fb : Nat) : Bool := (fa ≤ 1 && fb ≤ 1) || (fa = fb && 2 ≤ fa && fa ≤ 6)
def isIntFmt (f : Nat) : Bool := f = 3 || f = 4

def sigMatrix (op : Op) (x : Ext) : Sig :=
  let g : Sig := { d := .f 16 1, dRead := x.m 11 1 = 0, a := .s 4 4, b := .s 4 4, imm := x.imm = 0, fzi := true, fzo := true }
  let fa := x.m 0 4; let fb := x.m 4 4; let sa := x.m 8 1; let sb := x.m 9 1
  let bOnly (mask : BitVec 16) : Bool := x.within mask && fa = 0 && sa = 0 && fb ≤ 6 && (sb = 0 || isIntFmt fb)
  match op with
  | .mma =>
    { g with mod := x.within 0xfff && fmtPair fa fb && (sa = 0 || isIntFmt fa) && (sb = 0 || isIntFmt fb) }
  | .mmaq => { g with mod := x.within 0xc0f && x.m 2 2 ≤ 2 }
  | .mmai => { g with mod := x.within 0x801 }
  | .mtrn => { g with a := .none, mod := bOnly 0xfff, imm := x.imm.toNat < 128 }
  | .mperm => { g with a := .none, mod := bOnly 0x3fff, imm := x.imm.toNat < 128 }
  | _ => { g with b := .none, d := .f 1 1, mod := x.within 0xfff && fb = 0 && sb = 0 && fa ≤ 6 && (sa = 0 || isIntFmt fa) }

/-- The X number of a stream selector. -/
def xNum : Sel → Nat
  | .x n => n.toNat
  | _ => 8

def sigStream (op : Op) (x : Ext) : Sig :=
  let g : Sig := { mod := x.mod = 0, imm := x.imm = 0 }
  let v := x.imm.toNat
  match op with
  | .xopen => { g with d := .stream, a := baseUni (x.m 0 2), b := .uni 1, mod := x.within 3, imm := v < 4 }
  | .xnext =>
    { g with d := .v 2 1, e := .pred, a := .stream, mod := x.within 1, imm := v < 128 && (x.m 0 1 = 1 || v = 0), writes := if x.m 0 1 = 1 then [(.f, v)] else [] }
  | .xnext2 =>
    { g with d := .v 3 1, e := .pred, a := .stream, mod := x.within 1, imm := v < 128 && (x.m 0 1 = 1 || v = 0), writes := if x.m 0 1 = 1 then [(.f, v), (.f, v + 1)] else [] }
  | .xisect | .xunion =>
    { g with d := .stream, a := .stream, b := .stream, other := xNum x.d ≠ xNum x.a && xNum x.d ≠ xNum x.b && xNum x.a ≠ xNum x.b }
  | .xskip => { g with e := .predOpt, a := .stream, b := .uni 1 }
  | .xclose => { g with d := .stream }
  | .xsave => { g with a := baseUni (x.m 0 2), b := .stream, mod := x.within 3 }
  | .xload => { g with d := .stream, a := baseUni (x.m 0 2), mod := x.within 3 }
  | _ => { g with d := .vs 1 1, a := .stream, mod := x.within 0xf && x.m 0 4 ≤ 9 }

def sigWarp (op : Op) (x : Ext) : Sig :=
  let n := tyN x.ty
  let fl := x.m 8 1; let o := x.m 4 4
  let red (mask : BitVec 16) : Sig :=
    { d := if fl = 1 then .f 1 1 else .v n n, e := .predOpt, a := if fl = 1 then .flt else .int n, c := .memb, mod := x.within mask && (if fl = 1 then x.ty = 0 && o ≤ 3 else x.ty ≤ 3 && o ≤ 5), imm := x.imm = 0 }
  match op with
  | .vote =>
    let o := x.m 0 3
    { d := if o ≤ 2 then .pred else .v 1 1, e := .predOpt, a := .pred, c := .memb, mod := x.within 7 && o ≤ 4, imm := x.imm.toNat < 4 && (3 ≤ o || x.imm = 0) }
  | .shfl => { d := .v n n, e := .predOpt, a := .int n, b := .int 1, c := .memb, mod := x.within 0x3f && x.ty ≤ 3, imm := x.imm = 0 }
  | .fshfl => { d := .f 1 1, e := .predOpt, a := .flt, b := .int 1, c := .memb, mod := x.within 0x30, imm := x.imm = 0 }
  | .matchV => { d := .v n n, e := .predOpt, a := .int n, c := .memb, mod := x.within 0xf && x.ty ≤ 3, imm := x.imm = 0 }
  | .redux => red 0x1ff
  | _ => let g := red 0x3ff; { g with other := !(fl = 1 && x.m 9 1 = 1 && 1 ≤ o) }

/-- ROP, FL and SGN of R443. -/
def ropOk (x : Ext) : Bool :=
  let rop := x.m 0 3; let fl := x.m 3 1; let sgn := x.m 4 1
  rop ≤ 4 && (rop ≠ 4 || fl = 1) && (sgn = 0 || (fl = 0 && (rop = 2 || rop = 3)))

def sigControl (op : Op) (x : Ext) : Sig :=
  let imm0 := x.imm = 0
  let g : Sig := { mod := x.mod = 0, imm := imm0, base := true }
  match op with
  | .join | .ret | .brkpt | .rte => { g with always := true }
  | .jmpx => { g with a := .int 2, mod := x.within 1 }
  | .barsync => { g with mod := x.within 3 && x.m 0 2 ≤ 2 }
  | .waitk => { g with a := .uni 1, mod := x.within 3, base := false }
  | .waitm =>
    let n := if x.m 3 1 = 1 then 2 else 1
    { g with d := .s n n, e := .pred, a := .uni 2, b := .uni n, c := .uni 1, mod := x.within 0xf && x.m 0 3 ≤ 3, base := false }
  | .sleep | .trap => { g with a := .int 1 }
  | .split => { g with d := .f 1 1, e := .pred, a := .flt, mod := x.within 1, base := false, lit := .label, fzi := true, fzo := true }
  | .spawn => { g with e := .pred, base := false, lit := .label }
  | .poolq => { g with d := .v 1 1, a := .int 1 }
  | .recruit => { g with d := .s 1 1, e := .pred, a := .int 1, b := .int 1, mod := x.within 0x1f && ropOk x, base := false, lit := .label }
  | .hend =>
    { g with a := if x.m 0 3 = 0 then .none else if x.m 3 1 = 1 then .flt else .v 1 1, mod := x.within 0x1f && ropOk x, base := false, fzi := true }
  | .hjoin => { g with d := if x.m 3 1 = 1 then .f 1 1 else .v 1 1, e := .pred, a := .s 16 16, mod := x.within 8, base := false, fzo := true }
  | .srd =>
    let w := x.m 0 1
    { g with d := .vs (w + 1) (w + 1), a := .special, mod := x.within 1, base := false, other := w = 0 || x.a ∈ [.sr .tc, .sr .faddr, .sr .lpc] }
  | .swr =>
    let w := x.m 0 1
    { g with d := .special, a := .int (w + 1), mod := x.within 1, base := false, other := w = 0 || x.d = .sr .lpc }
  | .topo => { g with d := .vs 1 1, a := .int 1 }
  | .time => { g with d := .vs 2 2 }
  | .perf => { g with d := .vs 2 2, a := .int 1, base := false }
  | .csave | .cload =>
    let k := x.m 0 3
    { g with a := .uni 2, b := if k ≤ 2 then .uni 1 else .none, c := if k ≤ 2 then .uni 1 else .none, mod := x.within 7 && k ≤ 5, base := false }
  | .rgnclr => { g with d := .s 1 1, a := .uni 2, b := .uni 1, base := false }
  | .tlbinv => { g with a := .uni 2, b := .uni 1, mod := x.within 3 && x.m 0 2 ≤ 2, base := false }
  | _ => g

/-- The signature of an opcode under its fields. -/
def sig (op : Op) (x : Ext) : Sig :=
  match op with
  | .iadd | .isub | .imul | .imulh | .imad | .idiv | .irem | .imin | .imax | .iabs | .iand | .ior | .ixor | .inot | .shl | .shr
  | .sar | .rot | .bfx | .bfi | .popc | .clz | .brev | .lea | .mov | .movl | .sel | .icmp | .plop | .pmov | .cvti | .idot4 =>
    sigInt op x
  | .rmax | .rsum | .rstat | .smxu | .smxa | .rnorm => sigRow op x
  | .fadd | .fsub | .fmul | .ffma | .fdiv | .fsqrt | .fsqr | .frcp | .frsqrt | .fabs | .fneg | .fmin | .fmax | .fhull | .fisect
  | .fmk | .flo | .fhi | .fmid | .frad | .fwid | .fmig | .fmag | .fbis | .fcmp | .fset | .fclass | .fdec | .fcvt | .fcvti
  | .fpown | .fldexp | .fmov | .fsel | .fmovl | .dadd | .dsub | .dmul | .dfma | .ddiv | .dsqrt | .dcmp | .dcvt
  | .fexp | .fexp2 | .flog | .flog2 | .ftanh | .fsig | .ferf | .fsin | .fcos | .fgelu | .fsilu | .fgate => sigFlt op x
  | .ld | .st | .ldf | .stf | .sld | .sst | .atom | .atomf | .red | .cas | .fence | .pref | .cctl | .smap | .sunmap | .sflush
  | .sqry | .cpy | .cpyg | .cpya | .cpyq | .binit | .barr | .bwait | .btest => sigMem op x
  | .mma | .mmaq | .mmai | .mtrn | .mperm | .mred => sigMatrix op x
  | .xopen | .xnext | .xnext2 | .xisect | .xunion | .xskip | .xclose | .xsave | .xload | .xpos => sigStream op x
  | .vote | .shfl | .fshfl | .matchV | .redux | .scan => sigWarp op x
  | _ => sigControl op x

/-! ### Checking selectors against kinds -/

end Machine

/-- Special registers that may differ between threads (R173). -/
def SReg.perThread : SReg → Bool
  | .lane | .tid | .item | .hidx | .hcount => true
  | _ => false

namespace Machine

/-- An aligned run fits below the end of its file. -/
def run (n al lim k : Nat) : Bool := k % al = 0 && k + n ≤ lim

/-- The selector is accepted in a position of the kind (R219, R222 to R225); `u` is the U bit. A run of V or F registers that
reaches past the file is no wrong selector: the declarations check finds it (R182, R324). -/
def PK.accepts (u : Bool) : PK → Sel → Bool
  | .none, x => x = .absent
  | .int n, .reg k => !u && run n n 128 k.toNat
  | .int n, .s k => run n n 384 k.val
  | .int _, .sr r => !(u && r.perThread)
  | .int _, .imm _ => true
  | .int _, .lit => true
  | .uni n, .s k => run n n 384 k.val
  | .uni _, .sr r => !r.perThread
  | .uni _, .imm _ => true
  | .uni _, .lit => true
  | .vs _ al, .reg k => !u && k.toNat % al = 0
  | .vs n al, .s k => run n al 384 k.val
  | .v _ al, .reg k => !u && k.toNat % al = 0
  | .v n al, .s k => u && run n al 384 k.val
  | .s n al, .s k => run n al 384 k.val
  | .flt, .reg _ => true
  | .flt, .const _ => true
  | .flt, .lit => true
  | .dbl, .reg k => run 2 2 128 k.toNat
  | .dbl, .const _ => true
  | .dbl, .lit => true
  | .f _ al, .reg k => k.toNat % al = 0
  | .pred, .p _ => true
  | .stream, .x _ => true
  | .bar, .b _ => true
  | .special, .sr _ => true
  | .memb, .s k => run 4 4 384 k.val
  | .memb, .imm k => k = 0x7f
  | _, _ => false

def EK.accepts : EK → Sel2 → Bool
  | .none, e => e = .reg 0
  | .pred, .p _ => true
  | .predOpt, .p _ => true
  | .predOpt, .none => true
  | .v _ al, .reg k => k.toNat % al = 0
  | _, _ => false

/-- The registers a position names. -/
def PK.regs : PK → Sel → List (File × Nat)
  | .int n, .reg k | .vs n _, .reg k | .v n _, .reg k => (List.range n).map fun i => (.v, k.toNat + i)
  | .int n, .s k | .uni n, .s k | .vs n _, .s k | .v n _, .s k | .s n _, .s k => (List.range n).map fun i => (.s, k.val + i)
  | .memb, .s k => (List.range 4).map fun i => (.s, k.val + i)
  | .flt, .reg k => [(.f, k.toNat)]
  | .dbl, .reg k => [(.f, k.toNat), (.f, k.toNat + 1)]
  | .f n _, .reg k => (List.range n).map fun i => (.f, k.toNat + i)
  | .pred, .p k => [(.p, k.toNat)]
  | _, _ => []

def EK.regs : EK → Sel2 → List (File × Nat)
  | .pred, .p k => [(.p, k.toNat)]
  | .predOpt, .p k => [(.p, k.toNat)]
  | .v n _, .reg k => (List.range n).map fun i => (.v, k.toNat + i)
  | _, _ => []

/-- A is a destination of HJOIN, not a source (R443). -/
def aIsDest (op : Op) : Bool := op = .hjoin

/-- A T bit is allowed on a position that names a V, F, P or S source (R229). -/
def tOk (k : PK) (x : Sel) : Bool := !(k.regs x).isEmpty

/-- A 32-bit position reads the literal. -/
def PK.narrow : PK → Bool
  | .int 1 => true
  | .uni 1 => true
  | _ => false

/-- The literal is a sign-extended 32-bit value (R226). -/
def lit32 (l : DWord) : Bool := l.toNat / 2 ^ 32 = 0 || l.toNat / 2 ^ 32 = 2 ^ 32 - 1

/-- The base form of an opcode as an extended form (R218): no index on the memory opcodes (R233). -/
def hasIndex (op : Op) : Bool := op ∈ [Op.ld, .st, .ldf, .stf, .atom, .atomf, .red, .cas, .pref]

end Machine

def Ext.ofBase (op : Op) (u : Bool) (d a b : Sel) (l : Option DWord) : Ext :=
  { u := u, d := d, a := a, b := b, c := if hasIndex op then .imm 0 else .absent, e := .reg 0, g := 15, gs := 0,
    tA := false, tB := false, tC := false, fzi := false, fzo := false, imm := 0, mod := 0, lit := l }

namespace Machine

/-- The selector a base-form field stands for: S n under U = 1 in a position the opcode has (R218, R219). -/
def baseSel (u : Bool) (k : PK) (n : BitVec 7) : Sel :=
  if u && k ≠ .none then .s ⟨n.toNat, Nat.lt_trans n.isLt (by decide)⟩ else .reg n

end Machine

/-- The extended equivalent of a base form. -/
def Ext.base (op : Op) (u : Bool) (b a d : BitVec 7) (l : Option DWord := none) : Ext :=
  let g := sig op (Ext.ofBase op u (.reg d) (.reg a) (.reg b) l)
  Ext.ofBase op u (baseSel u g.d d) (baseSel u g.a a) (baseSel u g.b b) l


/-! ### The checks of R236, in a fixed order -/

namespace Machine
/-- Why an encoding is illegal. -/
inductive Bad where
  | uBit | guard | mod | imm | posD | posA | posB | posC | posE | tBit | flush | literal
deriving DecidableEq, Repr
end Machine

/-- The literal is present exactly where it is used, and its unused bits are as R226 and R227 require. -/
def Ext.litOk (x : Ext) (g : Machine.Sig) : Bool :=
  let sels := [(g.a, x.a), (g.b, x.b), (g.c, x.c)]
  let used := sels.any fun p => p.2 = .lit
  match x.lit, g.lit with
  | none, .selector => !used
  | none, _ => false
  | some l, .selector => used && sels.all fun p => !(p.2 = .lit && p.1.narrow) || Machine.lit32 l
  | some _, .disp => !used
  | some _, .operand => !used
  | some l, .operand32 => !used && Machine.lit32 l
  | some l, .label => !used && l.toNat < 2 ^ 32

open Machine in
/-- The first check of R236 that an extended form fails. -/
def Ext.check (op : Op) (x : Ext) : Option Bad :=
  let g := sig op x
  if x.u && !g.uOk then some .uBit
  else if g.always && !(x.g = 15 && x.gs = 0) then some .guard
  else if !(g.mod && g.other) then some .mod
  else if !g.imm then some .imm
  else if !g.d.accepts x.u x.d then some .posD
  else if !g.a.accepts x.u x.a then some .posA
  else if !g.b.accepts x.u x.b then some .posB
  else if !g.c.accepts x.u x.c then some .posC
  else if !g.e.accepts x.e then some .posE
  else if (x.tA && !tOk g.a x.a) || (x.tB && !tOk g.b x.b) || (x.tC && !tOk g.c x.c) then some .tBit
  else if (x.fzi && !g.fzi) || (x.fzo && !g.fzo) then some .flush
  else if !x.litOk g then some .literal
  else none

end Sys2Proof
end

