-- ==== Sys2Proof/Machine/View.lean ====
section
/-! DEFINITION. The shape of an instruction's encoding (R217 to R221, R230 to R232): every instruction of the
opcode table as one of seven layouts, and back. -/

namespace Sys2Proof

/-- The layouts of an instruction. -/
inductive View where
  | base (op : Op) (u : Bool) (b a d : BitVec 7)
  | ext (op : Op) (x : Ext)
  | litBase (op : Op) (u : Bool) (d : BitVec 7) (l : DWord)      -- length 10
  | jump (op : Op) (j : BitVec 22)
  | jumpX (op : Op) (j : BitVec 22) (g : BitVec 4) (gs : BitVec 2)
  | brc (c : BitVec 4) (tC : Bool) (l : DWord)
  | brm (p3 p2 p1 p0 : BitVec 4) (join : BitVec 16) (l : DWord)
deriving DecidableEq, Repr

/-- The only fields an extended JOIN, RET, BRKPT or RTE can have. -/
def Ext.fixed : Ext :=
  { u := false, d := .absent, a := .absent, b := .absent, c := .absent, e := .reg 0, g := 15, gs := 0, tA := false,
    tB := false, tC := false, fzi := false, fzo := false, imm := 0, mod := 0, lit := none }

/-- The layout of an instruction; none for a step of the part. -/
def Instr.view : Instr → Option View
  | .nop => some (.base .nop false 0 0 0)
  | .nopX x => some (.ext .nop x)
  | .bra j => some (.jump .bra j)
  | .braX j g gs => some (.jumpX .bra j g gs)
  | .brc c tC lit => some (.brc c tC lit)
  | .brm p3 p2 p1 p0 jn lit => some (.brm p3 p2 p1 p0 jn lit)
  | .join => some (.base .join false 0 0 0)
  | .joinX => some (.ext .join Ext.fixed)
  | .call j => some (.jump .call j)
  | .callX j g gs => some (.jumpX .call j g gs)
  | .ret => some (.base .ret false 0 0 0)
  | .retX => some (.ext .ret Ext.fixed)
  | .jmpx a => some (.base .jmpx false 0 a 0)
  | .jmpxX x => some (.ext .jmpx x)
  | .exit => some (.base .exit false 0 0 0)
  | .exitX x => some (.ext .exit x)
  | .barsync => some (.base .barsync false 0 0 0)
  | .barsyncX x => some (.ext .barsync x)
  | .waitk x => some (.ext .waitk x)
  | .waitm x => some (.ext .waitm x)
  | .yield => some (.base .yield false 0 0 0)
  | .yieldX x => some (.ext .yield x)
  | .sleep a => some (.base .sleep false 0 a 0)
  | .sleepX x => some (.ext .sleep x)
  | .brkpt => some (.base .brkpt false 0 0 0)
  | .brkptX => some (.ext .brkpt Ext.fixed)
  | .trap a => some (.base .trap false 0 a 0)
  | .trapX x => some (.ext .trap x)
  | .split x => some (.ext .split x)
  | .spawn x => some (.ext .spawn x)
  | .poolq a d => some (.base .poolq false 0 a d)
  | .poolqX x => some (.ext .poolq x)
  | .recruit x => some (.ext .recruit x)
  | .hend x => some (.ext .hend x)
  | .hjoin x => some (.ext .hjoin x)
  | .iadd u b a d => some (.base .iadd u b a d)
  | .iaddX x => some (.ext .iadd x)
  | .isub u b a d => some (.base .isub u b a d)
  | .isubX x => some (.ext .isub x)
  | .imul u b a d => some (.base .imul u b a d)
  | .imulX x => some (.ext .imul x)
  | .imulh u b a d => some (.base .imulh u b a d)
  | .imulhX x => some (.ext .imulh x)
  | .imad u b a d => some (.base .imad u b a d)
  | .imadX x => some (.ext .imad x)
  | .idiv u b a d => some (.base .idiv u b a d)
  | .idivX x => some (.ext .idiv x)
  | .irem u b a d => some (.base .irem u b a d)
  | .iremX x => some (.ext .irem x)
  | .imin u b a d => some (.base .imin u b a d)
  | .iminX x => some (.ext .imin x)
  | .imax u b a d => some (.base .imax u b a d)
  | .imaxX x => some (.ext .imax x)
  | .iabs u a d => some (.base .iabs u 0 a d)
  | .iabsX x => some (.ext .iabs x)
  | .iand u b a d => some (.base .iand u b a d)
  | .iandX x => some (.ext .iand x)
  | .ior u b a d => some (.base .ior u b a d)
  | .iorX x => some (.ext .ior x)
  | .ixor u b a d => some (.base .ixor u b a d)
  | .ixorX x => some (.ext .ixor x)
  | .inot u a d => some (.base .inot u 0 a d)
  | .inotX x => some (.ext .inot x)
  | .shl u b a d => some (.base .shl u b a d)
  | .shlX x => some (.ext .shl x)
  | .shr u b a d => some (.base .shr u b a d)
  | .shrX x => some (.ext .shr x)
  | .sar u b a d => some (.base .sar u b a d)
  | .sarX x => some (.ext .sar x)
  | .rot u b a d => some (.base .rot u b a d)
  | .rotX x => some (.ext .rot x)
  | .bfx u b a d => some (.base .bfx u b a d)
  | .bfxX x => some (.ext .bfx x)
  | .bfi u b a d => some (.base .bfi u b a d)
  | .bfiX x => some (.ext .bfi x)
  | .popc u a d => some (.base .popc u 0 a d)
  | .popcX x => some (.ext .popc x)
  | .clz u a d => some (.base .clz u 0 a d)
  | .clzX x => some (.ext .clz x)
  | .brev u a d => some (.base .brev u 0 a d)
  | .brevX x => some (.ext .brev x)
  | .lea u b a d => some (.base .lea u b a d)
  | .leaX x => some (.ext .lea x)
  | .mov u a d => some (.base .mov u 0 a d)
  | .movX x => some (.ext .mov x)
  | .movl u d lit => some (.litBase .movl u d lit)
  | .movlX x => some (.ext .movl x)
  | .sel x => some (.ext .sel x)
  | .icmp x => some (.ext .icmp x)
  | .plop x => some (.ext .plop x)
  | .pmov x => some (.ext .pmov x)
  | .cvti u a d => some (.base .cvti u 0 a d)
  | .cvtiX x => some (.ext .cvti x)
  | .idot4 u b a d => some (.base .idot4 u b a d)
  | .idot4X x => some (.ext .idot4 x)
  | .fadd b a d => some (.base .fadd false b a d)
  | .faddX x => some (.ext .fadd x)
  | .fsub b a d => some (.base .fsub false b a d)
  | .fsubX x => some (.ext .fsub x)
  | .fmul b a d => some (.base .fmul false b a d)
  | .fmulX x => some (.ext .fmul x)
  | .ffma b a d => some (.base .ffma false b a d)
  | .ffmaX x => some (.ext .ffma x)
  | .fdiv b a d => some (.base .fdiv false b a d)
  | .fdivX x => some (.ext .fdiv x)
  | .fsqrt a d => some (.base .fsqrt false 0 a d)
  | .fsqrtX x => some (.ext .fsqrt x)
  | .fsqr a d => some (.base .fsqr false 0 a d)
  | .fsqrX x => some (.ext .fsqr x)
  | .frcp a d => some (.base .frcp false 0 a d)
  | .frcpX x => some (.ext .frcp x)
  | .frsqrt a d => some (.base .frsqrt false 0 a d)
  | .frsqrtX x => some (.ext .frsqrt x)
  | .fabs a d => some (.base .fabs false 0 a d)
  | .fabsX x => some (.ext .fabs x)
  | .fneg a d => some (.base .fneg false 0 a d)
  | .fnegX x => some (.ext .fneg x)
  | .fmin b a d => some (.base .fmin false b a d)
  | .fminX x => some (.ext .fmin x)
  | .fmax b a d => some (.base .fmax false b a d)
  | .fmaxX x => some (.ext .fmax x)
  | .fhull b a d => some (.base .fhull false b a d)
  | .fhullX x => some (.ext .fhull x)
  | .fisect b a d => some (.base .fisect false b a d)
  | .fisectX x => some (.ext .fisect x)
  | .fmk b a d => some (.base .fmk false b a d)
  | .fmkX x => some (.ext .fmk x)
  | .flo a d => some (.base .flo false 0 a d)
  | .floX x => some (.ext .flo x)
  | .fhi a d => some (.base .fhi false 0 a d)
  | .fhiX x => some (.ext .fhi x)
  | .fmid a d => some (.base .fmid false 0 a d)
  | .fmidX x => some (.ext .fmid x)
  | .frad a d => some (.base .frad false 0 a d)
  | .fradX x => some (.ext .frad x)
  | .fwid a d => some (.base .fwid false 0 a d)
  | .fwidX x => some (.ext .fwid x)
  | .fmig a d => some (.base .fmig false 0 a d)
  | .fmigX x => some (.ext .fmig x)
  | .fmag a d => some (.base .fmag false 0 a d)
  | .fmagX x => some (.ext .fmag x)
  | .fbis x => some (.ext .fbis x)
  | .fcmp x => some (.ext .fcmp x)
  | .fset x => some (.ext .fset x)
  | .fclass a d => some (.base .fclass false 0 a d)
  | .fclassX x => some (.ext .fclass x)
  | .fdec a d => some (.base .fdec false 0 a d)
  | .fdecX x => some (.ext .fdec x)
  | .fcvt a d => some (.base .fcvt false 0 a d)
  | .fcvtX x => some (.ext .fcvt x)
  | .fcvti a d => some (.base .fcvti false 0 a d)
  | .fcvtiX x => some (.ext .fcvti x)
  | .fpown b a d => some (.base .fpown false b a d)
  | .fpownX x => some (.ext .fpown x)
  | .fldexp b a d => some (.base .fldexp false b a d)
  | .fldexpX x => some (.ext .fldexp x)
  | .fmov a d => some (.base .fmov false 0 a d)
  | .fmovX x => some (.ext .fmov x)
  | .fsel x => some (.ext .fsel x)
  | .fmovl d lit => some (.litBase .fmovl false d lit)
  | .fmovlX x => some (.ext .fmovl x)
  | .rmax x => some (.ext .rmax x)
  | .rsum x => some (.ext .rsum x)
  | .rstat x => some (.ext .rstat x)
  | .smxu x => some (.ext .smxu x)
  | .smxa x => some (.ext .smxa x)
  | .rnorm x => some (.ext .rnorm x)
  | .dadd b a d => some (.base .dadd false b a d)
  | .daddX x => some (.ext .dadd x)
  | .dsub b a d => some (.base .dsub false b a d)
  | .dsubX x => some (.ext .dsub x)
  | .dmul b a d => some (.base .dmul false b a d)
  | .dmulX x => some (.ext .dmul x)
  | .dfma b a d => some (.base .dfma false b a d)
  | .dfmaX x => some (.ext .dfma x)
  | .ddiv b a d => some (.base .ddiv false b a d)
  | .ddivX x => some (.ext .ddiv x)
  | .dsqrt a d => some (.base .dsqrt false 0 a d)
  | .dsqrtX x => some (.ext .dsqrt x)
  | .dcmp x => some (.ext .dcmp x)
  | .dcvt a d => some (.base .dcvt false 0 a d)
  | .dcvtX x => some (.ext .dcvt x)
  | .fexp a d => some (.base .fexp false 0 a d)
  | .fexpX x => some (.ext .fexp x)
  | .fexp2 a d => some (.base .fexp2 false 0 a d)
  | .fexp2X x => some (.ext .fexp2 x)
  | .flog a d => some (.base .flog false 0 a d)
  | .flogX x => some (.ext .flog x)
  | .flog2 a d => some (.base .flog2 false 0 a d)
  | .flog2X x => some (.ext .flog2 x)
  | .ftanh a d => some (.base .ftanh false 0 a d)
  | .ftanhX x => some (.ext .ftanh x)
  | .fsig a d => some (.base .fsig false 0 a d)
  | .fsigX x => some (.ext .fsig x)
  | .ferf a d => some (.base .ferf false 0 a d)
  | .ferfX x => some (.ext .ferf x)
  | .fsin a d => some (.base .fsin false 0 a d)
  | .fsinX x => some (.ext .fsin x)
  | .fcos a d => some (.base .fcos false 0 a d)
  | .fcosX x => some (.ext .fcos x)
  | .fgelu a d => some (.base .fgelu false 0 a d)
  | .fgeluX x => some (.ext .fgelu x)
  | .fsilu a d => some (.base .fsilu false 0 a d)
  | .fsiluX x => some (.ext .fsilu x)
  | .fgate b a d => some (.base .fgate false b a d)
  | .fgateX x => some (.ext .fgate x)
  | .ld a d => some (.base .ld false 0 a d)
  | .ldX x => some (.ext .ld x)
  | .st b a => some (.base .st false b a 0)
  | .stX x => some (.ext .st x)
  | .ldf a d => some (.base .ldf false 0 a d)
  | .ldfX x => some (.ext .ldf x)
  | .stf b a => some (.base .stf false b a 0)
  | .stfX x => some (.ext .stf x)
  | .sld x => some (.ext .sld x)
  | .sst x => some (.ext .sst x)
  | .atom b a d => some (.base .atom false b a d)
  | .atomX x => some (.ext .atom x)
  | .atomf b a d => some (.base .atomf false b a d)
  | .atomfX x => some (.ext .atomf x)
  | .red b a => some (.base .red false b a 0)
  | .redX x => some (.ext .red x)
  | .cas b a d => some (.base .cas false b a d)
  | .casX x => some (.ext .cas x)
  | .fence => some (.base .fence false 0 0 0)
  | .fenceX x => some (.ext .fence x)
  | .pref a => some (.base .pref false 0 a 0)
  | .prefX x => some (.ext .pref x)
  | .cctl => some (.base .cctl false 0 0 0)
  | .cctlX x => some (.ext .cctl x)
  | .smap x => some (.ext .smap x)
  | .sunmap x => some (.ext .sunmap x)
  | .sflush x => some (.ext .sflush x)
  | .sqry x => some (.ext .sqry x)
  | .cpy x => some (.ext .cpy x)
  | .cpyg x => some (.ext .cpyg x)
  | .cpya x => some (.ext .cpya x)
  | .cpyq x => some (.ext .cpyq x)
  | .binit x => some (.ext .binit x)
  | .barr x => some (.ext .barr x)
  | .bwait x => some (.ext .bwait x)
  | .btest x => some (.ext .btest x)
  | .mma x => some (.ext .mma x)
  | .mmaq x => some (.ext .mmaq x)
  | .mmai x => some (.ext .mmai x)
  | .mtrn x => some (.ext .mtrn x)
  | .mperm x => some (.ext .mperm x)
  | .mred x => some (.ext .mred x)
  | .xopen x => some (.ext .xopen x)
  | .xnext x => some (.ext .xnext x)
  | .xnext2 x => some (.ext .xnext2 x)
  | .xisect x => some (.ext .xisect x)
  | .xunion x => some (.ext .xunion x)
  | .xskip x => some (.ext .xskip x)
  | .xclose x => some (.ext .xclose x)
  | .xsave x => some (.ext .xsave x)
  | .xload x => some (.ext .xload x)
  | .xpos x => some (.ext .xpos x)
  | .vote x => some (.ext .vote x)
  | .shfl x => some (.ext .shfl x)
  | .fshfl x => some (.ext .fshfl x)
  | .matchV x => some (.ext .matchV x)
  | .redux x => some (.ext .redux x)
  | .scan x => some (.ext .scan x)
  | .srd x => some (.ext .srd x)
  | .swr x => some (.ext .swr x)
  | .topo a d => some (.base .topo false 0 a d)
  | .topoX x => some (.ext .topo x)
  | .time d => some (.base .time false 0 0 d)
  | .timeX x => some (.ext .time x)
  | .perf x => some (.ext .perf x)
  | .rte => some (.base .rte false 0 0 0)
  | .rteX => some (.ext .rte Ext.fixed)
  | .csave x => some (.ext .csave x)
  | .cload x => some (.ext .cload x)
  | .rgnclr x => some (.ext .rgnclr x)
  | .tlbinv x => some (.ext .tlbinv x)
  | .trapEntry => none
  | .fenceComplete => none
  | .sleepEnd => none
  | .waitmTimeout => none
  | .warpActivate => none
  | .scratchClear => none
  | .readReq => none
  | .readGrant => none
  | .exclReq => none
  | .exclWaitExpire => none
  | .exclGrant => none
  | .storeReq => none
  | .writePerform => none
  | .storeAck => none
  | .atomReq => none
  | .atomAck => none
  | .forward => none
  | .fwdData => none
  | .writeback => none
  | .recall => none
  | .renew => none
  | .renewTimer => none
  | .holderLeaseBound => none
  | .watchSet => none
  | .watchFire => none
  | .watchTimeout => none
  | .lostNotice => none
  | .unknownMessage => none
  | .xexpReached => none
  | .holderDeadTimeout => none
  | .sharedExpire => none
  | .lenDouble => none
  | .regionMerge => none
  | .lostClearRequest => none
  | .homeMemoryFailure => none
  | .patrolScrub => none
  | .hbmSelfRefresh => none
  | .hbmBwWindow => none
  | .tcCalibration => none
  | .replicaOutOfService => none
  | .eRaise => none
  | .eLower => none
  | .linkLaneFail => none
  | .linkWidthChangeDone => none
  | .linkDisableReroute => none
  | .kelviaHalfFail => none
  | .dieClockChangeDone => none
  | .powerSample => none
  | .gatingDelayExpire => none
  | .gatingPowerSwitch => none
  | .dieWake => none
  | .dieWakeDone => none
  | .firmwareRetireDie => none
  | .walkDone => none
  | .faultRecordRetry => none
  | .translationInvalidate => none
  | .queueTableWrite => none
  | .queueTailBind => none
  | .slotRotation => none
  | .launchAdmit => none
  | .dieReserve => none
  | .priorityPreempt => none
  | .teamPlace => none
  | .progressSwap => none
  | .timeSliceSwap => none
  | .dieGroupSwap => none
  | .preemptRequest => none
  | .teamResume => none
  | .watchdogFirstLimit => none
  | .watchdogSecondLimit => none
  | .gridComplete => none
  | .poolGridTermination => none
  | .shellerFullWarp => none
  | .shellerPartialWarp => none
  | .stealSearch => none
  | .stealRequest => none
  | .stealReply => none
  | .copyChunkSend => none
  | .copyArrive => none
  | .matrixGrant => none
  | .rowGroupCommit => none
  | .lookaheadRead => none
  | .sproutBudgetExpire => none
  | .recruitmentReleaseDone => none
  | .spanIncomingPut => none
  | .spanIncomingGet => none
  | .spanIncomingAtomic => none
  | .spanAck => none
  | .spanTimeout => none
  | .spanPortFail => none
  | .spanPortRestore => none
  | .noticeRetry => none
  | .moduleIdWrite => none
  | .svcErrClear => none
  | .deadWrite => none
  | .fqLogWrite => none
  | .fqReplyResolve => none
  | .fqReplyDecline => none
  | .nrDroppedClear => none
  | .attGoStart => none
  | .attestationDone => none
  | .dbgHalt => none
  | .dbgResume => none
  | .dbgDataWrite => none
  | .incWrite => none
  | .lclrStart => none
  | .lclrDone => none
  | .serviceRegisterWrite => none
  | .serviceUndefinedAccess => none
  | .bootFirmwareVerify => none
  | .memorySitesTrained => none
  | .kelviaLinkUp => none
  | .dieJoin => none
  | .fullServiceReached => none
  | .moduleReset => none
  | .computeDieFailure => none
  | .memorySiteFailure => none
  | .companionMemoryResponse => none
  | .vaultAccessComplete => none
  | .outstandingDecrementSend => none
  | .lostClearAnswer => none
  | .invalidationAcknowledge => none

/-- The base-form instruction of an opcode; none where R235 allows none or a field the opcode lacks is not zero. -/
noncomputable def View.ofBase (op : Op) (u : Bool) (b a d : BitVec 7) : Option Instr :=
  match op with
  | .nop => if !u && b = 0 && a = 0 && d = 0 then some .nop else none
  | .join => if !u && b = 0 && a = 0 && d = 0 then some .join else none
  | .ret => if !u && b = 0 && a = 0 && d = 0 then some .ret else none
  | .jmpx => if !u && b = 0 && d = 0 then some (.jmpx a) else none
  | .exit => if !u && b = 0 && a = 0 && d = 0 then some .exit else none
  | .barsync => if !u && b = 0 && a = 0 && d = 0 then some .barsync else none
  | .yield => if !u && b = 0 && a = 0 && d = 0 then some .yield else none
  | .sleep => if !u && b = 0 && d = 0 then some (.sleep a) else none
  | .brkpt => if !u && b = 0 && a = 0 && d = 0 then some .brkpt else none
  | .trap => if !u && b = 0 && d = 0 then some (.trap a) else none
  | .poolq => if !u && b = 0 then some (.poolq a d) else none
  | .iadd => some (.iadd u b a d)
  | .isub => some (.isub u b a d)
  | .imul => some (.imul u b a d)
  | .imulh => some (.imulh u b a d)
  | .imad => some (.imad u b a d)
  | .idiv => some (.idiv u b a d)
  | .irem => some (.irem u b a d)
  | .imin => some (.imin u b a d)
  | .imax => some (.imax u b a d)
  | .iabs => if b = 0 then some (.iabs u a d) else none
  | .iand => some (.iand u b a d)
  | .ior => some (.ior u b a d)
  | .ixor => some (.ixor u b a d)
  | .inot => if b = 0 then some (.inot u a d) else none
  | .shl => some (.shl u b a d)
  | .shr => some (.shr u b a d)
  | .sar => some (.sar u b a d)
  | .rot => some (.rot u b a d)
  | .bfx => some (.bfx u b a d)
  | .bfi => some (.bfi u b a d)
  | .popc => if b = 0 then some (.popc u a d) else none
  | .clz => if b = 0 then some (.clz u a d) else none
  | .brev => if b = 0 then some (.brev u a d) else none
  | .lea => some (.lea u b a d)
  | .mov => if b = 0 then some (.mov u a d) else none
  | .cvti => if b = 0 then some (.cvti u a d) else none
  | .idot4 => some (.idot4 u b a d)
  | .fadd => if !u then some (.fadd b a d) else none
  | .fsub => if !u then some (.fsub b a d) else none
  | .fmul => if !u then some (.fmul b a d) else none
  | .ffma => if !u then some (.ffma b a d) else none
  | .fdiv => if !u then some (.fdiv b a d) else none
  | .fsqrt => if !u && b = 0 then some (.fsqrt a d) else none
  | .fsqr => if !u && b = 0 then some (.fsqr a d) else none
  | .frcp => if !u && b = 0 then some (.frcp a d) else none
  | .frsqrt => if !u && b = 0 then some (.frsqrt a d) else none
  | .fabs => if !u && b = 0 then some (.fabs a d) else none
  | .fneg => if !u && b = 0 then some (.fneg a d) else none
  | .fmin => if !u then some (.fmin b a d) else none
  | .fmax => if !u then some (.fmax b a d) else none
  | .fhull => if !u then some (.fhull b a d) else none
  | .fisect => if !u then some (.fisect b a d) else none
  | .fmk => if !u then some (.fmk b a d) else none
  | .flo => if !u && b = 0 then some (.flo a d) else none
  | .fhi => if !u && b = 0 then some (.fhi a d) else none
  | .fmid => if !u && b = 0 then some (.fmid a d) else none
  | .frad => if !u && b = 0 then some (.frad a d) else none
  | .fwid => if !u && b = 0 then some (.fwid a d) else none
  | .fmig => if !u && b = 0 then some (.fmig a d) else none
  | .fmag => if !u && b = 0 then some (.fmag a d) else none
  | .fclass => if !u && b = 0 then some (.fclass a d) else none
  | .fdec => if !u && b = 0 then some (.fdec a d) else none
  | .fcvt => if !u && b = 0 then some (.fcvt a d) else none
  | .fcvti => if !u && b = 0 then some (.fcvti a d) else none
  | .fpown => if !u then some (.fpown b a d) else none
  | .fldexp => if !u then some (.fldexp b a d) else none
  | .fmov => if !u && b = 0 then some (.fmov a d) else none
  | .dadd => if !u then some (.dadd b a d) else none
  | .dsub => if !u then some (.dsub b a d) else none
  | .dmul => if !u then some (.dmul b a d) else none
  | .dfma => if !u then some (.dfma b a d) else none
  | .ddiv => if !u then some (.ddiv b a d) else none
  | .dsqrt => if !u && b = 0 then some (.dsqrt a d) else none
  | .dcvt => if !u && b = 0 then some (.dcvt a d) else none
  | .fexp => if !u && b = 0 then some (.fexp a d) else none
  | .fexp2 => if !u && b = 0 then some (.fexp2 a d) else none
  | .flog => if !u && b = 0 then some (.flog a d) else none
  | .flog2 => if !u && b = 0 then some (.flog2 a d) else none
  | .ftanh => if !u && b = 0 then some (.ftanh a d) else none
  | .fsig => if !u && b = 0 then some (.fsig a d) else none
  | .ferf => if !u && b = 0 then some (.ferf a d) else none
  | .fsin => if !u && b = 0 then some (.fsin a d) else none
  | .fcos => if !u && b = 0 then some (.fcos a d) else none
  | .fgelu => if !u && b = 0 then some (.fgelu a d) else none
  | .fsilu => if !u && b = 0 then some (.fsilu a d) else none
  | .fgate => if !u then some (.fgate b a d) else none
  | .ld => if !u && b = 0 then some (.ld a d) else none
  | .st => if !u && d = 0 then some (.st b a) else none
  | .ldf => if !u && b = 0 then some (.ldf a d) else none
  | .stf => if !u && d = 0 then some (.stf b a) else none
  | .atom => if !u then some (.atom b a d) else none
  | .atomf => if !u then some (.atomf b a d) else none
  | .red => if !u && d = 0 then some (.red b a) else none
  | .cas => if !u then some (.cas b a d) else none
  | .fence => if !u && b = 0 && a = 0 && d = 0 then some .fence else none
  | .pref => if !u && b = 0 && d = 0 then some (.pref a) else none
  | .cctl => if !u && b = 0 && a = 0 && d = 0 then some .cctl else none
  | .topo => if !u && b = 0 then some (.topo a d) else none
  | .time => if !u && b = 0 && a = 0 then some (.time d) else none
  | .rte => if !u && b = 0 && a = 0 && d = 0 then some .rte else none
  | _ => none

/-- The base form exists and the fields the opcode lacks are zero. -/
def View.baseLegal (op : Op) (u : Bool) (b a d : BitVec 7) : Bool :=
  match op with
  | .nop | .join | .ret | .exit | .barsync | .yield | .brkpt | .fence | .cctl | .rte => !u && b = 0 && a = 0 && d = 0
  | .jmpx | .sleep | .trap | .pref => !u && b = 0 && d = 0
  | .poolq | .fsqrt | .fsqr | .frcp | .frsqrt | .fabs | .fneg | .flo | .fhi | .fmid | .frad | .fwid | .fmig
  | .fmag | .fclass | .fdec | .fcvt | .fcvti | .fmov | .dsqrt | .dcvt | .fexp | .fexp2 | .flog | .flog2
  | .ftanh | .fsig | .ferf | .fsin | .fcos | .fgelu | .fsilu | .ld | .ldf | .topo => !u && b = 0
  | .iadd | .isub | .imul | .imulh | .imad | .idiv | .irem | .imin | .imax | .iand | .ior | .ixor | .shl
  | .shr | .sar | .rot | .bfx | .bfi | .lea | .idot4 => true
  | .iabs | .inot | .popc | .clz | .brev | .mov | .cvti => b = 0
  | .fadd | .fsub | .fmul | .ffma | .fdiv | .fmin | .fmax | .fhull | .fisect | .fmk | .fpown | .fldexp
  | .dadd | .dsub | .dmul | .dfma | .ddiv | .fgate | .atom | .atomf | .cas => !u
  | .st | .stf | .red => !u && d = 0
  | .time => !u && b = 0 && a = 0
  | _ => false

/-- The extended-form instruction of an opcode; none for the opcodes with layouts of their own. -/
noncomputable def View.ofExt (op : Op) (x : Ext) : Option Instr :=
  match op with
  | .nop => some (.nopX x)
  | .join => if x = Ext.fixed then some .joinX else none
  | .ret => if x = Ext.fixed then some .retX else none
  | .jmpx => some (.jmpxX x)
  | .exit => some (.exitX x)
  | .barsync => some (.barsyncX x)
  | .waitk => some (.waitk x)
  | .waitm => some (.waitm x)
  | .yield => some (.yieldX x)
  | .sleep => some (.sleepX x)
  | .brkpt => if x = Ext.fixed then some .brkptX else none
  | .trap => some (.trapX x)
  | .split => some (.split x)
  | .spawn => some (.spawn x)
  | .poolq => some (.poolqX x)
  | .recruit => some (.recruit x)
  | .hend => some (.hend x)
  | .hjoin => some (.hjoin x)
  | .iadd => some (.iaddX x)
  | .isub => some (.isubX x)
  | .imul => some (.imulX x)
  | .imulh => some (.imulhX x)
  | .imad => some (.imadX x)
  | .idiv => some (.idivX x)
  | .irem => some (.iremX x)
  | .imin => some (.iminX x)
  | .imax => some (.imaxX x)
  | .iabs => some (.iabsX x)
  | .iand => some (.iandX x)
  | .ior => some (.iorX x)
  | .ixor => some (.ixorX x)
  | .inot => some (.inotX x)
  | .shl => some (.shlX x)
  | .shr => some (.shrX x)
  | .sar => some (.sarX x)
  | .rot => some (.rotX x)
  | .bfx => some (.bfxX x)
  | .bfi => some (.bfiX x)
  | .popc => some (.popcX x)
  | .clz => some (.clzX x)
  | .brev => some (.brevX x)
  | .lea => some (.leaX x)
  | .mov => some (.movX x)
  | .movl => some (.movlX x)
  | .sel => some (.sel x)
  | .icmp => some (.icmp x)
  | .plop => some (.plop x)
  | .pmov => some (.pmov x)
  | .cvti => some (.cvtiX x)
  | .idot4 => some (.idot4X x)
  | .fadd => some (.faddX x)
  | .fsub => some (.fsubX x)
  | .fmul => some (.fmulX x)
  | .ffma => some (.ffmaX x)
  | .fdiv => some (.fdivX x)
  | .fsqrt => some (.fsqrtX x)
  | .fsqr => some (.fsqrX x)
  | .frcp => some (.frcpX x)
  | .frsqrt => some (.frsqrtX x)
  | .fabs => some (.fabsX x)
  | .fneg => some (.fnegX x)
  | .fmin => some (.fminX x)
  | .fmax => some (.fmaxX x)
  | .fhull => some (.fhullX x)
  | .fisect => some (.fisectX x)
  | .fmk => some (.fmkX x)
  | .flo => some (.floX x)
  | .fhi => some (.fhiX x)
  | .fmid => some (.fmidX x)
  | .frad => some (.fradX x)
  | .fwid => some (.fwidX x)
  | .fmig => some (.fmigX x)
  | .fmag => some (.fmagX x)
  | .fbis => some (.fbis x)
  | .fcmp => some (.fcmp x)
  | .fset => some (.fset x)
  | .fclass => some (.fclassX x)
  | .fdec => some (.fdecX x)
  | .fcvt => some (.fcvtX x)
  | .fcvti => some (.fcvtiX x)
  | .fpown => some (.fpownX x)
  | .fldexp => some (.fldexpX x)
  | .fmov => some (.fmovX x)
  | .fsel => some (.fsel x)
  | .fmovl => some (.fmovlX x)
  | .rmax => some (.rmax x)
  | .rsum => some (.rsum x)
  | .rstat => some (.rstat x)
  | .smxu => some (.smxu x)
  | .smxa => some (.smxa x)
  | .rnorm => some (.rnorm x)
  | .dadd => some (.daddX x)
  | .dsub => some (.dsubX x)
  | .dmul => some (.dmulX x)
  | .dfma => some (.dfmaX x)
  | .ddiv => some (.ddivX x)
  | .dsqrt => some (.dsqrtX x)
  | .dcmp => some (.dcmp x)
  | .dcvt => some (.dcvtX x)
  | .fexp => some (.fexpX x)
  | .fexp2 => some (.fexp2X x)
  | .flog => some (.flogX x)
  | .flog2 => some (.flog2X x)
  | .ftanh => some (.ftanhX x)
  | .fsig => some (.fsigX x)
  | .ferf => some (.ferfX x)
  | .fsin => some (.fsinX x)
  | .fcos => some (.fcosX x)
  | .fgelu => some (.fgeluX x)
  | .fsilu => some (.fsiluX x)
  | .fgate => some (.fgateX x)
  | .ld => some (.ldX x)
  | .st => some (.stX x)
  | .ldf => some (.ldfX x)
  | .stf => some (.stfX x)
  | .sld => some (.sld x)
  | .sst => some (.sst x)
  | .atom => some (.atomX x)
  | .atomf => some (.atomfX x)
  | .red => some (.redX x)
  | .cas => some (.casX x)
  | .fence => some (.fenceX x)
  | .pref => some (.prefX x)
  | .cctl => some (.cctlX x)
  | .smap => some (.smap x)
  | .sunmap => some (.sunmap x)
  | .sflush => some (.sflush x)
  | .sqry => some (.sqry x)
  | .cpy => some (.cpy x)
  | .cpyg => some (.cpyg x)
  | .cpya => some (.cpya x)
  | .cpyq => some (.cpyq x)
  | .binit => some (.binit x)
  | .barr => some (.barr x)
  | .bwait => some (.bwait x)
  | .btest => some (.btest x)
  | .mma => some (.mma x)
  | .mmaq => some (.mmaq x)
  | .mmai => some (.mmai x)
  | .mtrn => some (.mtrn x)
  | .mperm => some (.mperm x)
  | .mred => some (.mred x)
  | .xopen => some (.xopen x)
  | .xnext => some (.xnext x)
  | .xnext2 => some (.xnext2 x)
  | .xisect => some (.xisect x)
  | .xunion => some (.xunion x)
  | .xskip => some (.xskip x)
  | .xclose => some (.xclose x)
  | .xsave => some (.xsave x)
  | .xload => some (.xload x)
  | .xpos => some (.xpos x)
  | .vote => some (.vote x)
  | .shfl => some (.shfl x)
  | .fshfl => some (.fshfl x)
  | .matchV => some (.matchV x)
  | .redux => some (.redux x)
  | .scan => some (.scan x)
  | .srd => some (.srd x)
  | .swr => some (.swr x)
  | .topo => some (.topoX x)
  | .time => some (.timeX x)
  | .perf => some (.perf x)
  | .rte => if x = Ext.fixed then some .rteX else none
  | .csave => some (.csave x)
  | .cload => some (.cload x)
  | .rgnclr => some (.rgnclr x)
  | .tlbinv => some (.tlbinv x)
  | .bra | .brc | .brm | .call => none

/-- The instruction of a layout. Lean's runtime has no representation for constructors beyond the 245th with
fields, so this map is for the kernel; `View.run` is the same map followed by exec, for both. -/
noncomputable def View.instr : View → Option Instr
  | .base op u b a d => View.ofBase op u b a d
  | .ext op x => View.ofExt op x
  | .litBase .movl u d l => some (.movl u d l)
  | .litBase .fmovl u d l => if !u then some (.fmovl d l) else none
  | .litBase _ _ _ _ => none
  | .jump .bra j => some (.bra j)
  | .jump .call j => some (.call j)
  | .jump _ _ => none
  | .jumpX .bra j g gs => some (.braX j g gs)
  | .jumpX .call j g gs => some (.callX j g gs)
  | .jumpX _ _ _ _ => none
  | .brc c tC l => some (.brc c tC l)
  | .brm p3 p2 p1 p0 join l => some (.brm p3 p2 p1 p0 join l)

/-- The layout has an instruction: R235 allows it, and no field that the opcode lacks is set. -/
def View.legal : View → Bool
  | .base op u b a d => View.baseLegal op u b a d
  | .ext op x => match op with
    | .bra | .brc | .brm | .call => false
    | .join | .ret | .brkpt | .rte => x = Ext.fixed
    | _ => true
  | .litBase op u _ _ => op = .movl || (op = .fmovl && !u)
  | .jump op _ => op = .bra || op = .call
  | .jumpX op _ _ _ => op = .bra || op = .call
  | .brc _ _ _ => true
  | .brm _ _ _ _ _ _ => true

/-- Offset i of a four-offset literal, in words (R231, R232). -/
def litOffset (l : DWord) (i : Nat) : BitVec 16 := BitVec.ofNat 16 (l.toNat / 2 ^ (16 * i))

open Machine in
/-- The rules of R236 hold of the layout. -/
def View.check : View → Option Bad
  | .base op u b a d =>
    let x := Ext.base op u b a d
    if (sig op x).base then x.check op else some .uBit
  | .ext op x => x.check op
  | .litBase op u d l => (Ext.base op u 0 0 d (some l)).check op
  | .jump _ _ => none
  | .jumpX _ _ _ _ => none
  | .brc _ _ _ => none
  | .brm p3 p2 p1 _ join l =>
    -- a pair whose offset is 0 ends the list; later pairs are 0 (R232)
    let o := fun i => litOffset l i
    let ended := (o 1 ≠ 0 || (p1 = 0 && o 2 = 0 && p2 = 0 && o 3 = 0 && p3 = 0)) &&
      (o 2 ≠ 0 || (p2 = 0 && o 3 = 0 && p3 = 0)) && (o 3 ≠ 0 || p3 = 0)
    if o 0 = 0 || join = 0 || !ended then some .literal else none

end Sys2Proof
end

