-- ==== Sys2Proof/WellFormed.lean ====
section
/-! DEFINITION. Well-formed instructions: those whose layout passes every check of R236, that is, those some word
sequence encodes. The steps of the part have no encoding and no ill-formed terms. -/

namespace Sys2Proof

/-- The first check of R236 that an instruction fails. -/
def Instr.bad (i : Instr) : Option Machine.Bad :=
  match i.view with
  | some v => v.check
  | none => none

/-- The instruction passes every check of R236. -/
def Instr.wf (i : Instr) : Bool := i.bad = none

/-- The instruction is one that words encode. -/
def Instr.encoded (i : Instr) : Bool := i.view.isSome

end Sys2Proof
end

