-- ==== Sys2Proof/Decode.lean ====
section
/-! DEFINITION. Decoding (R215 to R236): a total function from the words at the program counter to an instruction
and its length, or a named refusal, and the encoder it inverts. -/

namespace Sys2Proof

/-- The code of an opcode (R234). -/
def Op.code : Op → Nat
  | .nop => 0x01
  | .bra => 0x02
  | .brc => 0x03
  | .brm => 0x04
  | .join => 0x05
  | .call => 0x06
  | .ret => 0x07
  | .jmpx => 0x08
  | .exit => 0x09
  | .barsync => 0x0a
  | .waitk => 0x0b
  | .waitm => 0x0c
  | .yield => 0x0d
  | .sleep => 0x0e
  | .brkpt => 0x0f
  | .trap => 0x10
  | .split => 0x11
  | .spawn => 0x12
  | .poolq => 0x13
  | .recruit => 0x14
  | .hend => 0x15
  | .hjoin => 0x16
  | .iadd => 0x20
  | .isub => 0x21
  | .imul => 0x22
  | .imulh => 0x23
  | .imad => 0x24
  | .idiv => 0x25
  | .irem => 0x26
  | .imin => 0x27
  | .imax => 0x28
  | .iabs => 0x29
  | .iand => 0x2a
  | .ior => 0x2b
  | .ixor => 0x2c
  | .inot => 0x2d
  | .shl => 0x2e
  | .shr => 0x2f
  | .sar => 0x30
  | .rot => 0x31
  | .bfx => 0x32
  | .bfi => 0x33
  | .popc => 0x34
  | .clz => 0x35
  | .brev => 0x36
  | .lea => 0x37
  | .mov => 0x38
  | .movl => 0x39
  | .sel => 0x3a
  | .icmp => 0x3b
  | .plop => 0x3c
  | .pmov => 0x3d
  | .cvti => 0x3e
  | .idot4 => 0x3f
  | .fadd => 0x40
  | .fsub => 0x41
  | .fmul => 0x42
  | .ffma => 0x43
  | .fdiv => 0x44
  | .fsqrt => 0x45
  | .fsqr => 0x46
  | .frcp => 0x47
  | .frsqrt => 0x48
  | .fabs => 0x49
  | .fneg => 0x4a
  | .fmin => 0x4b
  | .fmax => 0x4c
  | .fhull => 0x4d
  | .fisect => 0x4e
  | .fmk => 0x4f
  | .flo => 0x50
  | .fhi => 0x51
  | .fmid => 0x52
  | .frad => 0x53
  | .fwid => 0x54
  | .fmig => 0x55
  | .fmag => 0x56
  | .fbis => 0x57
  | .fcmp => 0x58
  | .fset => 0x59
  | .fclass => 0x5a
  | .fdec => 0x5b
  | .fcvt => 0x5c
  | .fcvti => 0x5d
  | .fpown => 0x5e
  | .fldexp => 0x5f
  | .fmov => 0x60
  | .fsel => 0x61
  | .fmovl => 0x62
  | .rmax => 0x63
  | .rsum => 0x64
  | .rstat => 0x65
  | .smxu => 0x66
  | .smxa => 0x67
  | .rnorm => 0x68
  | .dadd => 0x70
  | .dsub => 0x71
  | .dmul => 0x72
  | .dfma => 0x73
  | .ddiv => 0x74
  | .dsqrt => 0x75
  | .dcmp => 0x76
  | .dcvt => 0x77
  | .fexp => 0x80
  | .fexp2 => 0x81
  | .flog => 0x82
  | .flog2 => 0x83
  | .ftanh => 0x84
  | .fsig => 0x85
  | .ferf => 0x86
  | .fsin => 0x87
  | .fcos => 0x88
  | .fgelu => 0x89
  | .fsilu => 0x8a
  | .fgate => 0x8b
  | .ld => 0x90
  | .st => 0x91
  | .ldf => 0x92
  | .stf => 0x93
  | .sld => 0x94
  | .sst => 0x95
  | .atom => 0x96
  | .atomf => 0x97
  | .red => 0x98
  | .cas => 0x99
  | .fence => 0x9a
  | .pref => 0x9b
  | .cctl => 0x9c
  | .smap => 0x9d
  | .sunmap => 0x9e
  | .sflush => 0x9f
  | .sqry => 0xa0
  | .cpy => 0xa1
  | .cpyg => 0xa2
  | .cpya => 0xa3
  | .cpyq => 0xa4
  | .binit => 0xa5
  | .barr => 0xa6
  | .bwait => 0xa7
  | .btest => 0xa8
  | .mma => 0xc0
  | .mmaq => 0xc1
  | .mmai => 0xc2
  | .mtrn => 0xc3
  | .mperm => 0xc4
  | .mred => 0xc5
  | .xopen => 0xd0
  | .xnext => 0xd1
  | .xnext2 => 0xd2
  | .xisect => 0xd3
  | .xunion => 0xd4
  | .xskip => 0xd5
  | .xclose => 0xd6
  | .xsave => 0xd7
  | .xload => 0xd8
  | .xpos => 0xd9
  | .vote => 0xe0
  | .shfl => 0xe1
  | .fshfl => 0xe2
  | .matchV => 0xe3
  | .redux => 0xe4
  | .scan => 0xe5
  | .srd => 0xf0
  | .swr => 0xf1
  | .topo => 0xf2
  | .time => 0xf3
  | .perf => 0xf4
  | .rte => 0xf5
  | .csave => 0xf6
  | .cload => 0xf7
  | .rgnclr => 0xf8
  | .tlbinv => 0xf9

/-- The opcodes of the map, by code; none where R234 reserves the code. -/
def Op.ofCode : Nat → Option Op
  | 0x01 => some .nop
  | 0x02 => some .bra
  | 0x03 => some .brc
  | 0x04 => some .brm
  | 0x05 => some .join
  | 0x06 => some .call
  | 0x07 => some .ret
  | 0x08 => some .jmpx
  | 0x09 => some .exit
  | 0x0a => some .barsync
  | 0x0b => some .waitk
  | 0x0c => some .waitm
  | 0x0d => some .yield
  | 0x0e => some .sleep
  | 0x0f => some .brkpt
  | 0x10 => some .trap
  | 0x11 => some .split
  | 0x12 => some .spawn
  | 0x13 => some .poolq
  | 0x14 => some .recruit
  | 0x15 => some .hend
  | 0x16 => some .hjoin
  | 0x20 => some .iadd
  | 0x21 => some .isub
  | 0x22 => some .imul
  | 0x23 => some .imulh
  | 0x24 => some .imad
  | 0x25 => some .idiv
  | 0x26 => some .irem
  | 0x27 => some .imin
  | 0x28 => some .imax
  | 0x29 => some .iabs
  | 0x2a => some .iand
  | 0x2b => some .ior
  | 0x2c => some .ixor
  | 0x2d => some .inot
  | 0x2e => some .shl
  | 0x2f => some .shr
  | 0x30 => some .sar
  | 0x31 => some .rot
  | 0x32 => some .bfx
  | 0x33 => some .bfi
  | 0x34 => some .popc
  | 0x35 => some .clz
  | 0x36 => some .brev
  | 0x37 => some .lea
  | 0x38 => some .mov
  | 0x39 => some .movl
  | 0x3a => some .sel
  | 0x3b => some .icmp
  | 0x3c => some .plop
  | 0x3d => some .pmov
  | 0x3e => some .cvti
  | 0x3f => some .idot4
  | 0x40 => some .fadd
  | 0x41 => some .fsub
  | 0x42 => some .fmul
  | 0x43 => some .ffma
  | 0x44 => some .fdiv
  | 0x45 => some .fsqrt
  | 0x46 => some .fsqr
  | 0x47 => some .frcp
  | 0x48 => some .frsqrt
  | 0x49 => some .fabs
  | 0x4a => some .fneg
  | 0x4b => some .fmin
  | 0x4c => some .fmax
  | 0x4d => some .fhull
  | 0x4e => some .fisect
  | 0x4f => some .fmk
  | 0x50 => some .flo
  | 0x51 => some .fhi
  | 0x52 => some .fmid
  | 0x53 => some .frad
  | 0x54 => some .fwid
  | 0x55 => some .fmig
  | 0x56 => some .fmag
  | 0x57 => some .fbis
  | 0x58 => some .fcmp
  | 0x59 => some .fset
  | 0x5a => some .fclass
  | 0x5b => some .fdec
  | 0x5c => some .fcvt
  | 0x5d => some .fcvti
  | 0x5e => some .fpown
  | 0x5f => some .fldexp
  | 0x60 => some .fmov
  | 0x61 => some .fsel
  | 0x62 => some .fmovl
  | 0x63 => some .rmax
  | 0x64 => some .rsum
  | 0x65 => some .rstat
  | 0x66 => some .smxu
  | 0x67 => some .smxa
  | 0x68 => some .rnorm
  | 0x70 => some .dadd
  | 0x71 => some .dsub
  | 0x72 => some .dmul
  | 0x73 => some .dfma
  | 0x74 => some .ddiv
  | 0x75 => some .dsqrt
  | 0x76 => some .dcmp
  | 0x77 => some .dcvt
  | 0x80 => some .fexp
  | 0x81 => some .fexp2
  | 0x82 => some .flog
  | 0x83 => some .flog2
  | 0x84 => some .ftanh
  | 0x85 => some .fsig
  | 0x86 => some .ferf
  | 0x87 => some .fsin
  | 0x88 => some .fcos
  | 0x89 => some .fgelu
  | 0x8a => some .fsilu
  | 0x8b => some .fgate
  | 0x90 => some .ld
  | 0x91 => some .st
  | 0x92 => some .ldf
  | 0x93 => some .stf
  | 0x94 => some .sld
  | 0x95 => some .sst
  | 0x96 => some .atom
  | 0x97 => some .atomf
  | 0x98 => some .red
  | 0x99 => some .cas
  | 0x9a => some .fence
  | 0x9b => some .pref
  | 0x9c => some .cctl
  | 0x9d => some .smap
  | 0x9e => some .sunmap
  | 0x9f => some .sflush
  | 0xa0 => some .sqry
  | 0xa1 => some .cpy
  | 0xa2 => some .cpyg
  | 0xa3 => some .cpya
  | 0xa4 => some .cpyq
  | 0xa5 => some .binit
  | 0xa6 => some .barr
  | 0xa7 => some .bwait
  | 0xa8 => some .btest
  | 0xc0 => some .mma
  | 0xc1 => some .mmaq
  | 0xc2 => some .mmai
  | 0xc3 => some .mtrn
  | 0xc4 => some .mperm
  | 0xc5 => some .mred
  | 0xd0 => some .xopen
  | 0xd1 => some .xnext
  | 0xd2 => some .xnext2
  | 0xd3 => some .xisect
  | 0xd4 => some .xunion
  | 0xd5 => some .xskip
  | 0xd6 => some .xclose
  | 0xd7 => some .xsave
  | 0xd8 => some .xload
  | 0xd9 => some .xpos
  | 0xe0 => some .vote
  | 0xe1 => some .shfl
  | 0xe2 => some .fshfl
  | 0xe3 => some .matchV
  | 0xe4 => some .redux
  | 0xe5 => some .scan
  | 0xf0 => some .srd
  | 0xf1 => some .swr
  | 0xf2 => some .topo
  | 0xf3 => some .time
  | 0xf4 => some .perf
  | 0xf5 => some .rte
  | 0xf6 => some .csave
  | 0xf7 => some .cload
  | 0xf8 => some .rgnclr
  | 0xf9 => some .tlbinv
  | _ => none

/-! ### Operand selectors (R222) -/

/-- Special registers by their place after 0x2a8 (R173). -/
def SReg.index : SReg → Nat
  | .lane => 0 | .tid => 1 | .warp => 2 | .team => 3 | .nteam => 4 | .gang => 5 | .gangsize => 6 | .die => 7 | .ndie => 8
  | .wwidth => 9 | .core => 10 | .cluster => 11 | .dieid => 12 | .grade => 13 | .tc => 14 | .tchi => 15 | .item => 16
  | .hidx => 17 | .hcount => 18 | .mrp => 19 | .tstat => 20 | .fcause => 21 | .faddr => 22 | .faddrhi => 23 | .lpc => 24
  | .lpchi => 25 | .hfault => 26

def SReg.ofIndex : Nat → Option SReg
  | 0 => some .lane | 1 => some .tid | 2 => some .warp | 3 => some .team | 4 => some .nteam | 5 => some .gang
  | 6 => some .gangsize | 7 => some .die | 8 => some .ndie | 9 => some .wwidth | 10 => some .core | 11 => some .cluster
  | 12 => some .dieid | 13 => some .grade | 14 => some .tc | 15 => some .tchi | 16 => some .item | 17 => some .hidx
  | 18 => some .hcount | 19 => some .mrp | 20 => some .tstat | 21 => some .fcause | 22 => some .faddr | 23 => some .faddrhi
  | 24 => some .lpc | 25 => some .lpchi | 26 => some .hfault | _ => none

/-- The 10-bit code of a selector. -/
def Sel.code : Sel → Nat
  | .reg n => n.toNat
  | .s n => 0x100 + n.val
  | .p n => 0x280 + n.toNat
  | .x n => 0x290 + n.toNat
  | .b n => 0x298 + n.toNat
  | .sr r => 0x2a8 + r.index
  | .imm k => 0x300 + k.toNat
  | .const k => 0x380 + k.toNat
  | .lit => 0x3ff

/-- The selector of a 10-bit code; none in the reserved ranges. -/
def Sel.ofCode (c : Nat) : Option Sel :=
  if c < 0x80 then some (.reg (BitVec.ofNat 7 c))
  else if c < 0x100 then none
  else if h : c < 0x280 then some (.s ⟨c - 0x100, by omega⟩)
  else if c < 0x290 then some (.p (BitVec.ofNat 4 (c - 0x280)))
  else if c < 0x298 then some (.x (BitVec.ofNat 3 (c - 0x290)))
  else if c < 0x2a8 then some (.b (BitVec.ofNat 4 (c - 0x298)))
  else if c < 0x300 then (SReg.ofIndex (c - 0x2a8)).map .sr
  else if c < 0x380 then some (.imm (BitVec.ofNat 7 (c - 0x300)))
  else if c < 0x3c0 then some (.const (BitVec.ofNat 6 (c - 0x380)))
  else if c = 0x3ff then some .lit
  else none

/-- The 8-bit code of E (R221). -/
def Sel2.code : Sel2 → Nat
  | .reg n => n.toNat
  | .p n => 0x80 + n.toNat
  | .none => 0xff

def Sel2.ofCode (c : Nat) : Option Sel2 :=
  if c < 0x80 then some (.reg (BitVec.ofNat 7 c))
  else if c < 0x90 then some (.p (BitVec.ofNat 4 (c - 0x80)))
  else if c = 0xff then some .none
  else Option.none

/-! ### Words -/

/-- Field [lo + w − 1 : lo] of a word. -/
def fld (x : Word) (lo w : Nat) : Nat := x.toNat / 2 ^ lo % 2 ^ w

def bit (x : Word) (i : Nat) : Bool := fld x i 1 = 1

/-- A word from its fields, given as value and lowest bit. -/
def packFields (l : List (Nat × Nat)) : Word := BitVec.ofNat 32 ((l.map fun p => p.1 * 2 ^ p.2).sum)

/-- Why a word sequence is no instruction (R236). -/
inductive DecodeError where
  | truncated                -- fewer words than the length field gives
  | opcode                   -- 0x00, 0xff or a reserved opcode
  | form                     -- a length or layout R235 does not allow
  | reservedBits             -- a reserved field is not zero
  | selector                 -- a reserved selector or E code
  | bad (b : Machine.Bad)    -- a check of R236 on the operands
deriving DecidableEq, Repr

/-- Number of words of a length code (R215). -/
def lenWords (len : Nat) : Nat := if len = 0 then 1 else if len = 3 then 5 else 3

/-- Opcodes of the J format, and those that are only ever of length 11 (R235). -/
def Op.isJump (op : Op) : Bool := op = .bra || op = .call
def Op.only11 (op : Op) : Bool := op = .brc || op = .brm || op = .split || op = .spawn || op = .recruit

/-- The extended form of words 0 to 2. -/
def readExt (w0 w1 w2 : Word) (l : Option DWord) : Except DecodeError Ext :=
  if fld w1 30 2 ≠ 0 then .error .reservedBits
  else
    match Sel.ofCode (fld w1 0 3 * 128 + fld w0 10 7), Sel.ofCode (fld w1 3 3 * 128 + fld w0 17 7),
        Sel.ofCode (fld w1 6 3 * 128 + fld w0 24 7), Sel.ofCode (fld w1 9 10), Sel2.ofCode (fld w2 16 8) with
    | some d, some a, some b, some c, some e =>
      .ok { u := bit w0 31, d := d, a := a, b := b, c := c, e := e, g := BitVec.ofNat 4 (fld w1 19 4),
            gs := BitVec.ofNat 2 (fld w1 23 2), tA := bit w1 25, tB := bit w1 26, tC := bit w1 27, fzi := bit w1 28,
            fzo := bit w1 29, imm := BitVec.ofNat 8 (fld w2 24 8), mod := BitVec.ofNat 16 (fld w2 0 16), lit := l }
    | _, _, _, _, _ => .error .selector

/-- The layout of an extended form, by opcode. -/
def readLong (op : Op) (w0 w1 w2 : Word) (l : Option DWord) : Except DecodeError View :=
  if op.isJump then
    if l.isSome then .error .form
    else if w1.toNat % 2 ^ 19 ≠ 0 || fld w1 25 7 ≠ 0 || w2 ≠ 0 then .error .reservedBits
    else .ok (.jumpX op (BitVec.ofNat 22 (fld w0 10 22)) (BitVec.ofNat 4 (fld w1 19 4)) (BitVec.ofNat 2 (fld w1 23 2)))
  else if op = .brc then
    match l with
    | none => .error .form
    | some l =>
      -- D, A, B, E, MOD, IMM8, T of A and B, flush bits zero; guard always; C names a P register (R231)
      if fld w0 10 22 ≠ 0 || fld w1 0 9 ≠ 0 || fld w1 13 6 ≠ 0x28 || fld w1 19 6 ≠ 15 || fld w1 25 2 ≠ 0 || fld w1 28 4 ≠ 0 || w2 ≠ 0
      then .error .reservedBits
      else .ok (.brc (BitVec.ofNat 4 (fld w1 9 4)) (bit w1 27) l)
  else if op = .brm then
    match l with
    | none => .error .form
    | some l =>
      if fld w0 10 22 ≠ 0 || fld w1 0 9 ≠ 0 || fld w1 25 7 ≠ 0 || fld w2 16 16 ≠ 0 then .error .reservedBits
      else .ok (.brm (BitVec.ofNat 4 (fld w1 21 4)) (BitVec.ofNat 4 (fld w1 17 4)) (BitVec.ofNat 4 (fld w1 13 4))
        (BitVec.ofNat 4 (fld w1 9 4)) (BitVec.ofNat 16 (fld w2 0 16)) l)
  else if op.only11 && l.isNone then .error .form
  else (readExt w0 w1 w2 l).map (.ext op)

/-- Two literal words as 64 bits (R226). -/
def litOf (lo hi : Word) : DWord := hi ++ lo

/-- The layout of the words at the program counter (R215, R235). -/
def readView (op : Op) : List Word → Except DecodeError View
  | [] => .error .truncated
  | w0 :: r =>
    match fld w0 0 2, r with
    | 0, _ =>
      if op.isJump then .ok (.jump op (BitVec.ofNat 22 (fld w0 10 22)))
      else .ok (.base op (bit w0 31) (BitVec.ofNat 7 (fld w0 24 7)) (BitVec.ofNat 7 (fld w0 17 7)) (BitVec.ofNat 7 (fld w0 10 7)))
    | 1, w1 :: w2 :: _ => readLong op w0 w1 w2 none
    | 2, l0 :: l1 :: _ =>
      if op ≠ .movl && op ≠ .fmovl then .error .form
      else if fld w0 17 14 ≠ 0 then .error .reservedBits
      else .ok (.litBase op (bit w0 31) (BitVec.ofNat 7 (fld w0 10 7)) (litOf l0 l1))
    | 3, w1 :: w2 :: l0 :: l1 :: _ => readLong op w0 w1 w2 (some (litOf l0 l1))
    | _, _ => .error .truncated

/-- Decode the words at the program counter to a legal layout and its number of words. -/
def decodeView (ws : List Word) : Except DecodeError (View × Nat) :=
  match ws with
  | [] => .error .truncated
  | w0 :: _ =>
    match Op.ofCode (fld w0 2 8) with
    | none => .error .opcode
    | some op =>
      match readView op ws with
      | .error e => .error e
      | .ok v =>
        match v.check with
        | some b => .error (.bad b)
        | none => if v.legal then .ok (v, lenWords (fld w0 0 2)) else .error .form

/-- Decode the words at the program counter: the instruction and the number of words it takes. -/
noncomputable def decode (ws : List Word) : Except DecodeError (Instr × Nat) :=
  match decodeView ws with
  | .error e => .error e
  | .ok (v, n) =>
    match v.instr with
    | some i => .ok (i, n)
    | none => .error .form

/-! ### Encoding -/

def Ext.words (op : Op) (x : Ext) : List Word :=
  let w0 := packFields [(if x.u then 1 else 0, 31), (x.b.code % 128, 24), (x.a.code % 128, 17), (x.d.code % 128, 10),
    (op.code, 2), (if x.lit.isSome then 3 else 1, 0)]
  let w1 := packFields [(if x.fzo then 1 else 0, 29), (if x.fzi then 1 else 0, 28), (if x.tC then 1 else 0, 27),
    (if x.tB then 1 else 0, 26), (if x.tA then 1 else 0, 25), (x.gs.toNat, 23), (x.g.toNat, 19), (x.c.code, 9),
    (x.b.code / 128, 6), (x.a.code / 128, 3), (x.d.code / 128, 0)]
  let w2 := packFields [(x.imm.toNat, 24), (x.e.code, 16), (x.mod.toNat, 0)]
  [w0, w1, w2] ++ match x.lit with
    | some l => [l.extractLsb' 0 32, l.extractLsb' 32 32]
    | none => []

/-- The words of a layout. -/
def View.words : View → List Word
  | .base op u b a d =>
    [packFields [(if u then 1 else 0, 31), (b.toNat, 24), (a.toNat, 17), (d.toNat, 10), (op.code, 2)]]
  | .ext op x => x.words op
  | .litBase op u d l =>
    [packFields [(if u then 1 else 0, 31), (d.toNat, 10), (op.code, 2), (2, 0)], l.extractLsb' 0 32, l.extractLsb' 32 32]
  | .jump op j => [packFields [(j.toNat, 10), (op.code, 2)]]
  | .jumpX op j g gs =>
    [packFields [(j.toNat, 10), (op.code, 2), (1, 0)], packFields [(gs.toNat, 23), (g.toNat, 19)], 0]
  | .brc c tC l =>
    [packFields [(Op.brc.code, 2), (3, 0)], packFields [(if tC then 1 else 0, 27), (15, 19), (0x280 + c.toNat, 9)], 0,
      l.extractLsb' 0 32, l.extractLsb' 32 32]
  | .brm p3 p2 p1 p0 join l =>
    [packFields [(Op.brm.code, 2), (3, 0)], packFields [(p3.toNat, 21), (p2.toNat, 17), (p1.toNat, 13), (p0.toNat, 9)],
      packFields [(join.toNat, 0)], l.extractLsb' 0 32, l.extractLsb' 32 32]

/-- The words of an instruction; a step of the part has none. -/
def encode (i : Instr) : List Word :=
  match i.view with
  | some v => v.words
  | none => []

/-- The words of a byte sequence, each little-endian (R184, R215). -/
def wordsOfBytes : List Byte → List Word
  | b0 :: b1 :: b2 :: b3 :: r => (b3 ++ b2 ++ b1 ++ b0 : BitVec 32) :: wordsOfBytes r
  | _ => []

/-- The bytes of words, each little-endian. -/
def bytesOfWords (ws : List Word) : List Byte :=
  ws.flatMap fun w => [w.extractLsb' 0 8, w.extractLsb' 8 8, w.extractLsb' 16 8, w.extractLsb' 24 8]

/-- The five words the host's number w stands for: bit 0 is the least significant bit of the first word, and the
bits above `nbits` are zero. -/
def tableWords (nbits w : Nat) : List Word :=
  (List.range 5).map fun i => BitVec.ofNat 32 (w % 2 ^ nbits / 2 ^ (32 * i))

/-- The instruction this decoder reads from a row's bits. -/
noncomputable def decodeTableWord (nbits w : Nat) : Option Instr :=
  match decode (wordsOfBytes (bytesOfWords (tableWords nbits w))) with
  | .ok (i, _) => some i
  | .error _ => none

end Sys2Proof
end

