-- ==== Sys2Proof/Config.lean ====
section
/-! DEFINITION. What the manual leaves open and no implementation fixes for a program: the free values.
Each is a constant without a body, so that nothing can be proved of its value; the assumption log names each. -/

namespace Sys2Proof.Config

/-- Ticks of the time counter that pass during step number `n` (the manual gives costs, contention adds to
them without a bound; R181, R509; log 3). -/
opaque elapsed : Nat → Nat

/-- Where an FP32 special function's bound steps from one ulp outside the tightest bound to the tightest bound:
function code, side (0 lower, 1 upper), monotone piece, and the tightest bound as a place in the order of FP32
values give the place of the operand at which the step lies. Any bound within one ulp that is monotone on each
piece is described so (R203, R285; log 10). -/
opaque ulpStep : Nat → Nat → Int → Int → Int

/-- Which of the two FP32 neighbours a `.pt` special function gives: function code and operand code (R285; log 10). -/
opaque pointUp : Nat → Int → Bool

/-- The outcome of comparing a value with a real that the model's series did not separate from it
(function code, operand mantissa and exponent); unreachable in practice (log 11). -/
opaque undecidedCompare : Nat → Int → Int → Bool

/-- The two bounds of a softmax probability whose lower bound lies above 1 (R193, R296; log 66). -/
opaque crossedClamp : Int → BitVec 64

/-- What a byte of a copy whose source and destination overlap receives: true the new value (R155; log 21). -/
opaque overlapTakesNew : Nat → Bool

/-- The port among those of a route mask that the hash of a destination address picks (R486; log 33). -/
opaque spanPort : BitVec 64 → Nat

/-- The 64-bit value a span operation's remote module returns (its memory is outside the module; R89, R356; log 34). -/
opaque spanReply : Nat → BitVec 64

/-- Bytes of an attestation signature by the device key, and of the public key (R494; log 36). -/
opaque signatureByte : Nat → Nat → BitVec 8
opaque publicKeyByte : Nat → BitVec 8

/-- The interval that a stream delivers of a value whose format code an image of XLOAD gave as a reserved one
(R321, R331; log 37): format code and position. -/
opaque streamValue : Nat → Nat → BitVec 64

/-- How often an event that the model does not see has occurred in a step: number of the step, unit, event code
(R493; log 35). -/
opaque counted : Nat → Nat → Nat → Nat

/-- Corrected errors of a scrub above which they are reported (R482, R491; log 35). -/
opaque correctedThreshold : Nat

/-- A word of a register of a warp that resumes and that its handler has not restored: step number and register
(R473; log 39). -/
opaque resumedWord : Nat → Nat → BitVec 32

end Sys2Proof.Config
end

