-- ==== Sys2Proof/Machine/Num.lean ====
section
/-! DEFINITION. Exact dyadic numbers, the point formats of R185 to R187 and R198, and the three roundings of
R188. A real number that is rounded is given by how it compares with dyadics (`Cut`), so that quotients,
roots and transcendental values round by the words of R188: the largest value of the format at or below x. -/

namespace Sys2Proof.Machine

/-- The dyadic m times 2 to the e. -/
structure Dy where
  m : Int
  e : Int
deriving DecidableEq, Repr

def Dy.zero : Dy := ⟨0, 0⟩
def Dy.ofInt (n : Int) : Dy := ⟨n, 0⟩
def Dy.neg (a : Dy) : Dy := ⟨-a.m, a.e⟩
def Dy.abs (a : Dy) : Dy := ⟨Int.ofNat a.m.natAbs, a.e⟩
def Dy.mul (a b : Dy) : Dy := ⟨a.m * b.m, a.e + b.e⟩

/-- a + b at the smaller exponent. -/
def Dy.add (a b : Dy) : Dy :=
  if a.m = 0 then b else if b.m = 0 then a
  else if a.e ≤ b.e then ⟨a.m + b.m * (2 : Int) ^ (b.e - a.e).toNat, a.e⟩
  else ⟨a.m * (2 : Int) ^ (a.e - b.e).toNat + b.m, b.e⟩

def Dy.sub (a b : Dy) : Dy := a.add b.neg

/-- a times 2 to the n. -/
def Dy.scale (a : Dy) (n : Int) : Dy := ⟨a.m, a.e + n⟩

/-- Comparison. Numbers whose leading bits stand apart are told apart by them, so that far exponents are
never aligned. -/
def Dy.cmp (a b : Dy) : Ordering :=
  if a.m = 0 || b.m = 0 || (a.m < 0) ≠ (b.m < 0) then compare a.m.sign b.m.sign
  else
    let la := (a.m.natAbs.log2 : Int) + a.e
    let lb := (b.m.natAbs.log2 : Int) + b.e
    if la < lb then (if a.m < 0 then .gt else .lt)
    else if lb < la then (if a.m < 0 then .lt else .gt)
    else compare (a.sub b).m 0

def Dy.le (a b : Dy) : Bool := a.cmp b ≠ .gt
def Dy.lt (a b : Dy) : Bool := a.cmp b = .lt
def Dy.min (a b : Dy) : Dy := if a.le b then a else b
def Dy.max (a b : Dy) : Dy := if a.le b then b else a

/-- The largest integer at or below. -/
def Dy.floor (a : Dy) : Int :=
  if 0 ≤ a.e then a.m * (2 : Int) ^ a.e.toNat else a.m / (2 : Int) ^ (-a.e).toNat

def Dy.ceil (a : Dy) : Int := -(Dy.floor a.neg)

/-- Nearest integer, ties to even. -/
def Dy.nearInt (a : Dy) : Int :=
  let f := a.floor
  match (a.sub (Dy.ofInt f)).cmp ⟨1, -1⟩ with
  | .lt => f
  | .gt => f + 1
  | .eq => if f % 2 = 0 then f else f + 1

/-! ### Point formats (R185) -/

inductive Fmt where
  | fp64 | fp32 | bf16 | f16 | e5m2 | e4m3 | e2m1
deriving DecidableEq, Repr

def Fmt.bits : Fmt → Nat
  | .fp64 => 64 | .fp32 => 32 | .bf16 => 16 | .f16 => 16 | .e5m2 => 8 | .e4m3 => 8 | .e2m1 => 4

def Fmt.frac : Fmt → Nat
  | .fp64 => 52 | .fp32 => 23 | .bf16 => 7 | .f16 => 10 | .e5m2 => 2 | .e4m3 => 3 | .e2m1 => 1

def Fmt.bias : Fmt → Int
  | .fp64 => 1023 | .fp32 => 127 | .bf16 => 127 | .f16 => 15 | .e5m2 => 15 | .e4m3 => 7 | .e2m1 => 1

/-- Magnitude code (the bits below the sign) of the largest finite value. -/
def Fmt.top : Fmt → Nat
  | .fp64 => 0x7fefffffffffffff | .fp32 => 0x7f7fffff | .bf16 => 0x7f7f | .f16 => 0x7bff
  | .e5m2 => 0x7b | .e4m3 => 0x7e | .e2m1 => 0x7

/-- Whether the code one above the top is an infinity. -/
def Fmt.hasInf : Fmt → Bool
  | .e4m3 => false | .e2m1 => false | _ => true

/-- The canonical quiet NaN (R186); E2M1 has none and R188 gives 0. -/
def Fmt.nan : Fmt → Nat
  | .fp64 => 0x7ff8000000000000 | .fp32 => 0x7fc00000 | .bf16 => 0x7fc0 | .f16 => 0x7e00
  | .e5m2 => 0x7e | .e4m3 => 0x7f | .e2m1 => 0

def Fmt.signBit (f : Fmt) : Nat := 2 ^ (f.bits - 1)

/-- The value of a finite magnitude code. -/
def Fmt.mag (f : Fmt) (c : Nat) : Dy :=
  let x := c / 2 ^ f.frac
  let r := c % 2 ^ f.frac
  if x = 0 then ⟨r, 1 - f.bias - f.frac⟩ else ⟨(2 ^ f.frac + r : Nat), (x : Int) - f.bias - f.frac⟩

/-- What a code of a format stands for. -/
inductive Pt where
  | nan
  | inf (neg : Bool)
  | fin (neg : Bool) (c : Nat)
deriving DecidableEq, Repr

def Fmt.decode (f : Fmt) (code : Nat) : Pt :=
  let neg := code / f.signBit % 2 = 1
  let c := code % f.signBit
  if c ≤ f.top then .fin neg c
  else if f.hasInf && c = f.top + 1 then .inf neg
  else .nan

/-- The code of a point; an infinity in a format that has none is the NaN code of its sign (E4M3) or the
largest finite value (E2M1), as R188 gives. -/
def Fmt.encode (f : Fmt) : Pt → Nat
  | .nan => f.nan
  | .inf neg =>
    (if neg then f.signBit else 0) +
      (if f.hasInf then f.top + 1 else if f = .e4m3 then 0x7f else f.top)
  | .fin neg c => (if neg then f.signBit else 0) + c

def Pt.value (f : Fmt) : Pt → Option Dy
  | .fin neg c => some (if neg then (f.mag c).neg else f.mag c)
  | _ => none

/-! ### Rounding (R188) -/

/-- A real x, as the comparison of a dyadic with x. -/
abbrev Cut := Dy → Ordering

def Dy.cut (a : Dy) : Cut := fun v => v.cmp a
def cutNeg (x : Cut) : Cut := fun v => (x v.neg).swap

/-- p / q for q > 0. -/
def cutRatio (p q : Dy) : Cut := fun v => (v.mul q).cmp p

/-- The square root of u ≥ 0. -/
def cutSqrt (u : Dy) : Cut := fun v => if v.m < 0 then .lt else (v.mul v).cmp u

/-- 1 over the square root of u > 0. -/
def cutRsqrt (u : Dy) : Cut := fun v => if v.m ≤ 0 then .lt else ((v.mul v).mul u).cmp ⟨1, 0⟩

/-- The largest code at most `M` with `p`, for `p` true at 0 and falling once. -/
def searchCode (p : Nat → Bool) (M : Nat) : Nat → Nat → Nat
  | 0, a => a
  | n + 1, a => if a + 2 ^ n ≤ M && p (a + 2 ^ n) then searchCode p M n (a + 2 ^ n) else searchCode p M n a

/-- Largest magnitude code whose value is at or below x ≥ 0. -/
def Fmt.codeLE (f : Fmt) (x : Cut) : Nat := searchCode (fun c => x (f.mag c) ≠ .gt) f.top f.bits 0

/-- RoundDown: `.inf true` where x lies below every finite value. -/
def roundDown (f : Fmt) (x : Cut) : Pt :=
  if x Dy.zero = .eq then .fin false 0
  else if x Dy.zero = .lt then .fin false (f.codeLE x)
  else
    let c := searchCode (fun c => x (f.mag c).neg = .gt) f.top f.bits 0
    if c = f.top then .inf true else .fin true (c + 1)

def Pt.flip : Pt → Pt
  | .nan => .nan
  | .inf n => .inf (!n)
  | .fin n c => .fin (!n) c

/-- RoundUp, the mirror of RoundDown; an exact zero is +0. -/
def roundUp (f : Fmt) (x : Cut) : Pt :=
  if x Dy.zero = .eq then .fin false 0 else (roundDown f (cutNeg x)).flip

/-- RoundNear, ties to even fraction, for x ≥ 0 given with the sign of the result. -/
def roundNearAbs (f : Fmt) (neg : Bool) (x : Cut) : Pt :=
  let c := f.codeLE x
  if c = f.top then
    let half := ((f.mag f.top).sub (f.mag (f.top - 1))).scale (-1)
    if x ((f.mag f.top).add half) ≠ .gt then .inf neg else .fin neg c
  else
    match x (((f.mag c).add (f.mag (c + 1))).scale (-1)) with
    | .gt => .fin neg c
    | .lt => .fin neg (c + 1)
    | .eq => .fin neg (if c % 2 = 0 then c else c + 1)

def roundNear (f : Fmt) (x : Cut) : Pt :=
  match x Dy.zero with
  | .lt => roundNearAbs f false x
  | .eq => .fin false 0
  | .gt => roundNearAbs f true (cutNeg x)

/-- The code R188 stores for a rounded point, and whether it reports overflow. -/
def storeCode (f : Fmt) (sat : Bool) : Pt → Nat × Bool
  | .inf neg =>
    if f = .e2m1 || (f = .e4m3 && sat) then (f.encode (.fin neg f.top), true) else (f.encode (.inf neg), false)
  | p => (f.encode p, false)

/-! ### RAD16 (R198) -/

/-- Value of a finite RAD16 code. -/
def rad16Value (c : Nat) : Dy :=
  let e := c / 1024
  let r := c % 1024
  if e = 0 then ⟨r, -40⟩ else ⟨(1024 + r : Nat), (e : Int) - 41⟩

/-- RoundUp into RAD16; 0xfc00 beyond the largest finite radius (R200). -/
def rad16Up (d : Dy) : Nat :=
  let c := searchCode (fun c => (rad16Value c).lt d) 0xfbff 16 0
  if d.m ≤ 0 then 0 else if c = 0xfbff then 0xfc00 else c + 1

/-! ### Reals given by enclosures -/

/-- A real given by enclosures of growing precision. -/
abbrev Approx := Nat → Dy × Dy

/-- Round a real by its enclosures at precision `p`, `2p`, …: both ends round alike, or the next enclosure is
taken. A monotone rounding of the enclosed real is then what both ends give. If no enclosure decides, the side is
a free value (log 11). -/
def Approx.round {α : Type} [DecidableEq α] (r : Cut → α) (fn : Nat) (arg : Dy) (a : Approx) : Nat → Nat → α
  | 0, p => let lh := a p; if Config.undecidedCompare fn arg.m arg.e then r lh.2.cut else r lh.1.cut
  | n + 1, p =>
    let lh := a p
    let x := r lh.1.cut
    if x = r lh.2.cut then x else Approx.round r fn arg a n (2 * p)

end Sys2Proof.Machine
end

