-- ==== Sys2Proof/Machine/Interval.lean ====
section
/-! DEFINITION. Intervals (R193 to R211) over a point format: how a register's bounds are read and written,
flushing, the outward-rounded arithmetic of R263 and R264, the point mode of R206, the measures, relations, set
tests, bisection and the packed and midpoint formats. -/

namespace Sys2Proof.Machine

/-- Decoration codes of R205: ill 0, trv 1, def 2, com 3; the code order is the order of the minimum. -/
abbrev Dec := BitVec 2
abbrev Dec.ill : Dec := 0
abbrev Dec.trv : Dec := 1
abbrev Dec.dfn : Dec := 2
abbrev Dec.com : Dec := 3
def Dec.min (a b : Dec) : Dec := if a.ult b then a else b

/-- A stored pair of bound codes with its decoration. -/
structure Raw where
  lo : Nat
  hi : Nat
  dec : Dec
deriving DecidableEq, Repr

/-- An interval as instructions read it (R194): bounds are points of the format, never NaN, lo never +∞,
hi never −∞, zero bounds +0. -/
inductive Iv where
  | nai
  | empty
  | mk (lo hi : Pt) (dec : Dec)
deriving DecidableEq, Repr

/-! ### Points in order -/

/-- Position of a point among the codes of its format, with both zeros at 0 and infinities beyond all. -/
def Pt.key : Pt → Int
  | .nan => 0
  | .inf neg => if neg then -(2 ^ 64) else 2 ^ 64
  | .fin neg c => if neg then -(c : Int) else c

def Pt.le (a b : Pt) : Bool := a.key ≤ b.key
def Pt.lt (a b : Pt) : Bool := a.key < b.key
def Pt.min (a b : Pt) : Pt := if a.le b then a else b
def Pt.max (a b : Pt) : Pt := if a.le b then b else a
def Pt.isFin : Pt → Bool
  | .fin _ _ => true
  | _ => false
def Pt.zero : Pt := .fin false 0
/-- A zero bound as +0 (R195). -/
def Pt.posZero : Pt → Pt
  | .fin _ 0 => .fin false 0
  | p => p

/-- The point with a given place in the order of the format. -/
def Pt.ofKey (f : Fmt) (k : Int) : Pt :=
  if f.top < k.natAbs then .inf (k < 0) else .fin (k < 0) k.natAbs

/-- Next value of the format above and below. -/
def Pt.next (f : Fmt) (p : Pt) : Pt := Pt.ofKey f (p.key + 1)
def Pt.prev (f : Fmt) (p : Pt) : Pt := Pt.ofKey f (p.key - 1)

/-! ### Reading and writing -/

def Iv.ofPts (f : Fmt) (lo hi : Pt) (dec : Dec) : Iv :=
  match lo, hi with
  | .nan, _ => .nai
  | _, .nan => .nai
  | .inf false, .inf true => .empty
  | .inf false, .inf false => .mk (.fin false f.top) (.inf false) Dec.trv
  | .inf true, .inf true => .mk (.inf true) (.fin true f.top) Dec.trv
  | lo, hi =>
    if hi.lt lo then .nai
    else .mk lo.posZero hi.posZero (if dec = Dec.com && !(lo.isFin && hi.isFin) then Dec.dfn else dec)

/-- R194. -/
def Raw.read (f : Fmt) (r : Raw) : Iv :=
  if r.dec = Dec.ill then .nai else Iv.ofPts f (f.decode r.lo) (f.decode r.hi) r.dec

/-- R197: a pair read from memory or from the literal, whose decoration is derived. -/
def Iv.load (f : Fmt) (lo hi : Nat) : Iv := Iv.ofPts f (f.decode lo) (f.decode hi) Dec.com

/-- R193: the canonical pair. -/
def Iv.write (f : Fmt) : Iv → Raw
  | .nai => ⟨f.nan, f.nan, Dec.ill⟩
  | .empty => ⟨f.encode (.inf false), f.encode (.inf true), Dec.trv⟩
  | .mk lo hi dec => ⟨f.encode lo.posZero, f.encode hi.posZero, dec⟩

/-- The pair of a point result (R206): both bounds p. -/
def Pt.writePt (f : Fmt) : Pt → Raw
  | .nan => ⟨f.nan, f.nan, Dec.ill⟩
  | p => ⟨f.encode p, f.encode p, Dec.trv⟩

/-- The lower bound as it stands, +∞ for the empty set and NaN for NaI (R206). -/
def Raw.point (f : Fmt) (r : Raw) : Pt :=
  match r.read f with
  | .nai => .nan
  | .empty => .inf false
  | .mk _ _ _ => f.decode r.lo

/-- The lower bound of the operand as R194 reads it: −0 is +0, and an infinite pair has its finite end (R263, R285). -/
def Raw.lower (f : Fmt) (r : Raw) : Pt :=
  match r.read f with
  | .nai => .nan
  | .empty => .inf false
  | .mk lo _ _ => lo

def Iv.dec : Iv → Dec
  | .nai => Dec.ill
  | .empty => Dec.trv
  | .mk _ _ d => d

def Iv.isNai : Iv → Bool
  | .nai => true
  | _ => false

def Iv.isEmpty : Iv → Bool
  | .empty => true
  | _ => false

/-! ### Flushing (R207) -/

/-- Magnitude code of the normal threshold. -/
def Fmt.normal (f : Fmt) : Nat := 2 ^ f.frac

def Pt.subnormal (f : Fmt) : Pt → Bool
  | .fin _ c => 0 < c && c < f.normal
  | _ => false

def Pt.flushLo (f : Fmt) (p : Pt) : Pt :=
  if p.subnormal f then (if p.key < 0 then .fin true f.normal else .fin false 0) else p

def Pt.flushHi (f : Fmt) (p : Pt) : Pt :=
  if p.subnormal f then (if p.key < 0 then .fin false 0 else .fin false f.normal) else p

def Pt.flushPt (f : Fmt) (p : Pt) : Pt :=
  if p.subnormal f then .fin (p.key < 0) 0 else p

def Iv.flush (f : Fmt) (on : Bool) : Iv → Iv
  | .mk lo hi d => if on then .mk (lo.flushLo f) (hi.flushHi f) d else .mk lo hi d
  | x => x

/-! ### Extended reals and rounding of bounds -/

/-- An extended real with dyadic finite values. -/
inductive XR where
  | ninf
  | fin (d : Dy)
  | pinf
deriving DecidableEq, Repr

def Pt.toXR (f : Fmt) : Pt → XR
  | .inf true => .ninf
  | .inf false => .pinf
  | .nan => .fin Dy.zero
  | .fin neg c => .fin (if neg then (f.mag c).neg else f.mag c)

def XR.neg : XR → XR
  | .ninf => .pinf
  | .fin d => .fin d.neg
  | .pinf => .ninf

/-- Sum; the callers never add opposite infinities. -/
def XR.add : XR → XR → XR
  | .fin a, .fin b => .fin (a.add b)
  | .fin _, x => x
  | x, _ => x

def XR.sign : XR → Int
  | .ninf => -1
  | .fin d => d.m.sign
  | .pinf => 1

/-- Product of bounds, with 0 times an infinity 0. -/
def XR.mul : XR → XR → XR
  | .fin a, .fin b => .fin (a.mul b)
  | x, y => if x.sign * y.sign = 0 then .fin Dy.zero else if 0 < x.sign * y.sign then .pinf else .ninf

def XR.le : XR → XR → Bool
  | .ninf, _ => true
  | _, .pinf => true
  | .fin a, .fin b => a.le b
  | _, _ => false

def XR.min (a b : XR) : XR := if a.le b then a else b
def XR.max (a b : XR) : XR := if a.le b then b else a

/-- RoundDown of a lower bound. -/
def XR.down (f : Fmt) : XR → Pt
  | .ninf => .inf true
  | .fin d => roundDown f d.cut
  | .pinf => .fin false f.top

/-- RoundUp of an upper bound. -/
def XR.up (f : Fmt) : XR → Pt
  | .ninf => .fin true f.top
  | .fin d => roundUp f d.cut
  | .pinf => .inf false

/-- Local decoration of R264 and the minimum of R205. -/
def Iv.result (ds : Dec) (undef bounded : Bool) (lo hi : Pt) : Iv :=
  .mk lo.posZero hi.posZero
    (Dec.min ds (if undef then Dec.trv else if bounded && lo.isFin && hi.isFin then Dec.com else Dec.dfn))

/-- Where the operands are nonempty and no NaI; else NaI or empty (R204). -/
def Iv.lift1 (x : Iv) (k : Pt → Pt → Dec → Iv) : Iv :=
  match x with
  | .nai => .nai
  | .empty => .empty
  | .mk a b d => k a b d

def Iv.lift2 (x y : Iv) (k : Pt → Pt → Pt → Pt → Dec → Iv) : Iv :=
  match x, y with
  | .nai, _ => .nai
  | _, .nai => .nai
  | .empty, _ => .empty
  | _, .empty => .empty
  | .mk a b d, .mk c e d' => k a b c e (Dec.min d d')

/-- The exact bounds of a product set. -/
def mulBounds (a b c d : XR) : XR × XR :=
  let w := a.mul c; let x := a.mul d; let y := b.mul c; let z := b.mul d
  (XR.min (XR.min w x) (XR.min y z), XR.max (XR.max w x) (XR.max y z))

/-- Operations whose formats of operands (`g`) and result (`f`) are separate, so that FGATE rounds its product
into a short format (R288). -/
def Iv.addF (g f : Fmt) (x y : Iv) : Iv :=
  Iv.lift2 x y fun a b c d ds =>
    Iv.result ds false (a.isFin && b.isFin && c.isFin && d.isFin)
      (((a.toXR g).add (c.toXR g)).down f) (((b.toXR g).add (d.toXR g)).up f)

def Iv.negF : Iv → Iv
  | .mk a b d => .mk b.flip.posZero a.flip.posZero d
  | x => x

def Iv.subF (g f : Fmt) (x y : Iv) : Iv := Iv.addF g f x y.negF

def Iv.mulF (g f : Fmt) (x y : Iv) : Iv :=
  Iv.lift2 x y fun a b c d ds =>
    let p := mulBounds (a.toXR g) (b.toXR g) (c.toXR g) (d.toXR g)
    Iv.result ds false (a.isFin && b.isFin && c.isFin && d.isFin) (p.1.down f) (p.2.up f)

def Iv.add (f : Fmt) : Iv → Iv → Iv := Iv.addF f f
def Iv.sub (f : Fmt) : Iv → Iv → Iv := Iv.subF f f
def Iv.mul (f : Fmt) : Iv → Iv → Iv := Iv.mulF f f

/-- u·v + w (FFMA). -/
def Iv.fma (f : Fmt) (x y z : Iv) : Iv :=
  match x, y, z with
  | .nai, _, _ => .nai
  | _, .nai, _ => .nai
  | _, _, .nai => .nai
  | .mk a b d, .mk c e d', .mk g h d'' =>
    let p := mulBounds (a.toXR f) (b.toXR f) (c.toXR f) (e.toXR f)
    Iv.result (Dec.min d (Dec.min d' d'')) false
      (a.isFin && b.isFin && c.isFin && e.isFin && g.isFin && h.isFin)
      ((p.1.add (g.toXR f)).down f) ((p.2.add (h.toXR f)).up f)
  | _, _, _ => .empty

/-- [a, b] over (0, ∞) ∩ [c, d], d > 0: rounded bounds of the quotient set. -/
def divPos (f : Fmt) (a b c d : XR) : Pt × Pt :=
  let q (up : Bool) (n m : XR) : Pt :=
    match n, m with
    | .fin x, .fin y => if up then roundUp f (cutRatio x y) else roundDown f (cutRatio x y)
    | .fin _, _ => .fin false 0
    | x, _ => if up then x.up f else x.down f
  let lo := if a.sign < 0 then (if c.sign ≤ 0 then .inf true else q false a c)
            else if a.sign = 0 then Pt.zero else q false a d
  let hi := if 0 < b.sign then (if c.sign ≤ 0 then .inf false else q true b c)
            else if b.sign = 0 then Pt.zero else q true b d
  (lo, hi)

/-- u / v over v ≠ 0 (FDIV): the hull over the positive and the negative divisors. -/
def Iv.div (f : Fmt) (x y : Iv) : Iv :=
  Iv.lift2 x y fun a b c d ds =>
    let a' := a.toXR f; let b' := b.toXR f; let c' := c.toXR f; let d' := d.toXR f
    let zero := c'.sign ≤ 0 && 0 ≤ d'.sign
    let fin := a.isFin && b.isFin && c.isFin && d.isFin
    let p := divPos f a' b' (XR.max c' (.fin Dy.zero)) d'
    let n := divPos f b'.neg a'.neg (XR.max d'.neg (.fin Dy.zero)) c'.neg
    if 0 < d'.sign then
      if c'.sign < 0 then Iv.result ds zero fin (Pt.min p.1 n.1) (Pt.max p.2 n.2)
      else Iv.result ds zero fin p.1 p.2
    else if c'.sign < 0 then Iv.result ds zero fin n.1 n.2
    else .empty

/-- The thin interval of an integer that is exact in the format, com. -/
def Iv.ofNat (f : Fmt) (n : Nat) : Iv :=
  .mk (roundDown f (Dy.ofInt n).cut) (roundUp f (Dy.ofInt n).cut) Dec.com

def Iv.one (f : Fmt) : Iv := Iv.ofNat f 1
def Iv.zero : Iv := .mk Pt.zero Pt.zero Dec.com

/-- 1 / u over u ≠ 0 (FRCP). -/
def Iv.rcp (f : Fmt) (x : Iv) : Iv := Iv.div f (Iv.one f) x

/-- √u over u ≥ 0 (FSQRT). -/
def Iv.sqrt (f : Fmt) (x : Iv) : Iv :=
  Iv.lift1 x fun a b ds =>
    if b.key < 0 then .empty
    else
      let lo := match a.toXR f with
        | .fin d => if d.m ≤ 0 then Pt.zero else roundDown f (cutSqrt d)
        | _ => Pt.zero
      let hi := match b.toXR f with
        | .fin d => roundUp f (cutSqrt d)
        | _ => .inf false
      Iv.result ds (a.key < 0) (a.isFin && b.isFin) lo hi

/-- 1 / √u over u > 0 (FRSQRT). -/
def Iv.rsqrt (f : Fmt) (x : Iv) : Iv :=
  Iv.lift1 x fun a b ds =>
    if b.key ≤ 0 then .empty
    else
      let hi := match a.toXR f with
        | .fin d => if d.m ≤ 0 then .inf false else roundUp f (cutRsqrt d)
        | _ => .inf false
      let lo := match b.toXR f with
        | .fin d => roundDown f (cutRsqrt d)
        | _ => Pt.zero
      Iv.result ds (a.key ≤ 0) (a.isFin && b.isFin) lo hi

/-- Bounds of |x|. -/
def absBounds (a b : Pt) : Pt × Pt :=
  if 0 ≤ a.key then (a, b) else if b.key ≤ 0 then (b.flip, a.flip) else (Pt.zero, Pt.max a.flip b)

/-- u² (FSQR). -/
def Iv.sqr (f : Fmt) (x : Iv) : Iv :=
  Iv.lift1 x fun a b ds =>
    let p := absBounds a b
    Iv.result ds false (a.isFin && b.isFin)
      (((p.1.toXR f).mul (p.1.toXR f)).down f) (((p.2.toXR f).mul (p.2.toXR f)).up f)

/-! ### Integer powers -/

/-- Keep the leading `p` bits of a mantissa, downwards or upwards (for m ≥ 0). -/
def Dy.trunc (p : Nat) (up : Bool) (d : Dy) : Dy :=
  let n := d.m.natAbs.log2
  if n < p then d
  else
    let k := n - p
    let q := d.m / (2 : Int) ^ k
    ⟨if up && q * (2 : Int) ^ k ≠ d.m then q + 1 else q, d.e + k⟩

/-- Enclosure of uⁿ for u ≥ 0 by squaring, from the leading of `i` bits of n down. -/
def powEncl (u : Dy) (n p : Nat) : Nat → Dy × Dy
  | 0 => (⟨1, 0⟩, ⟨1, 0⟩)
  | i + 1 =>
    -- bits of n above the lowest i + 1 … are handled by the recursion on n / 2
    let r := powEncl u (n / 2) p i
    let sq := ((r.1.mul r.1).trunc p false, (r.2.mul r.2).trunc p true)
    if n % 2 = 1 then ((sq.1.mul u).trunc p false, (sq.2.mul u).trunc p true) else sq

/-- Round uⁿ, u ≥ 0, n ≥ 1. -/
def powRound {α : Type} [DecidableEq α] (r : Cut → α) (u : Dy) (n : Nat) : α :=
  Approx.round r 14 u (fun p => powEncl u n p 33) 6 96

/-- Round 1 / uⁿ, u > 0. The reciprocal's cut is exact at each end of the enclosure. -/
def rpowRound {α : Type} [DecidableEq α] (r : Cut → α) (u : Dy) (n : Nat) : α :=
  let go (p : Nat) : α × α :=
    let e := powEncl u n p 33
    (r (cutRatio ⟨1, 0⟩ e.2), r (cutRatio ⟨1, 0⟩ e.1))
  let a := go 96
  if a.1 = a.2 then a.1
  else
    let b := go 384
    if b.1 = b.2 then b.1
    else
      let c := go 3072
      if Config.undecidedCompare 14 u.m u.e then c.1 else c.2

/-- Rounded bound of u^n for a bound u ≥ 0 and n ≠ 0 (0 and ∞ by their limits). -/
def powBound (f : Fmt) (up : Bool) (u : XR) (n : Int) : Pt :=
  let r := if up then roundUp f else roundDown f
  match u with
  | .fin d =>
    if d.m = 0 then (if 0 < n then Pt.zero else .inf false)
    else if 0 < n then powRound r d n.natAbs else rpowRound r d n.natAbs
  | _ => if 0 < n then .inf false else Pt.zero

/-- FPOWN. -/
def Iv.pown (f : Fmt) (x : Iv) (n : Int) : Iv :=
  Iv.lift1 x fun a b ds =>
    let fin := a.isFin && b.isFin
    let hasZero := a.key ≤ 0 && 0 ≤ b.key
    let undef := n < 0 && hasZero
    if n = 0 then Iv.result ds false fin (roundDown f (Dy.ofInt 1).cut) (roundUp f (Dy.ofInt 1).cut)
    else if n < 0 && a.key = 0 && b.key = 0 then .empty
    else if n % 2 = 0 then
      let p := absBounds a b
      let l := if 0 < n then p.1 else p.2
      let h := if 0 < n then p.2 else p.1
      Iv.result ds undef fin (powBound f false (l.toXR f) n) (powBound f true (h.toXR f) n)
    else
      -- odd: an odd function; the magnitude bound rounds the other way for a negative end
      let at' (up : Bool) (e : Pt) : Pt :=
        if e.key < 0 then (powBound f (!up) (e.flip.toXR f) n).flip else powBound f up (e.toXR f) n
      if 0 < n then Iv.result ds undef fin (at' false a) (at' true b)
      else if a.key < 0 && 0 < b.key then Iv.result ds undef fin (.inf true) (.inf false)
      else if a.key < 0 && b.key = 0 then Iv.result ds undef fin (.inf true) (at' true a)
      else Iv.result ds undef fin (at' false b) (at' true a)

/-- FLDEXP. -/
def Iv.ldexp (f : Fmt) (x : Iv) (n : Int) : Iv :=
  Iv.lift1 x fun a b ds =>
    let sc : XR → XR
      | .fin d => .fin (d.scale n)
      | y => y
    Iv.result ds false (a.isFin && b.isFin) ((sc (a.toXR f)).down f) ((sc (b.toXR f)).up f)

/-! ### Sign, order and set operations (R267, R268) -/

def Iv.exact (ds : Dec) (lo hi : Pt) : Iv := Iv.result ds false true lo hi

def Iv.neg (x : Iv) : Iv := Iv.lift1 x fun a b d => Iv.exact d b.flip a.flip
def Iv.abs (x : Iv) : Iv := Iv.lift1 x fun a b d => Iv.exact d (absBounds a b).1 (absBounds a b).2
def Iv.imin (x y : Iv) : Iv := Iv.lift2 x y fun a b c d ds => Iv.exact ds (Pt.min a c) (Pt.min b d)
def Iv.imax (x y : Iv) : Iv := Iv.lift2 x y fun a b c d ds => Iv.exact ds (Pt.max a c) (Pt.max b d)

def Iv.trv : Iv → Iv
  | .mk a b _ => .mk a b Dec.trv
  | x => x

def Iv.hull (x y : Iv) : Iv :=
  match x, y with
  | .nai, _ => .nai
  | _, .nai => .nai
  | .empty, y => y.trv
  | x, .empty => x.trv
  | .mk a b _, .mk c d _ => .mk (Pt.min a c) (Pt.max b d) Dec.trv

def Iv.isect (x y : Iv) : Iv :=
  match x, y with
  | .nai, _ => .nai
  | _, .nai => .nai
  | .mk a b _, .mk c d _ =>
    if (Pt.min b d).lt (Pt.max a c) then .empty else .mk (Pt.max a c) (Pt.min b d) Dec.trv
  | _, _ => .empty

/-- FMK (R269): from two bound codes. -/
def Iv.make (f : Fmt) (lo hi : Nat) : Iv :=
  match f.decode lo, f.decode hi with
  | .nan, _ => .nai
  | _, .nan => .nai
  | .inf false, .inf true => .empty
  | a, b =>
    if b.lt a || a = .inf false || b = .inf true then .nai
    else .mk a.posZero b.posZero (if a.isFin && b.isFin then Dec.com else Dec.dfn)

/-! ### Measures (R271) -/

/-- A measure: a real to be rounded, a value written thin with trv, or "no value". -/
inductive Measure where
  | real (d : Dy)
  | trvThin (p : Pt)
  | noValue
deriving DecidableEq, Repr

def midMeasure (f : Fmt) (a b : Pt) : Measure :=
  match a.toXR f, b.toXR f with
  | .fin x, .fin y => .real ((x.add y).scale (-1))
  | .fin _, _ => .trvThin (.fin false f.top)
  | _, .fin _ => .trvThin (.fin true f.top)
  | _, _ => .trvThin Pt.zero

def widMeasure (f : Fmt) (sc : Int) (a b : Pt) : Measure :=
  match a.toXR f, b.toXR f with
  | .fin x, .fin y => .real ((y.sub x).scale sc)
  | _, _ => .noValue

/-- FMIG: the smaller magnitude; it is finite, since an interval's bounds are not both infinite on one side. -/
def migMeasure (f : Fmt) (a b : Pt) : Measure :=
  match (absBounds a b).1.toXR f with
  | .fin x => .real x
  | _ => .noValue

def magMeasure (f : Fmt) (a b : Pt) : Measure :=
  match (absBounds a b).2.toXR f with
  | .fin x => .real x
  | _ => .noValue

/-- RoundNear of a measure; a zero measure is +0. -/
def nearMeasure (f : Fmt) (fzo : Bool) (v : Dy) : Pt :=
  let p := roundNear f v.cut
  if fzo then p.flushPt f else p

/-- How a measure is written (R271). -/
def Iv.measure (f : Fmt) (pt fzo : Bool) (m : Pt → Pt → Measure) (x : Iv) : Raw :=
  match x with
  | .mk a b d =>
    match m a b with
    | .real v =>
      if pt then (nearMeasure f fzo v).writePt f
      else
        let lo := roundDown f v.cut; let hi := roundUp f v.cut
        ((Iv.mk lo.posZero hi.posZero
          (Dec.min d (if lo.isFin && hi.isFin then Dec.com else Dec.dfn))).flush f fzo).write f
    | .trvThin p => (Iv.mk p p Dec.trv).write f
    | .noValue => (Iv.mk (.fin false f.top) (.inf false) Dec.trv).write f
  | x => x.write f

/-! ### Bisection (R272) -/

/-- The cut point m of [a, b], none where FBIS refuses. -/
def bisectAt (f : Fmt) (a b : Pt) : Option Pt :=
  let top := f.top
  if a = b then none
  else match a, b with
  | .inf _, .inf _ => some Pt.zero
  | .inf _, b => if b.key ≤ -(top : Int) then none else some (if 0 < b.key then Pt.zero else .fin true top)
  | a, .inf _ => if (top : Int) ≤ a.key then none else some (if a.key < 0 then Pt.zero else .fin false top)
  | a, b =>
    let m := match a.toXR f, b.toXR f with
      | .fin x, .fin y => (roundNear f ((x.add y).scale (-1)).cut).posZero
      | _, _ => Pt.zero
    let m := if m.le a then Pt.next f a else m
    let m := if b.le m then Pt.prev f b else m
    if a.lt m && m.lt b then some m.posZero else none

/-- The chosen half and whether the cut was made. -/
def Iv.bisect (f : Fmt) (hi : Bool) (x : Iv) : Iv × Bool :=
  match x with
  | .mk a b d =>
    match bisectAt f a b with
    | some m =>
      let l := if hi then m else a
      let h := if hi then b else m
      (.mk l.posZero h.posZero (Dec.min d (if l.isFin && h.isFin then Dec.com else Dec.dfn)), true)
    | none => (x, false)
  | x => (x, false)

/-! ### Relations and set tests (R208 to R210) -/

/-- Predicate codes: 00 FALSE, 01 TRUE, 10 UNDECIDED (R170). -/
abbrev Tri := BitVec 2
abbrev Tri.ff : Tri := 0
abbrev Tri.tt : Tri := 1
abbrev Tri.und : Tri := 2
def Tri.ofBool (b : Bool) : Tri := if b then Tri.tt else Tri.ff

def Tri.not (x : Tri) : Tri := if x = Tri.ff then Tri.tt else if x = Tri.tt then Tri.ff else Tri.und
def Tri.and (x y : Tri) : Tri :=
  if x = Tri.ff || y = Tri.ff then Tri.ff else if x = Tri.tt && y = Tri.tt then Tri.tt else Tri.und
def Tri.or (x y : Tri) : Tri := Tri.not (Tri.and (Tri.not x) (Tri.not y))
def Tri.xor (x y : Tri) : Tri :=
  if (x = Tri.ff || x = Tri.tt) && (y = Tri.ff || y = Tri.tt) then Tri.ofBool (x != y) else Tri.und
/-- Code 11 from outside is read as UNDECIDED (R211). -/
def Tri.read (x : Tri) : Tri := if x = 3 then Tri.und else x

/-- REL codes of R273. -/
def Iv.rel (rel : Nat) (x y : Iv) : Tri :=
  let tri (t f : Bool) : Tri := if t then Tri.tt else if f then Tri.ff else Tri.und
  match x, y with
  | .nai, _ => Tri.und
  | _, .nai => Tri.und
  | .mk a b _, .mk c d _ =>
    let eq := tri (a.key = b.key && b.key = c.key && c.key = d.key) (b.lt c || d.lt a)
    match rel with
    | 0 => tri (b.lt c) (d.le a)
    | 1 => tri (b.le c) (d.lt a)
    | 2 => eq
    | 3 => Tri.not eq
    | 4 => tri (d.lt a) (b.le c)
    | _ => tri (d.le a) (b.lt c)
  | x, y =>
    match rel with
    | 2 => Tri.ofBool (x.isEmpty && y.isEmpty)
    | 3 => Tri.ofBool (!(x.isEmpty && y.isEmpty))
    | _ => Tri.ff

/-- TEST codes of R274, R210. -/
def Iv.test (t : Nat) (x y : Iv) : Bool :=
  match t with
  | 3 => match x with
    | .mk a b _ => a.key ≤ 0 && 0 ≤ b.key
    | _ => false
  | 4 => x.isEmpty
  | 5 => match x with
    | .mk a b _ => a = .inf true && b = .inf false
    | _ => false
  | 6 => match x with
    | .mk a b _ => a.key = b.key
    | _ => false
  | t =>
    match x, y with
    | .nai, _ => false
    | _, .nai => false
    | .empty, _ => true
    | _, .empty => t = 2
    | .mk a b _, .mk c d _ =>
      if t = 0 then c.le a && b.le d
      else if t = 1 then (c.lt a || (a = .inf true && c = .inf true)) && (b.lt d || (b = .inf false && d = .inf false))
      else b.lt c || d.lt a

/-- FCLASS (R275). -/
def Iv.classify (f : Fmt) (x : Iv) : BitVec 32 :=
  match x with
  | .nai => 1
  | .empty => 0x802
  | .mk a b d =>
    let bit (n : Nat) (p : Bool) : BitVec 32 := if p then BitVec.ofNat 32 (2 ^ n) else 0
    (d.zeroExtend 32 <<< 11) ||| bit 10 (a.subnormal f || b.subnormal f) ||| bit 9 (b = .inf false)
      ||| bit 8 (a = .inf true) ||| bit 7 (b.key < 0) ||| bit 6 (0 < a.key) ||| bit 5 (a.key ≤ 0 && 0 ≤ b.key)
      ||| bit 4 (a.isFin && b.isFin) ||| bit 3 (a.key = b.key) ||| bit 2 (a = .inf true && b = .inf false)

/-- FDEC `.set` (R276): decoration k. -/
def Iv.setDec (x : Iv) (k : Dec) : Iv :=
  match x with
  | .mk a b _ =>
    if k = Dec.ill then .nai
    else .mk a b (if k = Dec.com && !(a.isFin && b.isFin) then Dec.dfn else k)
  | x => x

/-! ### Point values into and out of intervals (R196, R188) -/

/-- A point value loaded into a wider or equal format `f` (R196). -/
def Iv.ofPoint (src f : Fmt) (code : Nat) : Iv :=
  match src.decode code with
  | .nan => .nai
  | .inf false => .mk (roundDown f (src.mag src.top).cut) (.inf false) Dec.dfn
  | .inf true => .mk (.inf true) (roundUp f (src.mag src.top).neg.cut) Dec.dfn
  | .fin neg c =>
    let v := if neg then (src.mag c).neg else src.mag c
    let lo := roundDown f v.cut; let hi := roundUp f v.cut
    .mk lo.posZero hi.posZero (if lo.isFin && hi.isFin then Dec.com else Dec.dfn)

/-- A point of one format in another, exactly, for formats that hold it (short formats in FP32). -/
def Pt.convert (src f : Fmt) (p : Pt) : Pt :=
  match p with
  | .fin neg c => if c = 0 then p else if neg then (roundUp f (src.mag c).neg.cut) else roundDown f (src.mag c).cut
  | p => p

/-- Bounds packed into format `t` from an interval held in `f` (R277), low code then high code. -/
def Iv.pack (f t : Fmt) (sat : Bool) (x : Iv) : Nat × Nat :=
  match x with
  | .nai => if t = .e2m1 then (7, 8) else (t.nan, t.nan)
  | .empty => if t = .e4m3 then (0x7e, 0xfe) else if t = .e2m1 then (7, 0xf)
      else (t.encode (.inf false), t.encode (.inf true))
  | .mk a b _ =>
    ((storeCode t sat ((a.toXR f).down t)).1, (storeCode t sat ((b.toXR f).up t)).1)

/-- Unpacking of R277. -/
def Iv.unpack (t f : Fmt) (lo hi : Nat) : Iv :=
  let emptyCode := if t = .e4m3 then lo = 0x7e && hi = 0xfe else t = .e2m1 && lo = 7 && hi = 0xf
  if emptyCode then .empty
  else Iv.ofPts f ((t.decode lo).convert t f) ((t.decode hi).convert t f) Dec.com

/-- a ⊆ b as sets, for the outcome of FCVT. -/
def Iv.subset (x y : Iv) : Bool := Iv.test 0 x y

/-- A midpoint element: midpoint code in `m`, radius code (R200). -/
def Iv.toMid (f m : Fmt) (x : Iv) : Nat × Nat :=
  match x with
  | .nai => (m.nan, 0xffff)
  | .empty => (0, 0xfc01)
  | .mk a b _ =>
    match a.toXR f, b.toXR f with
    | .fin x, .fin y =>
      let p := (roundNear m ((x.add y).scale (-1)).cut).posZero
      match p.toXR m with
      | .fin mid =>
        let r := rad16Up (Dy.max (mid.sub x) (y.sub mid))
        if r = 0xfc00 then (0, 0xfc00) else (m.encode p, r)
      | _ => (0, 0xfc00)
    | _, _ => (0, 0xfc00)

/-- R201. -/
def Iv.ofMid (m f : Fmt) (mid rad : Nat) : Iv :=
  let p := m.decode mid
  if p = .nan || 0xfc01 < rad then .nai
  else if rad = 0xfc01 then .empty
  else if rad = 0xfc00 then .mk (.inf true) (.inf false) Dec.dfn
  else match p.toXR m with
    | .fin d =>
      let lo := roundDown f (d.sub (rad16Value rad)).cut
      let hi := roundUp f (d.add (rad16Value rad)).cut
      .mk lo.posZero hi.posZero (if lo.isFin && hi.isFin then Dec.com else Dec.dfn)
    | _ => .nai

/-! ### Point mode (R206): one rounding, IEEE 754 rules -/

def Pt.neg? : Pt → Bool
  | .fin n _ => n
  | .inf n => n
  | .nan => false

/-- RoundNear of an exact nonzero or zero dyadic, with the sign a zero takes. -/
def nearZ (f : Fmt) (zneg : Bool) (d : Dy) : Pt := if d.m = 0 then .fin zneg 0 else roundNear f d.cut

def Pt.addP (f : Fmt) (x y : Pt) : Pt :=
  match x, y with
  | .nan, _ => .nan
  | _, .nan => .nan
  | .inf a, .inf b => if a = b then .inf a else .nan
  | .inf a, _ => .inf a
  | _, .inf b => .inf b
  | .fin a c, .fin b d =>
    match (Pt.fin a c).toXR f, (Pt.fin b d).toXR f with
    | .fin u, .fin v => nearZ f (a && b && c = 0 && d = 0) (u.add v)
    | _, _ => .nan

/-- x·y + z; the product alone where z is absent. -/
def Pt.fmaP (f : Fmt) (x y : Pt) (z : Option Pt) : Pt :=
  let neg := x.neg? != y.neg?
  match x, y, z with
  | .nan, _, _ => .nan
  | _, .nan, _ => .nan
  | _, _, some .nan => .nan
  | x, y, z =>
    if !(x.isFin && y.isFin) then
      if x.key = 0 || y.key = 0 then .nan
      else match z with
        | some (.inf s) => if s = neg then .inf neg else .nan
        | _ => .inf neg
    else match z with
      | some (.inf s) => .inf s
      | z =>
        match x.toXR f, y.toXR f with
        | .fin u, .fin v =>
          match z with
          | none => nearZ f neg (u.mul v)
          | some z =>
            match z.toXR f with
            | .fin w => nearZ f (neg && z.neg? && (u.mul v).m = 0 && w.m = 0) ((u.mul v).add w)
            | _ => .nan
        | _, _ => .nan

def Pt.divP (f : Fmt) (x y : Pt) : Pt :=
  let neg := x.neg? != y.neg?
  match x, y with
  | .nan, _ => .nan
  | _, .nan => .nan
  | .inf _, .inf _ => .nan
  | .inf _, _ => .inf neg
  | _, .inf _ => .fin neg 0
  | .fin _ c, .fin _ d =>
    if d = 0 then (if c = 0 then .nan else .inf neg)
    else if c = 0 then .fin neg 0
    else roundNearAbs f neg (cutRatio (f.mag c) (f.mag d))

def Pt.sqrtP (f : Fmt) : Pt → Pt
  | .nan => .nan
  | .inf n => if n then .nan else .inf false
  | .fin n c => if c = 0 then .fin n 0 else if n then .nan else roundNearAbs f false (cutSqrt (f.mag c))

def Pt.rsqrtP (f : Fmt) : Pt → Pt
  | .nan => .nan
  | .inf n => if n then .nan else .fin false 0
  | .fin n c => if c = 0 then .inf n else if n then .nan else roundNearAbs f false (cutRsqrt (f.mag c))

/-- pown of IEEE 754: 1 for n = 0 whatever the operand (log 12). -/
def Pt.pownP (f : Fmt) (x : Pt) (n : Int) : Pt :=
  let odd := n % 2 ≠ 0
  let neg := x.neg? && odd
  if n = 0 then roundDown f (Dy.ofInt 1).cut
  else match x with
  | .nan => .nan
  | .inf _ => if 0 < n then .inf neg else .fin neg 0
  | .fin _ c =>
    if c = 0 then (if 0 < n then .fin neg 0 else .inf neg)
    else if 0 < n then powRound (roundNearAbs f neg) (f.mag c) n.natAbs
    else rpowRound (roundNearAbs f neg) (f.mag c) n.natAbs

def Pt.ldexpP (f : Fmt) (x : Pt) (n : Int) : Pt :=
  match x with
  | .fin neg c => if c = 0 then x else roundNearAbs f neg ((f.mag c).scale n).cut
  | x => x

/-! ### Integers (R278) -/

/-- The integer of a bound, rounded down, up or to nearest, clamped to [lo, hi]. -/
def Pt.toInt (f : Fmt) (r : Dy → Int) (lo hi : Int) (p : Pt) : Int :=
  match p.toXR f with
  | .ninf => lo
  | .pinf => hi
  | .fin d => if r d < lo then lo else if hi < r d then hi else r d

end Sys2Proof.Machine
end

