-- ==== Sys2Proof/Machine/Store.lean ====
section
/-! DEFINITION. The two containers of the state, both plain data. A `Store` is a finite map from Nat in one
canonical form (keys strictly rising, no entry equal to what an unlisted key reads as), used for memory,
vaults, register files and every array of the machine. An `Assoc` is a list of key and value pairs for
keys that are not numbers. -/

namespace Sys2Proof.Machine

/-- Key and value pairs in rising key order. -/
abbrev Store (α : Type) := List (Nat × α)

/-- The value at `a`; `d` where `a` is not listed. -/
def Store.get {α : Type} (d : α) : Store α → Nat → α
  | [], _ => d
  | (k, v) :: r, a => if a = k then v else Store.get d r a

/-- Write `v` at `a`, keeping the canonical form for the default `d`. Writing the default removes every entry under
the key, so that reading what was written gives it whatever the list. -/
def Store.put {α : Type} [DecidableEq α] (d : α) : Store α → Nat → α → Store α
  | [], a, v => if v = d then [] else [(a, v)]
  | (k, w) :: r, a, v =>
    if a < k then (if v = d then (k, w) :: r.filter (fun p => p.1 ≠ a) else (a, v) :: (k, w) :: r)
    else if a = k then (if v = d then r.filter (fun p => p.1 ≠ a) else (a, v) :: r)
    else (k, w) :: Store.put d r a v

/-- The keys of the list all lie above `n`. -/
def Store.above {α : Type} (n : Nat) (m : Store α) : Bool := m.all fun p => n < p.1

/-- The canonical form for the default `d`. -/
def Store.wf {α : Type} [DecidableEq α] (d : α) : Store α → Bool
  | [] => true
  | (k, v) :: r => v ≠ d && Store.above k r && Store.wf d r

/-- Apply `f` at each key of `l` in order. -/
def Store.putAll {α : Type} [DecidableEq α] (d : α) (m : Store α) (l : List (Nat × α)) : Store α :=
  l.foldl (fun m p => Store.put d m p.1 p.2) m

/-- Key and value pairs under any key type, in order of first insertion. -/
abbrev Assoc (κ α : Type) := List (κ × α)

/-- The value under `k`. -/
def Assoc.find {κ α : Type} [DecidableEq κ] : Assoc κ α → κ → Option α
  | [], _ => none
  | (k, v) :: r, a => if a = k then some v else Assoc.find r a

/-- Replace what is under `k`, or add it at the end; afterwards `k` stands once. -/
def Assoc.put {κ α : Type} [DecidableEq κ] : Assoc κ α → κ → α → Assoc κ α
  | [], a, v => [(a, v)]
  | (k, w) :: r, a, v => if a = k then (a, v) :: r.filter (fun p => p.1 ≠ a) else (k, w) :: Assoc.put r a v

/-- Remove the entry under `k`. -/
def Assoc.erase {κ α : Type} [DecidableEq κ] (m : Assoc κ α) (a : κ) : Assoc κ α :=
  m.filter fun p => p.1 ≠ a

/-- Change the value under `k`, if there is one. -/
def Assoc.modify {κ α : Type} [DecidableEq κ] (m : Assoc κ α) (a : κ) (f : α → α) : Assoc κ α :=
  m.map fun p => if p.1 = a then (p.1, f p.2) else p

end Sys2Proof.Machine
end

