-- ==== Sys2Proof/Machine/State.lean ====
section
/-! DEFINITION. The state of the module, as plain data, and its value after reset. -/

namespace Sys2Proof.Machine

/-! ### Names -/

/-- Names a warp: its grid, its team's index in the grid, its index in the team, and its context: 0 for the
core's ordinary contexts, k + 1 for sprout context k of the team's core (R370, R442). -/
structure WarpKey where
  grid : Nat
  team : Nat
  warp : Nat
  ctx : Nat
deriving DecidableEq, Repr

/-- Names a team of a grid. -/
structure TeamKey where
  grid : Nat
  team : Nat
deriving DecidableEq, Repr

/-- What a step of the part acts on: a message, a warp, a team, a die, a written value. Each step reads the fields
its meaning names. -/
structure EvArg where
  n : Nat := 0
  m : Nat := 0
  k : Nat := 0
  w : WarpKey := ⟨0, 0, 0, 0⟩
  t : TeamKey := ⟨0, 0⟩
  v : DWord := 0
  a : DWord := 0
  z : Int := 0
  img : BitVec 256 := 0
  flag : Bool := false
deriving DecidableEq, Repr

/-! ### A warp -/

/-- An F register: 64 bits of bounds (lo in [31:0], hi in [63:32]; one FP64 bound for half a pair) and a
decoration (R165, R171, R193). -/
structure FReg where
  bits : DWord
  dec : Dec
deriving DecidableEq, Repr

/-- [+0, +0] com (R169). -/
def FReg.zero : FReg := ⟨0, Dec.com⟩

/-- A reconvergence-stack entry (R371); `kind` 0 path, 1 reconvergence, 2 call. -/
structure SEntry where
  mask : Mask
  pc : DWord
  join : DWord
  kind : Nat
deriving DecidableEq, Repr

/-- A recruitment record (R450); `state` 0 NONE, 1 RUNNING, 2 FINISHED, 3 RELEASED. -/
structure Recr where
  state : Nat
  rop : Nat
  fl : Bool
  sgn : Bool
  g : Nat
  lane : Nat
  done : BitVec 512
  acc : DWord
  accDec : Dec
  accFlag : Bool
  fault : Word
  faddr : DWord
deriving DecidableEq, Repr

def Recr.none : Recr := ⟨0, 0, false, false, 0, 0, 0, 0, 0, false, 0, 0⟩

/-- A register of one thread (thread 0 for an S register) that an outstanding producer has marked empty (R176), or whose
contents are uncorrectable (R491). -/
structure Dest where
  file : File
  reg : Nat
  lane : Nat
deriving DecidableEq, Repr

/-- The architectural registers and hidden state of a warp: what a context save holds (R165, R173, R371, R459 to
R461, R466, R469). Registers are keyed register × 128 + thread; S registers by word of S storage (R168). -/
structure Regs where
  v : Store Word
  f : Store FReg
  s : Store Word
  p : Store Tri
  x : Store (BitVec 512)      -- stream registers (R322), all zero is CLOSED
  pc : DWord
  live : Mask
  mask : Mask                 -- current mask
  stack : List SEntry         -- top first
  hstack : List SEntry        -- the handler's own stack (R464)
  imask : Mask                -- interrupted mask and PC (R464)
  ipc : DWord
  tstat : Word
  fcause : Word
  faddr : DWord
  lpc : DWord
  hfault : Word
  item : Store Word           -- per thread (R173)
  hidx : Store Word
  hcount : Store Word
  floor : Store Nat           -- read floor per thread (R65)
  copySeq : Nat               -- COPYSEQ (R142)
  spanRef : DWord             -- SPANREF (R356)
  recr : Recr
  mrecs : List (BitVec 512)   -- matrix resume records, oldest first (R318)
  uni : Store Bool            -- uniform tag of each V register (R172), set unless listed
  thin : Store Bool           -- thin tag of each F register of each thread (R172), set unless listed
  bad : List Dest := []       -- V and F registers and words of S storage whose contents are uncorrectable (R458, R491)
deriving DecidableEq, Repr

/-- A trap on its way to the handler (R455, R460, R464). -/
structure Trap where
  cause : Nat
  detail : Nat
  aux : Nat
  lane : Nat
  addr : DWord
  lpc : DWord
  after : Bool
  async : Bool
  resume : Bool
deriving DecidableEq, Repr

/-- What a warp waits for beyond its registers; when the wait ends it executes its instruction again, which then
goes on. -/
inductive Wait where
  | none
  | fence (sc : Nat)                          -- FENCE, or the fence of an ST.rel (R97, R99)
  | barsync (sc : Nat) (len : Nat)            -- arrived at a barrier of scope sc (R380)
  | waitm (t0 : Nat) (watch : Nat) (limit : Nat)  -- WAITM: TC of its start, tag of its WatchSet, timeout (R382)
  | waitmRead (t0 : Nat) (pa : Nat)           -- its single-use read is out
  | waitmGot (t0 : Nat) (pa : Nat) (w : Nat) (bad : Nat) (data : Line)  -- answered; bad 1 LOST, 2 ECC, 3 refused
  | waitmAgain (t0 : Nat)                     -- to read again
  | sleep (till : Nat) (len : Nat)
  | hjoin (marks : List Dest)                 -- HJOIN while STATE is RUNNING, with its empty destinations (R176, R453)
  | push (done : List (Nat × Bool))           -- SPLIT or SPAWN during a spill: the threads that have pushed, and whether taken (R428)
  | matrix                                    -- held by a reservation table or a matrix entry (R311, R315)
  | page (fault : Nat) (lane : Nat) (addr : DWord)  -- PAGE-WAIT on a fault record (R53)
  | walk (id : Nat) (lane : Nat) (addr : DWord)  -- a translation walk in flight
  | acks                                      -- returned values or acknowledgements of its newest instruction
  | inval (id : Nat)                          -- TLBINV (R52)
  | rgnclr (left : List Nat) (cleared : Nat)  -- RGNCLR: clear requests not yet answered (R475)
deriving DecidableEq, Repr

/-- Causes pending at a boundary (R462). -/
structure Boundary where
  halt : Bool
  watchdog : Bool
  preempt : Bool
deriving DecidableEq, Repr

/-- The in-flight counters of R162. -/
inductive Ctr where
  | kg | ks | km | kx
deriving DecidableEq, Repr

/-- One thread's access: the place (a physical address, or core × 2^19 + offset in a vault of the warp's die), the
address the program formed, the size, the data it writes or compares, and whether it has been made (the value
bound, or the write acknowledged). -/
structure LaneAcc where
  lane : Nat
  a : Nat
  b : Nat                     -- the place of its last byte, which another page may hold
  va : DWord
  size : Nat
  data : Nat
  cmp : Nat
  done : Bool
  val : Nat
  asked : Bool                -- a fill or refetch it waits for is outstanding (R133)
  ok : Bool                   -- that fill has come: the words it needs are bound (R133, R340)
  tag : Nat                   -- its request
deriving DecidableEq, Repr

/-- Data a grant has brought to an instruction: usable by a thread whose floor is at most `upto` (R65, R128). -/
structure Piece where
  line : Nat
  w : Nat
  upto : Nat
  poison : Nat                -- 0 none, 1 LOST, 2 uncorrectable
  refused : Bool              -- error response (R37)
  data : Line
deriving DecidableEq, Repr

/-- What an outstanding instruction is. -/
inductive OKind where
  | load | vload                              -- reads into registers, global and vault
  | store | vstore
  | atom | vatom                              -- ATOM, ATOMF, CAS, and scratch atomics and RED
  | red
  | clean                                     -- CCTL.wb
  | flush                                     -- SFLUSH, SUNMAP, CSAVE and stream images
  | stream                                    -- XNEXT, XNEXT2
  | matrix
  | sprouts                                   -- RECRUIT's status register, HJOIN
  | span
deriving DecidableEq, Repr

/-- A matrix instruction that an operand stopped (R316): its resume record, and the trap that its registers hold. -/
structure Stop where
  record : BitVec 512
  cause : Nat
  detail : Nat
  addr : DWord
deriving DecidableEq, Repr

/-- An issued instruction whose effects have not all come back. -/
structure Out where
  id : Nat                    -- order of issue
  kind : OKind
  op : Op
  x : Ext
  ctr : Option Ctr
  mask : Mask                 -- the threads that took part
  lanes : List LaneAcc
  pieces : List Piece
  acks : List (Nat × Bool)    -- requests not yet acknowledged: tag, and whether to companion memory
  dests : List Dest
  finished : Bool
  acq : Bool
  oldest : Nat                -- the next tag when it became its warp's oldest read that has not bound, 0 before (R91)
  back : Option Regs          -- the registers at issue, restored if it traps (R456)
  slot : Nat                  -- map slot of a flush that unmaps, fault record a stream waits on, or time by which RECRUIT's D is filled, plus one
  stop : Option Stop
deriving DecidableEq, Repr

/-- A sprout warp's recruitment: the recruiter's warp, the warp whose exited threads lend their storage (none for a
free warp slot), those threads, and the time of its first issue (R442, R445, R452). -/
structure Sprout where
  owner : WarpKey
  host : Option WarpKey
  donors : Mask
  first : Option Nat
deriving DecidableEq, Repr

/-- A warp on a core, or parked. -/
structure Warp where
  r : Regs
  width : Nat
  die : Nat
  core : Nat
  slot : Nat                  -- warp slot (R180), or sprout context
  age : Nat                   -- order of start or resume on the core (R392)
  active : Bool               -- in the active set (R393)
  wait : Wait
  trapping : Option Trap      -- raised, entry not yet taken
  pending : Boundary
  parked : Bool
  halted : Bool
  saving : Nat                -- the core's own save or restore (R474): parts of it that are done
  saved : Nat                 -- and lines of the next part that have been sent
  outs : List Out             -- outstanding instructions, oldest first
  issued : Nat                -- instructions issued
  gwct : Nat                  -- latest GWCT of its writes to device memory (R64)
  gwctC : Nat                 -- and to companion memory
  lastIssue : Nat             -- time of its last issue
  sheller : Bool              -- started by the Sheller: a team of one warp (R431)
  sprout : Option Sprout      -- a sprout warp
  release : Nat               -- its recruitment: 1 being released, 2 and its recruiter has exited (R452)
deriving DecidableEq, Repr

/-! ### Homes and messages -/

/-- Message types (R85); those of the service class that are no lease messages follow LostNotice. -/
inductive MType where
  | readReq | readGrant | exclReq | exclGrant | storeReq | storeAck | forward | fwdData | writeback | recall
  | renew | watchSet | watchFire | atomReq | atomAck | lostNotice
  | lostClear | lostAnswer                    -- clear request and answer (R475)
  | clean | cleanAck                          -- CCTL.wb
  | tlbInv | tlbAck                           -- R52
  | stealReq | stealReply                     -- R433
  | unknown (type : Nat)
deriving DecidableEq, Repr

/-- A message on the mesh (R84). Units are numbered dies 0 to 127, memory sites 128 to 255, bridges 256 to 263. -/
structure Msg where
  id : Nat
  ty : MType
  once : Bool := false
  fwd : Bool := false
  release : Bool := false
  refused : Bool := false
  noret : Bool := false
  poison : Nat := 0           -- FLAGS.POISON: 1 of a LOST line, 2 of uncorrectable data
  reason : Nat := 0           -- WatchFire reasons
  tag : Nat := 0
  src : Nat
  dst : Nat
  agent : Nat := 0
  inc : Nat := 0
  addr : Nat := 0
  t1 : Nat := 0
  t2 : Nat := 0
  mask : BitVec 128 := 0
  op : Nat := 0
  data : Line := 0
  items : List Line := []     -- items of a steal reply (R433)
deriving DecidableEq, Repr

/-- State of a line at its home (R77). -/
inductive LineSt where
  | invalid | shared | excl | fwd | recall | lost
deriving DecidableEq, Repr

/-- A region entry (R67). -/
structure Region where
  home : Nat
  base : Nat                  -- PA[47:7] of the first line
  size : Nat
  len : Nat
  lmax : Nat
  wmax : Nat
  par : Nat                   -- of a half of the Kelvia Link agent: PA[12] of the lines it speaks of (R88)
  quiet : Nat
  lastwait : Nat
  agent : Nat                 -- HOLDER
  inc : Nat
  xexp : Nat
  st : LineSt
  lost : Bool
  watches : Nat               -- number of the line's first WATCH record, 0 none
deriving DecidableEq, Repr

/-- A write held at a home until its perform time (R63). -/
structure Held where
  msg : Msg
  w : Nat
deriving DecidableEq, Repr

/-- Requests of one line in order of arrival (R60); the line is busy while writes are held. -/
structure LineQ where
  line : Nat
  q : List Msg
  held : List Held
  waited : Bool               -- its first request, an ExclReq, has waited on LMAX (R72)
deriving DecidableEq, Repr

/-- A WATCH record (R83). -/
structure Watch where
  id : Nat
  home : Nat
  line : Nat
  mask : BitVec 128
  setAt : Nat
  msg : Msg                   -- the WatchSet, whose sender is answered
deriving DecidableEq, Repr

/-- A line of a last-level cache slice (R42, R43); its bytes are in the memory. -/
structure SliceLine where
  line : Nat
  valid : BitVec 128
  dirty : Bool
  used : Nat
deriving DecidableEq, Repr

/-- A line of a core's L1 (R126). -/
structure L1Line where
  die : Nat
  core : Nat
  line : Nat
  w : Nat
  expiry : Nat
  data : Line
  used : Nat
deriving DecidableEq, Repr

/-- Who waits on a fault record beside warps, copies, matrix entries and streams (R53, R401, R434). -/
inductive UnitUse where
  | pool (grid : Nat)                         -- an update of pool state
  | args (t : TeamKey)                        -- a team's argument block
  | ring (q : Nat)                            -- a queue's ring or control block
  | header (q : Nat)
  | launchArgs (q : Nat)
  | waitAddr (q : Nat)
  | overflow (q : Nat)                        -- the overflow header at admission
  | signal (grid : Nat)
  | refused (q : Nat)                         -- SIGNAL_ADDR of a refused head
  | flush (t : TeamKey) (slot : Nat) (va : Nat)  -- a line of a map that a leaving team unmaps (R141)
  | context (k : WarpKey)                     -- the core's own save or restore (R474)
  | rgn (k : WarpKey) (va : Nat)              -- a line of an RGNCLR (R475)
deriving DecidableEq, Repr

/-- Who reads through a unit's own pipes: an entry of a matrix unit, a warp's stream register (8: a descriptor or a
value of the instruction that executes), or an access of a dispatcher, of the distributor or of a core's own sequence. -/
inductive Reader where
  | matrix (id : Nat)
  | stream (k : WarpKey) (x : Nat)
  | unit (u : UnitUse)
deriving DecidableEq, Repr

/-- A line that a unit's pipes read or have read, by virtual line number. -/
structure Look where
  reader : Reader
  line : Nat
  pa : Nat
  tag : Nat
  got : Option Piece
deriving DecidableEq, Repr

/-- A fill of a mapped vault line that a unit's pipes wait for (R137): `st` 0 waiting, 1 it has come, 2 LOST,
3 uncorrectable, 4 refused. -/
structure UnitFill where
  reader : Reader
  vline : Nat
  st : Nat
deriving DecidableEq, Repr

/-- An entry of a cluster's reservation table (R310, R311): its job as a resume record holds it (R318). -/
structure MatEntry where
  id : Nat                    -- of its outstanding instruction
  warp : WarpKey
  die : Nat
  cluster : Nat
  cls : Nat
  job : BitVec 512
  granted : Bool
  turn : Nat                  -- order of its grant: the earliest granted runs, the other one fetches its operands (R311)
  parked : Option Nat         -- a page fault's record
  addr : Nat                  -- the operand address that met it
  hot : Bool                  -- granted next (R316)
  passed : Nat                -- grants that passed over it
deriving DecidableEq, Repr

/-- Who waits for a grant. -/
inductive User where
  | out (k : WarpKey) (id : Nat)              -- an instruction's operand
  | fill (core : Nat) (line : Nat)            -- a mapped line: vault line core × 4096 + line (R133)
  | prefetch
  | waitm (k : WarpKey)
  | copy (id : Nat)
  | look (r : Reader)                         -- a matrix or stream unit's read
  | unmap (t : TeamKey) (slot : Nat)          -- a line of a map that a leaving team unmaps (R141)
  | unit (u : UnitUse)                        -- a store or an atomic of a dispatcher, the distributor or a core's own sequence
  | walk (id : Nat)                           -- a line of a page table (R51)
  | fault (id : Nat)                          -- the store of a fault record (R480)
  | notice (id : Nat)                         -- the store of a notice (R482)
  | over (grid : Nat) (group : Nat)           -- an operation on a die group's overflow queue (R428)
  | incoming (id : Nat)                       -- an incoming span operation (R89)
deriving DecidableEq, Repr

/-- A line request that has left an agent and is not yet answered. -/
structure Req where
  tag : Nat
  die : Nat
  core : Nat
  kind : Nat                  -- agent KIND (R58)
  line : Nat
  floor : Nat
  once : Bool
  users : List User
  read : Bool                 -- a ReadReq
  first : Nat                 -- of a Writeback: the first byte of the line that it writes (R160)
  fwdData : Option (Line × Nat)  -- FwdData come before its grant, with its poison (R75)
  grant : Option (Nat × Nat × Bool)  -- grant with FWD come before its data: W, EXPIRY, ONCE
deriving DecidableEq, Repr

/-- A lease line in an exclusive holder's hands (R78). -/
structure Hold where
  agent : Nat
  inc : Nat
  unit : Nat
  line : Nat
  st : Nat                    -- 0 WAITING, 1 HELD
  till : Nat                  -- own lease bound (R73)
  renewed : Nat               -- when it last sent Renew or took the lease
  data : Line
  dirty : BitVec 128
  bad : Nat                   -- poison that came with the copy, until every byte is written (R40, R41)
  asked : Nat                 -- 0 no, 1 a Forward waits for the chunk write, 2 a Recall
  reader : Msg                -- the Forward, when one waits
  user : Nat                  -- the copy (0 the companion or a span operation)
deriving DecidableEq, Repr

/-! ### Translation -/

/-- A cached leaf translation (R50); `level` 0 core L1, 1 cluster, 2 die or bridge BN1. -/
structure Tlb where
  level : Nat
  die : Nat
  unit : Nat
  asid : Nat
  bits : Nat                  -- log2 of the page size
  page : Nat                  -- VA / 2^bits
  pa : Nat
  w : Bool
  x : Bool
  pin : Bool
  g : Bool
deriving DecidableEq, Repr

/-- A cached non-leaf entry (R50): the table the next level starts at. -/
structure Table where
  die : Nat
  asid : Nat
  level : Nat                 -- level of the entry, 2 or 3
  index : Nat                 -- VA bits at and above the level's index
  pa : Nat
deriving DecidableEq, Repr

/-- Access kinds of R54. -/
abbrev kLoad : Nat := 0
abbrev kStore : Nat := 1
abbrev kAtomic : Nat := 2
abbrev kFetch : Nat := 3
abbrev kMatrix : Nat := 4
abbrev kCopySrc : Nat := 5
abbrev kCopyDst : Nat := 6
abbrev kStream : Nat := 7

/-- Kinds of accesses that make no fault record: a prefetch or CCTL (R357, R358), and an operation of another module (R89). -/
abbrev kQuiet : Nat := 8
abbrev kSpanRead : Nat := 9
abbrev kSpanWrite : Nat := 10

/-- A walk in flight (R51). `die` is 0x81 for bridge BN1's unit. -/
structure Walk where
  id : Nat
  die : Nat
  asid : Nat
  va : Nat
  kinds : List Nat            -- access kinds that wait on it
  once : Bool                 -- it follows a Resolve: it reads every level, by single-use reads (R481)
  unit : Nat                  -- the walker that carries it out, plus one; 0 none yet
  rd : List Piece             -- lines of tables that it has read
  tag : Nat                   -- its outstanding read, 0 none
deriving DecidableEq, Repr

/-- A fault record (R53, R54). -/
structure FaultRec where
  id : Nat
  die : Nat
  asid : Nat
  va : Nat                    -- page base
  bits : Nat                  -- log2 of the page size
  kind : Nat
  cause : Nat
  tc : Nat
  token : Nat
  tag : Nat                   -- the store of the record, 0 not sent
  written : Bool              -- performed in the ring; false while held for room in it
  declined : Bool             -- answered with Decline, or a pinned page (R49): what met it ends
deriving DecidableEq, Repr

/-! ### Mapped ranges -/

/-- A map of a team (R131). -/
structure SMap where
  slot : Nat
  soff : Nat
  slen : Nat
  va : Nat
  rw : Bool
  asid : Nat
  removing : Bool             -- SUNMAP is waiting for its acknowledgements
deriving DecidableEq, Repr

/-- Lease of a mapped line (R132). -/
structure MapLine where
  w : Nat
  expiry : Nat
deriving DecidableEq, Repr

/-! ### Grids and teams -/

/-- The kernel header (R244) and its place. -/
structure Header where
  width : Nat
  nV : Nat
  nF : Nat
  nS : Nat
  nB : Nat
  hasTrap : Bool
  spill : Nat
  scratch : Nat
  carryV : List Nat
  carryF : List Nat
  lendV : List (Nat × Nat)
  lendF : List (Nat × Nat)
  hlimit : Nat
  hbudget : Nat
  trap : Int
deriving DecidableEq, Repr

/-- A launch as the distributor holds it (R399, R404 to R420). -/
structure Launch where
  queue : Nat
  index : Nat                 -- its record's index
  cls : Nat
  eligible : Nat              -- e of R406
  power : Bool                -- memory-bound
  pref : Nat
  fall : Nat
  podBytes : Nat
  args : DWord
  overflow : DWord
  nbatch : Nat
  signal : DWord
  watchdog : Nat              -- µs, 0 none
  floor : Nat                 -- W of the WAIT_ADDR read (R106)
  inSet : Bool                -- in the dispatching set (R408)
  since : Nat                 -- admission, or its last placement
  passed : Option Nat         -- since when a later launch has taken places that it could not
  reserving : Bool
  preempting : Bool           -- R409
  dies : List (Option Nat)    -- the die each group is bound to
  next : List Nat             -- the next team of each group to place
  counted : Nat               -- watchdog ns counted
  second : Bool               -- counting to the second limit
  recorded : Bool             -- its error has been recorded (R420)
  waits : List Nat            -- since when each group's next team has waited (R415)
deriving DecidableEq, Repr

/-- A launch that no queue made. -/
def Launch.none : Launch := ⟨0, 0, 0, 0, false, 1, 1, 0, 0, 0, 0, 0, 0, 0, false, 0, Option.none, false, false, [], [], 0, false, false, []⟩

/-- A grid: its launch (R399) as far as running warps read it. -/
structure Grid where
  header : Header
  entry : DWord
  dims : Nat × Nat × Nat      -- TEAM dimensions
  nteam : Nat
  ndie : Nat
  coop : Bool
  pool : Bool
  helpers : Bool
  asid : Nat
  scratch : Nat               -- SCRATCH of the launch (R120)
  context : DWord
  ending : Option Nat         -- the grid is ending, with this error code (0 none; R402, R420)
  gwct : Nat                  -- latest GWCT of its ended warps' writes to device memory, and to companion memory
  gwctC : Nat
  l : Launch
deriving DecidableEq, Repr

/-- A barrier register (R157). -/
structure BarReg where
  err : Bool
  lastErr : Bool
  phase : Bool
  pend : Nat
  expected : Nat
  arrived : Nat
deriving DecidableEq, Repr

/-- A copy-error record (R160); `cause` 0 is empty. -/
structure CopyErr where
  cause : Nat
  doff : Nat
  addr : Nat
deriving DecidableEq, Repr

/-- A team: where it is and its barrier registers. -/
structure Team where
  die : Nat
  core : Nat
  group : Nat                 -- die group
  scratch : Nat               -- base of its scratch in the vault
  warps : Nat                 -- number of its warps
  resident : Bool             -- holds its core and areas (R145, R465)
  cleared : Nat               -- bytes of scratch cleared so far (R118)
  maps : List SMap
  bars : Store BarReg
  cerrs : Store CopyErr
  slots : List Nat            -- warp slots of its warps on the core
  placedAt : Nat              -- placement or last resume (R415)
  outAt : Nat                 -- when it was parked
  behind : List TeamKey       -- teams that must be placed before it is again (R415)
  args : Option (BitVec 512)  -- the words of S0 to S15, once read (R401)
  gangsize : Nat              -- the size its gang was granted (R411)
  spillAt : Nat               -- vault offset of its spill area (R117)
  home : Option Nat           -- the cluster a pending copy keeps it in (R145)
deriving DecidableEq, Repr

/-- An item in a Pod: when it was pushed or came there, and whether OUTSTANDING counts it (R434): `tag` is none while its
increment has not been sent, the tag of the atomic add that is on its way, and 0 once that has performed. -/
structure PodItem where
  item : Line
  at' : Nat
  tag : Option Nat
deriving DecidableEq, Repr

/-- What a die dispatcher does on a die group's queue (R428): `what` 1 a spill from a core's Pod, 2 a refill of one, 3 a
refill that answers a steal request. -/
structure OverOp where
  what : Nat
  core : Nat
  ask : Option Msg
  items : List Line           -- the items of the batch
  got : List Piece            -- lines of the batch read
  left : List Nat             -- requests not yet answered, by tag
  step : Nat                  -- 0 the batch is still to be asked for or sent, 1 it has been, 2 the queue's word has been
deriving DecidableEq, Repr

/-- A die group's overflow queue (R427, R428) as its dispatcher holds it: QHEAD and QTAIL, which it alone writes, as they have
performed, and the operation under way. -/
structure OverQ where
  grid : Nat
  group : Nat
  head : Nat
  tail : Nat
  op : Option OverOp
deriving DecidableEq, Repr

/-- A Pod (R426): the grid's items on a core, oldest first; decrements of OUTSTANDING not yet sent (R434). -/
structure Pod where
  die : Nat
  core : Nat
  grid : Nat
  base : Nat                  -- its area in the vault (R117)
  slots : Nat
  items : List PodItem
  owed : Nat
deriving DecidableEq, Repr

/-- A core's search for items (R432): the next ring step to ask, whether a reply is awaited, and the wait after a
round that found nothing. -/
structure Steal where
  die : Nat
  core : Nat
  grid : Nat
  ring : Nat
  waiting : Bool
  asked : Nat                 -- slots kept for the reply
  till : Nat
deriving DecidableEq, Repr

/-- An entry of the queue table with what the distributor knows of its head (R394 to R406). -/
structure Queue where
  num : Nat
  base : Nat
  ctl : Nat
  log : Nat
  cls : Nat
  asid : Nat
  enable : Bool
  stopped : Bool
  mapped : Bool               -- holds a slot
  head : Nat
  tail : Nat
  record : Option Line        -- the head record, read
  waitW : Option Nat          -- W of the read that satisfied WAIT_ADDR
  eligible : Option Nat       -- e
  declined : List Nat         -- faults declined: 0 header, 1 ARGS, 2 WAIT_ADDR (R401, R403), 3 the overflow header (R434), 4 SIGNAL_ADDR of a
                              -- head that is refused
  fresh : Bool                -- its control block has not been read since ENABLE
  errcnt : Nat                -- ERRCNT
  kept : List Nat             -- dies it reserves for a cooperative head (R414)
  zeroed : Option Nat         -- the counts of its head's overflow area have been sent as zeros: their latest perform time (R427)
deriving DecidableEq, Repr

/-- A span operation on its way to another module (R89, R356, R486): `kind` 0 put, 1 get, 2 an atomic that returns a
value, 3 a RED; the instruction or the copy that sent it; the port it took and when. -/
structure SpanOp where
  id : Nat
  kind : Nat
  user : Option (WarpKey × Nat)
  copy : Nat
  addr : DWord
  lane : Nat
  op : Nat
  data : Nat
  cmp : Nat
  port : Nat
  sentAt : Nat
deriving DecidableEq, Repr

/-- A copy descriptor (R146); addresses and strides as numbers. -/
structure Desc where
  src : Nat
  dst : Nat
  idx : Nat
  wgt : Nat
  sstride : Int
  dstride : Int
  rows : Nat
  rowBytes : Nat
  ilim : Nat
  target : Nat
  ctrl : Nat
  bar : Nat
  prio : Nat
  zero : Nat                  -- the word at 0x3c
deriving DecidableEq, Repr

/-- A warp's arrival at a copy: its slice, the descriptor offset it named, its opcode (0 CPY, 1 CPYG, 2 CPYA), and the
instructions before it. -/
structure Arrival where
  warp : WarpKey
  first : Nat
  count : Nat
  off : Nat
  mode : Nat
  before : Nat
deriving DecidableEq, Repr

/-- A chunk that has been sent: parts of rows as (row, offset, bytes), with the source vault lines as they stood. -/
structure Chunk where
  parts : List (Nat × Nat × Nat)
  snap : List (Nat × Line)
deriving DecidableEq, Repr

/-- A copy in an engine's queue (R142 to R161). -/
structure Copy where
  id : Nat
  team : TeamKey
  one : Option Nat            -- the Sheller warp that is its team
  seq : Nat
  die : Nat
  cluster : Nat
  cls : Nat                   -- class of its queue entry
  refused : Bool
  arrivals : List Arrival
  order : Nat                 -- order of start, 0 not started
  mode : Nat
  svc : Nat                   -- service class
  desc : Desc
  doff : Nat
  rows : List (Nat × Nat)     -- union of the slices: first row, count; those not cut into chunks yet
  cut : Nat                   -- bytes of the first of them already cut
  chunks : List Chunk
  buf : List Piece            -- source and list lines read
  written : List (Nat × Nat)  -- vault bytes that it has written: place and number
  marks : List Nat            -- vault lines marked in flight
  latest : Nat                -- latest perform time
  entries : List (Nat × Nat × Nat)  -- list entries read: row, index (0xffffffff also where an entry stops the row), weight (R148)
  cause : Nat                 -- 0, or the first error's code, with the address of its first failing byte
  addr : Nat
  paused : Option Nat         -- a page fault's record
deriving DecidableEq, Repr

/-- A cluster's copy engine: the deficits of classes 0 to 3, the class being visited, and whether this visit has had
its quantum (R152). -/
structure Engine where
  die : Nat
  cluster : Nat
  deficit : List Nat
  turn : Nat
  fresh : Bool
  gwct : List Nat             -- latest GWCT of the writes of each of its queues (R64, R151)
deriving DecidableEq, Repr

structure UnitWait where
  fault : Nat
  use : UnitUse
deriving DecidableEq, Repr

/-- An operation of another module that has reached a span port (R89, R487): `kind` 0 put, 1 get, 2 an atomic that
returns a value, 3 a RED; `op` of a put: 0 plain, 1 an add of FP32 elements, 2 of interval elements; `st` 0 waiting, 1 being
carried out, 2 answered; `pages` the physical base of each 64 KiB page of it; `left` its requests not yet answered. -/
structure Incoming where
  id : Nat
  port : Nat
  module : Nat
  asid : Nat
  kind : Nat
  addr : Nat
  len : Nat
  op : Nat
  data : List Byte
  cmp : Nat
  st : Nat
  pages : List (Nat × Nat)
  left : List Nat             -- tags
  w : Nat                     -- latest perform time
  reply : List (Nat × Line)   -- lines read for a get, or the old value
  refused : Bool
deriving DecidableEq, Repr

/-- A notice that has not performed in the ring (R482). -/
structure Notice where
  id : Nat
  type : Nat
  cause : Nat
  source : Nat
  agent : Nat
  addr : Nat
  tc : Nat
  detail : Nat
  tag : Nat                   -- its store, 0 not sent
deriving DecidableEq, Repr

/-- A LOST clear over a range that runs at a site (R81, R484): its first line and their number. -/
structure Clear where
  site : Nat
  line : Nat
  count : Nat
deriving DecidableEq, Repr

/-- A companion invalidation or a TLBINV on its way (R52): targets that have not acknowledged, and what it removes. -/
structure Inval where
  id : Nat
  warp : Option WarpKey
  left : List Nat             -- dies, 0x81 for BN1
  asid : Nat
  mode : Nat
  va : Nat
  size : Nat
deriving DecidableEq, Repr

/-- The panel as a whole: power, clocks, links and bring-up (R3, R19 to R32, R39, R422, R488 to R494). -/
structure Panel where
  stage : Nat                 -- STAGE (R490)
  reduced : Bool              -- LEVEL
  joined : List Nat           -- compute dies in service
  retired : List Nat
  failed : List Nat           -- compute dies that have stopped
  sitesOut : List Nat
  outUnits : List Nat         -- replicas out of service (R25)
  calibrated : Store Nat      -- time of each replica's last calibration
  clock : Store Nat           -- MHz of each die (1,700 unless listed)
  clockTo : Store Nat         -- clock being changed to, 0 none, and the time of the request plus one
  clockAt : Store Nat
  power : Store Nat           -- power class of each die: 0 matrix-bound, 1 memory-bound
  siteBound : Bool            -- memory sites are in the memory-bound class (R39)
  windowAt : Nat
  hbmBytes : Store Nat        -- bytes of HBM traffic of each site in this window
  hbmAt : Store Nat           -- last HBM access of each site
  selfRefresh : List Nat
  scrubAt : Store Nat         -- last patrol scrub of each site
  gating : Store Nat          -- 0 powered, 1 gating sequence, 2 gated, 3 waking
  idleSince : Store Nat      -- since when the idle die is counted, plus one, 0 not counted; of a gated die when its power was switched off
  gatingDelay : Nat           -- ns
  lanes : Store Nat           -- failed lanes of each link
  half : List Nat             -- links at half width
  widthAt : Store Nat         -- links whose width is being changed: the time of the request plus one
  linksOut : List Nat
  linkCut : Store Nat         -- of each disabled link, the number of the first message sent after it was disabled, plus one (R21)
  tookOver : Nat              -- LMAX that a Kelvia half sets for the lines it has taken over (R88)
  modLocked : Bool            -- MODULE_ID is locked
  powerAt : Nat               -- last power sample
deriving DecidableEq, Repr

/-- What the machine does next: issue from a warp, or a step of the part on its argument. -/
inductive Slot where
  | issue (k : WarpKey)
  | event (i : Instr) (a : EvArg)
deriving DecidableEq, Repr

/-- The state of the module. -/
structure State where
  now : Nat                   -- the reference TC (R23)
  steps : Nat                 -- steps taken; feeds the free values
  agenda : List Slot
  cur : Option WarpKey        -- the warp whose instruction is executing
  arg : EvArg                 -- the argument of the step that is executing
  replica : Store Int         -- offset of each unit's TC replica from the reference
  gradeB : Bool
  warps : Assoc WarpKey Warp
  teams : Assoc TeamKey Team
  grids : Assoc Nat Grid
  coreIssue : Store Nat       -- when a core last issued (R415)
  clear : Store Nat           -- cycles N of R415 as firmware sets it (0x10000 unless listed)
  pods : List Pod
  overs : List OverQ
  steals : List Steal
  queues : List Queue
  rotation : List Nat         -- W of R404, the cursor's member first
  rotated : Nat               -- time of the last rotation
  nextGrid : Nat              -- the next grid number
  -- memory
  mem : Store Byte            -- every home's current value, by physical address (R33)
  vault : Store Byte          -- by die × 1280 × 2^19 + core × 2^19 + offset (R117)
  eccLines : List Nat         -- lines whose data is uncorrectable (R40, R41)
  eccVault : List Nat         -- vault granules of 8 bytes that are poisoned (R119)
  boundary : Nat              -- S (R35)
  ebound : Store Nat          -- E as each unit applies it (R26)
  perf : Store Nat            -- perform time of each line's value, by line
  regions : List Region
  lineq : List LineQ
  watches : List Watch
  dead : List (Nat × Nat × Nat)  -- home (0 for every home), AGENT, INC it refuses (R79)
  renewals : List (Nat × Nat × Nat × Nat)  -- home, AGENT, INC, time of the last Renew or grant
  slice : List SliceLine
  net : List Msg              -- messages on the mesh, oldest first
  nextId : Nat                -- numbers messages, tags, walks, records and instructions
  kelvia : List Msg           -- answers waiting for the companion's memory (R22)
  halfOut : List Nat          -- Kelvia halves out of service (257, 261)
  incs : Store Nat            -- INC of each agent (R58, R484)
  errors : Store Nat          -- service error counter of each unit (R85)
  copies : List Copy
  engines : List Engine
  spans : List SpanOp
  mats : List MatEntry        -- reservation tables, oldest first
  looks : List Look
  unitFills : List UnitFill
  portsOut : List Nat         -- span ports out of service
  -- cores' memory side
  l1 : List L1Line
  reqs : List Req
  rejected : List Msg         -- rejection queues, oldest first (R57)
  held : List WarpKey         -- warps whose instruction is held at issue for room in them (R57)
  wantEntry : List Nat        -- lines whose first request waits for a directory entry, in order of arrival (R71)
  holds : List Hold
  tlbs : List Tlb
  tables : List Table
  walks : List Walk
  faults : List FaultRec
  roots : Store Nat           -- root table of each ASID (R478)
  mapBits : Store (BitVec 3)  -- VALID, DIRTY, PENDING of each mapped word, by vault word (R132)
  mapLines : Store MapLine    -- by vault line
  inflight : Store Nat        -- copies that mark a vault line, by vault line (R129)
  service : Store Nat         -- registers of service space by offset (R478)
  unitWaits : List UnitWait
  incoming : List Incoming    -- operations of other modules, oldest first
  notices : List Notice
  clears : List Clear
  invals : List Inval
  panel : Panel
deriving DecidableEq, Repr

/-- Why the machine stops with a fault. -/
inductive Fault where
  /-- An instruction was to execute with no warp issuing it. Raised by every instruction outside `step`; no run of
  the machine reaches it. Safe. -/
  | noWarp
deriving DecidableEq, Repr

/-- Why an instruction has no meaning. -/
inductive Refusal where
  /-- The instruction has no meaning yet. Raised by exec's arms only. Safe. -/
  | notModelled (mnemonic : String)
deriving DecidableEq, Repr

/-- The panel after reset: stage 0, reduced service, no die joined yet (R490). -/
def Panel.reset : Panel :=
  { stage := 0, reduced := true, joined := [], retired := [], failed := [], sitesOut := [], outUnits := [], calibrated := [], clock := [],
    clockTo := [], clockAt := [], power := [], siteBound := false, windowAt := 0, hbmBytes := [], hbmAt := [], selfRefresh := [], scrubAt := [], gating := [], idleSince := [],
    gatingDelay := 50000, lanes := [], half := [], widthAt := [], linksOut := [], linkCut := [], tookOver := 0, modLocked := false, powerAt := 0 }

/-- The machine right after reset. -/
def State.reset : State :=
  { now := 0, steps := 0, agenda := [], cur := none, arg := {}, replica := [], gradeB := false, warps := [], teams := [], grids := [], coreIssue := [], clear := [], pods := [], overs := [], steals := [], queues := [],
    rotation := [], rotated := 0, nextGrid := 1, mem := [], vault := [], eccLines := [], eccVault := [], boundary := 0, ebound := [], perf := [], regions := [], lineq := [],
    watches := [], dead := [], renewals := [], slice := [], net := [], nextId := 1, kelvia := [], halfOut := [], incs := [], errors := [], copies := [], engines := [], spans := [], mats := [], looks := [], unitFills := [], portsOut := [],
    l1 := [], reqs := [], rejected := [], held := [], wantEntry := [], holds := [], tlbs := [], tables := [], walks := [], faults := [], roots := [], mapBits := [],
    mapLines := [], inflight := [], service := [], unitWaits := [], incoming := [], notices := [], clears := [], invals := [], panel := Panel.reset }

end Sys2Proof.Machine
end

