-- ==== Sys2Proof/Machine/Ops.lean ====
section
/-! DEFINITION. Named operations on the state that every family uses: registers and their special cases, the time
a unit reads, special registers, and the way a warp's instruction ends. -/

namespace Sys2Proof.Machine

/-- The outcome of an instruction or step. -/
abbrev Res := Host.Outcome State Fault Refusal

/-! ### Warps -/

def State.warp? (s : State) (k : WarpKey) : Option Warp := s.warps.find k
def State.setWarp (s : State) (k : WarpKey) (w : Warp) : State := { s with warps := s.warps.put k w }
def State.team? (s : State) (t : TeamKey) : Option Team := s.teams.find t
def State.grid? (s : State) (g : Nat) : Option Grid := s.grids.find g
def WarpKey.teamKey (k : WarpKey) : TeamKey := ⟨k.grid, k.team⟩

/-- The size of a team's gang (R411). -/
def State.gangOf (s : State) (t : TeamKey) : Nat := ((s.team? t).map (·.gangsize)).getD 1

/-- The kernel header a warp runs under; all zero for a grid the state does not hold. -/
def Header.none : Header := ⟨32, 0, 0, 32, 0, false, 0, 0, [], [], [], [], 0, 0, 0⟩

def State.header (s : State) (k : WarpKey) : Header :=
  match s.grid? k.grid with
  | some g => g.header
  | none => Header.none

/-- Registers at the start of a thread (R169), at an entry point. -/
def Regs.start (entry : DWord) (live : Mask) : Regs :=
  { v := [], f := [], s := [], p := [], x := [], pc := entry, live := live, mask := live, stack := [], hstack := [], imask := 0, ipc := 0,
    tstat := 0, fcause := 0, faddr := 0, lpc := 0, hfault := 0, item := [], hidx := [], hcount := [], floor := [], copySeq := 0,
    spanRef := 0, recr := Recr.none, mrecs := [], uni := [], thin := [] }

/-- A warp that has just been placed. -/
def Warp.start (r : Regs) (width die core slot age : Nat) (active : Bool) : Warp :=
  { r := r, width := width, die := die, core := core, slot := slot, age := age, active := active, wait := .none, trapping := none,
    pending := ⟨false, false, false⟩, parked := false, halted := false, saving := 0, saved := 0, outs := [], issued := 0, gwct := 0,
    gwctC := 0, lastIssue := 0, sheller := false, sprout := none, release := 0 }

/-! ### Threads -/

/-- The threads of a mask, ascending (R369). -/
def lanesOf (m : Mask) : List Nat := (List.range 128).filter fun l => m.getLsbD l

def bitMask (l : Nat) : Mask := BitVec.ofNat 128 (2 ^ l)

/-- Mask of the threads of a list. -/
def maskOf (ls : List Nat) : Mask := ls.foldl (fun m l => m ||| bitMask l) 0

/-- All threads of a width. -/
def fullMask (width : Nat) : Mask := BitVec.ofNat 128 (2 ^ width - 1)

def lowest (m : Mask) : Nat := ((lanesOf m).head?).getD 0

/-! ### Registers (R165, R168, R170) -/

def regKey (n lane : Nat) : Nat := n * 128 + lane

/-- A write replaces what a register held: its contents are good again (R491). -/
def rewritten (l : List Dest) (d : Dest) : List Dest := l.filter (· ≠ d)

def Regs.getV (r : Regs) (n lane : Nat) : Word := r.v.get 0 (regKey n lane)
def Regs.setV (r : Regs) (n lane : Nat) (x : Word) : Regs := { r with v := r.v.put 0 (regKey n lane) x, bad := rewritten r.bad ⟨.v, n, lane⟩ }
def Regs.getF (r : Regs) (n lane : Nat) : FReg := r.f.get FReg.zero (regKey n lane)
def Regs.setF (r : Regs) (n lane : Nat) (x : FReg) : Regs := { r with f := r.f.put FReg.zero (regKey n lane) x, bad := rewritten r.bad ⟨.f, n, lane⟩ }

/-- P15 reads TRUE (R170). -/
def Regs.getP (r : Regs) (n lane : Nat) : Tri := if n = 15 then Tri.tt else r.p.get 0 (regKey n lane)

/-- A write to P15 is discarded (R170). -/
def Regs.setP (r : Regs) (n lane : Nat) (x : Tri) : Regs :=
  if n = 15 then r else { r with p := r.p.put 0 (regKey n lane) x }

/-- The word of S storage that S n names: S376 to S383 name the top eight words (R168). -/
def sWord (nS n : Nat) : Nat := if 376 ≤ n then nS - 8 + (n - 376) else n

def Regs.getS (r : Regs) (nS n : Nat) : Word := r.s.get 0 (sWord nS n)
def Regs.setS (r : Regs) (nS n : Nat) (x : Word) : Regs := { r with s := r.s.put 0 (sWord nS n) x, bad := rewritten r.bad ⟨.s, sWord nS n, 0⟩ }

/-- A 64-bit value in a register pair, low word first (R223). -/
def pair (lo hi : Word) : DWord := hi ++ lo
def loWord (x : DWord) : Word := x.extractLsb' 0 32
def hiWord (x : DWord) : Word := x.extractLsb' 32 32

/-! ### Tags (R172) -/

/-- One write of V n in the threads of the mask: the uniform tag is set when they are all the warp's threads and hold one
value. -/
def Regs.tagV (r : Regs) (m : Mask) (n : Nat) : Regs :=
  let same : Bool := (lanesOf r.live).all fun l => m.getLsbD l && r.getV n l = r.getV n (lowest m)
  { r with uni := r.uni.put true n same }

/-- An F register or half a pair of FP64 whose bounds have equal bit patterns, and that is not NaI. -/
def Regs.thinNow (r : Regs) (dbl : Bool) (n lane : Nat) : Bool :=
  let x := r.getF n lane
  x.dec ≠ Dec.ill && (if dbl then (r.getF (n / 2 * 2) lane).bits = (r.getF (n / 2 * 2 + 1) lane).bits else loWord x.bits = hiWord x.bits)

/-- One write of F n in the threads of the mask. -/
def Regs.tagF (r : Regs) (m : Mask) (dbl : Bool) (n : Nat) : Regs :=
  { r with thin := (lanesOf m).foldl (fun t l => t.put true (regKey n l) (r.thinNow dbl n l)) r.thin }

/-- The tags after one write of each of these registers in the threads of the mask; no thread, no write. -/
def Regs.tagged (r : Regs) (m : Mask) (dbl : Bool) (ws : List (File × Nat)) : Regs :=
  if m = 0 then r
  else ws.foldl (fun r p => match p.1 with
    | .v => r.tagV m p.2
    | .f => r.tagF m dbl p.2
    | _ => r) r

/-- The tags of every register after its live threads' values have been set in one write each: at the start of items and
sprouts, and after the core's own restore (R172; DESIGN CHOICE, log 67). -/
def Regs.retag (r : Regs) (h : Header) : Regs :=
  (r.tagged r.live false ((List.range h.nV).map fun n => (.v, n))).tagged r.live false ((List.range h.nF).map fun n => (.f, n))

/-! ### Time (R23) -/

/-- TC as the unit's replica reads it: dies 0 to 127, memory sites 128 to 255, bridges 256 to 263. -/
def State.tcAt (s : State) (unit : Nat) : Nat := ((s.now : Int) + s.replica.get 0 unit).toNat

/-! ### Trap status bits (R459) -/

def Regs.tmode (r : Regs) : Bool := r.tstat.getLsbD 0

/-- %tstat as software reads it: PENDP and PENDW show what is pending. -/
def Warp.tstatRead (w : Warp) : Word :=
  w.r.tstat ||| (if w.pending.preempt then 16 else 0) ||| (if w.pending.watchdog then 32 else 0)

/-! ### Matrix resume records (R316, R317) -/

/-- Outstanding matrix instructions that an operand has stopped, as records. -/
def Warp.stopped (w : Warp) : List (BitVec 512) := w.outs.filterMap fun o => o.stop.map (·.record)

/-- Stopped instructions become records of the warp, and their accumulators are full with their old values. -/
def Warp.takeStops (w : Warp) : Warp :=
  { w with r := { w.r with mrecs := w.r.mrecs ++ w.stopped }, outs := w.outs.filter fun o => o.stop.isNone }

/-- %mrp. -/
def Warp.mrp (w : Warp) : Word :=
  let rs := w.r.mrecs ++ w.stopped
  match rs with
  | [] => 0
  | x :: _ => BitVec.ofNat 32 (x.toNat / 2 ^ 424 % 16 + rs.length % 8 * 2 ^ 8 + x.toNat / 2 ^ 432 % 16 * 2 ^ 16)

/-! ### Special registers (R173, R174) -/

/-- Linear thread index in the team. -/
def Warp.tid (w : Warp) (k : WarpKey) (lane : Nat) : Nat := if w.sheller then lane else k.warp * w.width + lane

def State.readSReg (s : State) (k : WarpKey) (w : Warp) (lane : Nat) (r : SReg) : Word :=
  let nat (n : Nat) : Word := BitVec.ofNat 32 n
  let g := s.grid? k.grid
  let t := s.team? k.teamKey
  let gs := s.gangOf k.teamKey
  match r with
  | .lane => nat lane
  | .tid => nat (w.tid k lane)
  | .warp => nat (if w.sheller then 0 else k.warp)
  | .team => nat k.team
  | .nteam => nat ((g.map (·.nteam)).getD 0)
  | .gang => nat (k.team - k.team % gs)
  | .gangsize => nat gs
  | .die => nat ((t.map (·.group)).getD 0)
  | .ndie => nat ((g.map (·.ndie)).getD 0)
  | .wwidth => nat w.width
  | .core => nat w.core
  | .cluster => nat (w.core / 4)
  | .dieid => nat w.die
  | .grade => if s.gradeB then 1 else 0
  | .tc => nat (s.tcAt w.die)
  | .tchi => nat (s.tcAt w.die / 2 ^ 32)
  | .item => w.r.item.get 0 lane
  | .hidx => w.r.hidx.get 0 lane
  | .hcount => w.r.hcount.get 0 lane
  | .mrp => w.mrp
  | .tstat => w.tstatRead
  | .fcause => w.r.fcause
  | .faddr => loWord w.r.faddr
  | .faddrhi => hiWord w.r.faddr
  | .lpc => loWord w.r.lpc
  | .lpchi => hiWord w.r.lpc
  | .hfault => w.r.hfault

/-! ### Full and empty (R176) -/

/-- Registers that a waiting HJOIN holds empty (R453). -/
def Wait.marks : Wait → List Dest
  | .hjoin l => l
  | _ => []

/-- The registers outstanding producers hold empty. -/
def Warp.empties (w : Warp) : List Dest := w.outs.flatMap (·.dests) ++ w.wait.marks

def Warp.isEmpty (w : Warp) (fl : File) (n lane : Nat) : Bool := w.empties.contains ⟨fl, n, if fl = .s then 0 else lane⟩

/-- Empty in some thread of the mask. -/
def Warp.emptyIn (w : Warp) (m : Mask) (p : File × Nat) : Bool :=
  w.empties.any fun d => d.file = p.1 && d.reg = p.2 && (if p.1 = .s then m ≠ 0 else m.getLsbD d.lane)

/-! ### Guards (R228) -/

def senseHolds (gs : BitVec 2) (x : Tri) : Bool :=
  if gs = 0 then x = Tri.tt else if gs = 1 then x = Tri.ff else if gs = 2 then x = Tri.und else x = Tri.tt || x = Tri.und

/-- The active threads whose guard selects them. -/
def Regs.taking (r : Regs) (g : BitVec 4) (gs : BitVec 2) : Mask :=
  maskOf ((lanesOf r.mask).filter fun l => senseHolds gs (r.getP g.toNat l))

/-- The threads that take part; under U = 1 the one in which the guard is read (R219). -/
def Regs.takes (r : Regs) (x : Ext) : Mask :=
  if x.u then (let l := lowest r.mask; if senseHolds x.gs (r.getP x.g.toNat l) then bitMask l else 0)
  else r.taking x.g x.gs

/-! ### The context area (R467, R468) -/

/-- WSIZE. -/
def Header.wsize (h : Header) : Nat :=
  let n := 4096 + 32 * h.spill + 4 * h.width * h.nV + 8 * h.width * h.nF + h.width * h.nF / 4 + 4 * h.width + 4 * h.nS + 512
  (n + 255) / 256 * 256

/-- Warps of a team of the grid. -/
def Grid.teamWarps (g : Grid) : Nat := (g.dims.1 * g.dims.2.1 * g.dims.2.2 + g.header.width - 1) / g.header.width

/-- TSIZE. -/
def Grid.tsize (g : Grid) : Nat := (0x400 + g.teamWarps * g.header.wsize + g.header.scratch + 4095) / 4096 * 4096

/-- The team block of a team, and the slot of a warp in it; a Sheller warp uses the slot of its warp slot (R468). -/
def Grid.teamBlock (g : Grid) (k : WarpKey) : DWord := g.context + BitVec.ofNat 64 (k.team * g.tsize)
def Grid.warpSlot (g : Grid) (k : WarpKey) : DWord := g.teamBlock k + BitVec.ofNat 64 (0x400 + k.warp * g.header.wsize)

/-! ### Taking a trap, and returning (R455 to R464, R471) -/

/-- Remove warps; the perform times of their writes stay with their grids (R106). -/
def State.dropWarps (s : State) (hit : WarpKey → Warp → Bool) : State :=
  let gone := s.warps.filter fun p => hit p.1 p.2
  { s with
    grids := s.grids.map fun g =>
      let mine := gone.filter fun p => p.1.grid = g.1
      (g.1, { g.2 with
        gwct := mine.foldl (fun n p => max n p.2.gwct) g.2.gwct
        gwctC := mine.foldl (fun n p => max n p.2.gwctC) g.2.gwctC })
    warps := s.warps.filter fun p => !hit p.1 p.2 }

/-- The end of a grid by an error (R419, R402): its teams and items are removed without handlers, and what has been
sent performs; GRID_COMPLETE does the rest. The first error code stays. -/
def State.endGrid (s : State) (g code : Nat) : State :=
  let s := s.dropWarps fun k _ => k.grid = g
  { s with
    grids := s.grids.modify g fun x => { x with ending := some (x.ending.getD code) }
    pods := s.pods.filter fun (p : Pod) => p.grid ≠ g
    overs := s.overs.filter fun (q : OverQ) => q.grid ≠ g
    steals := s.steals.filter fun (t : Steal) => t.grid ≠ g }

/-- A lane number that stands for the whole warp. -/
abbrev wholeWarp : Nat := 256

/-- The cause word of R460. -/
def Trap.word (t : Trap) : Word :=
  BitVec.ofNat 32 (t.cause + t.detail % 256 * 2 ^ 8 + t.aux % 256 * 2 ^ 16 + t.lane % 256 * 2 ^ 24)

/-- %tstat at entry: TMODE with RESUME, AFTER and ASYNC of the entry (R459). -/
def Trap.status (t : Trap) : Word :=
  BitVec.ofNat 32 (1 + (if t.resume then 2 else 0) + (if t.after then 4 else 0) + (if t.async then 8 else 0))

/-- An instruction address: bits [1:0] are zero, as the rule keeps them (R215). -/
def pcOf (x : DWord) : DWord := x &&& ~~~3#64

/-- The registers of a warp on entry to its handler (R464). -/
def Regs.enter (r : Regs) (h : Header) (entry slot block : DWord) (t : Trap) : Regs :=
  let r := { r with
    imask := r.mask, ipc := t.lpc, fcause := t.word, faddr := t.addr, lpc := t.lpc, tstat := t.status,
    mask := r.live, hstack := [], pc := pcOf (entry + BitVec.ofInt 64 h.trap) }
  let r := (((r.setS h.nS 376 (loWord slot)).setS h.nS 377 (hiWord slot)).setS h.nS 378 (loWord block)).setS h.nS 379 (hiWord block)
  (((r.setS h.nS 380 0).setS h.nS 381 0).setS h.nS 382 0).setS h.nS 383 0

/-- Entry to the handler. A kernel without one ends the grid, except that PREEMPT and RESUME run the core's own
sequence, for which the trap stays raised (R464, R474). -/
def State.enter (s : State) (k : WarpKey) (w : Warp) (t : Trap) : State :=
  match s.grid? k.grid with
  | none => s.setWarp k { w with trapping := none }
  | some g =>
    if g.header.hasTrap then s.setWarp k { w with r := w.r.enter g.header g.entry (g.warpSlot k) (g.teamBlock k) t, trapping := none, wait := .none }
    else if t.cause = 14 || t.cause = 18 then s.setWarp k { w with trapping := some t }
    else s.endGrid k.grid 17

/-- Every register full and every counter zero (R164, R179). -/
def Warp.quiet (w : Warp) : Bool := w.outs.isEmpty

/-- Start the release of a recruitment that is running (R452); `gone` when its recruiter's thread has exited. -/
def State.releaseOf (s : State) (owner : WarpKey) (gone : Bool) : State :=
  { s with warps := s.warps.modify owner fun w =>
      if w.r.recr.state = 1 then { w with release := if gone then 2 else max w.release 1 } else w }

/-- A fault of a sprout: recorded if it is the recruitment's first, and the recruitment is released (R451, R461). -/
def State.sproutFault (s : State) (w : Warp) (t : Trap) : State :=
  match w.sprout with
  | none => s
  | some p =>
    let lane := if t.lane = wholeWarp then lowest w.r.mask else t.lane
    let word := t.cause + t.detail % 256 * 2 ^ 8 + (w.r.hidx.get 0 lane).toNat % 512 * 2 ^ 16
    let s := { s with warps := s.warps.modify p.owner fun o =>
      if o.r.recr.fault = 0 then { o with r := { o.r with recr := { o.r.recr with fault := BitVec.ofNat 32 word, faddr := t.addr } } } else o }
    s.releaseOf p.owner false

/-- Raise a trap that is taken precisely or after the instruction: the handler is entered at once when R164 and R179
hold, else TRAP_ENTRY enters it. In trap mode it ends the grid with code 17 (R462); in a sprout it is the sprout's
fault (R451). -/
def State.trap (s : State) (k : WarpKey) (w : Warp) (t : Trap) : State :=
  let w := w.takeStops
  if w.sprout.isSome then (s.setWarp k w).sproutFault w t
  else if w.r.tmode then s.endGrid k.grid 17
  else if w.quiet then s.enter k w t
  else s.setWarp k { w with trapping := some t }

/-- A precise trap at the instruction, with nothing of it performed (R455). -/
def State.precise (s : State) (k : WarpKey) (w : Warp) (cause : Nat) (detail aux lane : Nat) (addr : DWord) : Res :=
  .next (s.trap k w ⟨cause, detail, aux, lane, addr, w.r.pc, false, false, false⟩)

/-- Causes of R455 by name. -/
abbrev cIllegal : Nat := 1
abbrev cAlloc : Nat := 2
abbrev cMask : Nat := 3
abbrev cReconv : Nat := 4
abbrev cFe : Nat := 5
abbrev cMisalign : Nat := 6
abbrev cDivzero : Nat := 7
abbrev cProt : Nat := 8
abbrev cLost : Nat := 9
abbrev cMalformed : Nat := 10
abbrev cCopyerr : Nat := 11
abbrev cHelper : Nat := 12
abbrev cWatchdog : Nat := 13
abbrev cPreempt : Nat := 14
abbrev cSwtrap : Nat := 15
abbrev cBreak : Nat := 16
abbrev cEcc : Nat := 17
abbrev cResume : Nat := 18

/-! ### Scratch addresses (R117, R120, R122, R124) -/

/-- Where a scratch address leads: a byte of a vault of the warp's die as core × 2^19 + offset, or the trap. -/
inductive ScratchLoc where
  | at (a : Nat)
  | bad (cause detail : Nat)
deriving DecidableEq, Repr

def ScratchLoc.isBad : ScratchLoc → Bool
  | .at _ => false
  | .bad _ _ => true

/-- Cores enabled on a die (R1, R14). -/
def State.coresPerDie (s : State) : Nat := if s.gradeB then 1216 else 1280

/-- The scratch of a resident team holds the bytes. -/
def teamHolds (t : Team) (scratch die core off size : Nat) : Bool :=
  t.resident && t.die = die && t.core = core && t.scratch ≤ off && off + size ≤ t.scratch + scratch

/-- A scratch access of `size` bytes: space 1 `.s`, 2 `.gs`, 3 `.v` (R120). -/
def State.scratchLoc (s : State) (k : WarpKey) (w : Warp) (sp addr size : Nat) : ScratchLoc :=
  match s.grid? k.grid with
  | none => .bad cAlloc 0
  | some g =>
    let off := addr % 2 ^ 19
    let own (t : TeamKey) : ScratchLoc :=
      match s.team? t with
      | some tm => if tm.resident then .at (tm.core * 2 ^ 19 + tm.scratch + off) else .bad cProt 7
      | none => .bad cProt 7
    match sp with
    | 1 => if 2 ^ 19 ≤ addr || g.scratch < off + size then .bad cAlloc 0 else own k.teamKey
    | 2 =>
      let m := addr / 2 ^ 19
      if 4 ≤ m || g.scratch < off + size then .bad cAlloc 0
      else if s.gangOf k.teamKey ≤ m then .bad cProt 7
      else own ⟨k.grid, k.team - k.team % s.gangOf k.teamKey + m⟩
    | _ =>
      let c := addr / 2 ^ 19
      if s.coresPerDie ≤ c then .bad cProt 7
      else if s.teams.any fun p => p.1.grid = k.grid && teamHolds p.2 g.scratch w.die c off size then .at (c * 2 ^ 19 + off)
      else .bad cProt 7

/-! ### How an instruction ends -/

/-- The warp's new registers with the program counter moved on, as the whole next state. -/
def State.done (s : State) (k : WarpKey) (w : Warp) (r : Regs) (len : Nat) : Res :=
  .next (s.setWarp k { w with r := { r with pc := r.pc + BitVec.ofNat 64 len } })

end Sys2Proof.Machine
end

