-- ==== Sys2Proof/Machine/Special.lean ====
section
/-! DEFINITION. The special functions of R284 to R288: enclosures of the real functions at any precision, their
correctly rounded bounds, and the freedom of one ulp that R203 leaves the FP32 results. -/

namespace Sys2Proof.Machine

/-- The functions of opcodes 0x80 to 0x8a. -/
inductive Fn where
  | exp | exp2 | log | log2 | tanh | sig | erf | sin | cos | gelu | silu
deriving DecidableEq, Repr

def Fn.code : Fn → Nat
  | .exp => 0 | .exp2 => 1 | .log => 2 | .log2 => 3 | .tanh => 4 | .sig => 5 | .erf => 6 | .sin => 7 | .cos => 8
  | .gelu => 9 | .silu => 10

/-! ### Fixed-point enclosures: integers scaled by 2 to the p -/

def fxDown (p : Nat) (d : Dy) : Int := (d.scale p).floor
def fxUp (p : Nat) (d : Dy) : Int := (d.scale p).ceil
def fxOne (p : Nat) : Int := Int.ofNat (2 ^ p)

/-- A pair of integers as dyadics. -/
def fxPair (p : Nat) (l h : Int) : Dy × Dy := (⟨l, -(p : Int)⟩, ⟨h, -(p : Int)⟩)

/-- Quotient of enclosures, divisor positive. -/
def fxDiv (p : Nat) (n d : Int × Int) : Int × Int :=
  (n.1 * fxOne p / (if 0 ≤ n.1 then d.2 else d.1), n.2 * fxOne p / (if 0 ≤ n.2 then d.1 else d.2) + 1)

/-- Product of enclosures, second factor nonnegative. -/
def fxMul (p : Nat) (x y : Int × Int) : Int × Int :=
  (x.1 * (if 0 ≤ x.1 then y.1 else y.2) / fxOne p, x.2 * (if 0 ≤ x.2 then y.2 else y.1) / fxOne p + 1)

/-- Σ z^(2k+1) / (2k+1) for 0 ≤ z < 1, truncated; `sg` −1 alternates the signs. -/
def atanSeries (p : Nat) (sg : Int) (z2 : Int) : Nat → Nat → Int → Int → Int
  | 0, _, _, acc => acc
  | n + 1, k, t, acc =>
    if t = 0 then acc
    else atanSeries p sg z2 n (k + 1) (sg * (t * z2 / fxOne p)) (acc + t / (2 * k + 1))

/-- The integer square root, by bits. -/
def isqrt (n : Nat) : Nat → Nat → Nat
  | 0, a => a
  | b + 1, a => if (a + 2 ^ b) * (a + 2 ^ b) ≤ n then isqrt n b (a + 2 ^ b) else isqrt n b a

/-- ln 2 = 2 artanh(1/3). -/
def ln2Fx (p : Nat) : Int × Int :=
  let z := fxOne p / 3
  let s := atanSeries p 1 (z * z / fxOne p) (p + 4) 0 z 0
  (2 * s, 2 * s + 8 * p + 16)

/-- π = 16 arctan(1/5) − 4 arctan(1/239). -/
def piFx (p : Nat) : Int × Int :=
  let at' (n : Int) : Int := atanSeries p (-1) (fxOne p / (n * n)) (p + 4) 0 (fxOne p / n) 0
  let s := 16 * at' 5 - 4 * at' 239
  let err : Int := 128 * p + 256
  (s - err, s + err)

/-- √ of an enclosure. -/
def sqrtFx (p : Nat) (x : Int × Int) : Int × Int :=
  ((isqrt (x.1.toNat * 2 ^ p) (p + 8) 0 : Nat), (isqrt (x.2.toNat * 2 ^ p) (p + 8) 0 : Nat) + 1)

/-- Σ xᵏ / k! for 0 ≤ x, truncated at each term. -/
def expSeries (p : Nat) (x : Int) : Nat → Nat → Int → Int → Int
  | 0, _, _, acc => acc
  | n + 1, k, t, acc =>
    if t = 0 then acc else expSeries p x n (k + 1) (t * x / (fxOne p * (k + 1))) (acc + t)

/-- e to the r for r enclosed near [0, 1). -/
def expFrac (p : Nat) (r : Int × Int) : Int × Int :=
  let lo := if r.1 < 0 then fxOne p + r.1 else expSeries p r.1 (p + 8) 0 (fxOne p) 0
  let hi := expSeries p (if r.2 < 0 then 0 else r.2) (p + 8) 0 (fxOne p) 0 + 2 * p + 32
  (lo, hi)

/-- e to the u for moderate u. -/
def expApprox (u : Dy) : Approx := fun p =>
  let l := ln2Fx p
  let k := fxDown p u / l.1
  let kl := if 0 ≤ k then k * l.2 else k * l.1
  let kh := if 0 ≤ k then k * l.1 else k * l.2
  let e := expFrac p (fxDown p u - kl, fxUp p u - kh)
  (⟨e.1, k - p⟩, ⟨e.2, k - p⟩)

/-- 2 to the u. -/
def exp2Approx (u : Dy) : Approx := fun p =>
  let k := u.floor
  let f := u.sub (Dy.ofInt k)
  let l := ln2Fx p
  let e := expFrac p (fxDown p f * l.1 / fxOne p, fxUp p f * l.2 / fxOne p + 1)
  (⟨e.1, k - p⟩, ⟨e.2, k - p⟩)

/-- Enclosure of ln u for u > 0, as integers. -/
def lnFx (u : Dy) (p : Nat) : Int × Int :=
  let n : Nat := u.m.natAbs.log2
  -- f in [1, 2), or halved into [0.75, 1)
  let half := 3 * fxOne n < 2 * u.m
  let one : Int := if half then fxOne (n + 1) else fxOne n
  let k : Int := n + u.e + (if half then 1 else 0)
  let num := u.m - one
  let z := (num.natAbs : Int) * fxOne p / (u.m + one)
  let ser (z : Int) : Int := atanSeries p 1 (z * z / fxOne p) (p + 4) 0 z 0
  let lo := 2 * ser z
  let hi := 2 * ser (z + 1) + 8 * p + 32
  let s : Int × Int := if 0 ≤ num then (lo, hi) else (-hi, -lo)
  let l := ln2Fx p
  (s.1 + (if 0 ≤ k then k * l.1 else k * l.2), s.2 + (if 0 ≤ k then k * l.2 else k * l.1))

def logApprox (u : Dy) : Approx := fun p => let r := lnFx u p; fxPair p r.1 r.2

def log2Approx (u : Dy) : Approx := fun p =>
  let r := fxDiv p (lnFx u p) (ln2Fx p)
  fxPair p r.1 r.2

/-- floor(2u / π). No FP32 value lies nearer than 2 to the −100 to a multiple of π/2 but 0, so that 512 bits of π
decide it. -/
def quadrant (u : Dy) : Int :=
  if u.m = 0 then 0
  else
    let x := 2 * fxDown 512 u
    x / (piFx 512).1

/-- Alternating Taylor sum Σ (−1)ᵏ x^(2k+s) / (2k+s)! from the term `t`. -/
def trigSeries (p : Nat) (x2 : Int) (s : Nat) : Nat → Nat → Int → Int → Int
  | 0, _, _, acc => acc
  | n + 1, k, t, acc =>
    if t = 0 then acc
    else trigSeries p x2 s n (k + 1)
      (-(t * x2 / (fxOne p * ((2 * k + s + 1) * (2 * k + s + 2))))) (acc + t)

/-- sin (s = 0) or cos (s = 1 shifts the quadrant) of u. -/
def trigApprox (isCos : Bool) (u : Dy) : Approx := fun p0 =>
  let p := p0 + 16 + (if 0 < (u.m.natAbs.log2 : Int) + u.e then ((u.m.natAbs.log2 : Int) + u.e).toNat else 0)
  let n := quadrant u
  let pi := piFx p
  let rl := fxDown p u - (if 0 ≤ n then n * pi.2 else n * pi.1) / 2 - 1
  let rh := fxUp p u - (if 0 ≤ n then n * pi.1 else n * pi.2) / 2 + 1
  let r := (rl + rh) / 2
  let x2 := r * r / fxOne p
  let q := (n + if isCos then 1 else 0) % 4
  let v := if q % 2 = 0 then trigSeries p x2 1 (p + 8) 0 r 0 else trigSeries p x2 0 (p + 8) 0 (fxOne p) 0
  let err := (rh - rl) + 16 * p + 64
  let v := if q < 2 then v else -v
  fxPair p (v - err) (v + err)

/-- Σ (−1)ᵏ x^(2k+1) / (cᵏ k! (2k+1)). -/
def erfSeries (p : Nat) (x2 c : Int) : Nat → Nat → Int → Int → Int
  | 0, _, _, acc => acc
  | n + 1, k, t, acc =>
    if t = 0 then acc
    else erfSeries p x2 c n (k + 1) (-(t * x2 / (fxOne p * (c * (k + 1))))) (acc + t / (2 * k + 1))

/-- Enclosure of the sum above for |x| < 16, at precision p. -/
def erfSum (x : Dy) (c : Int) (p : Nat) : Int × Int :=
  let q := p + 200
  let x0 := fxDown q x
  let s := erfSeries q (x0 * x0 / fxOne q) c (q + 800) 0 x0 0
  let k := fxOne 200
  (s / k - 1, s / k + 2)

/-- erf x for |x| ≤ 6. -/
def erfApprox (x : Dy) : Approx := fun p =>
  let a := erfSum x 1 p
  let s := sqrtFx p (piFx p)
  let r := fxDiv p (2 * a.1, 2 * a.2) s
  fxPair p r.1 r.2

/-- Φ(x) for |x| ≤ 15. -/
def phiFx (x : Dy) (p : Nat) : Int × Int :=
  let a := erfSum x 2 p
  let pi := piFx p
  let s := sqrtFx p (2 * pi.1, 2 * pi.2)
  let r := fxDiv p a s
  (fxOne p / 2 + r.1, fxOne p / 2 + r.2 + 1)

/-- 1 / (1 + e^−u) for |u| ≤ 120. -/
def sigFx (u : Dy) (p : Nat) : Int × Int :=
  let e := expApprox u p
  let l := fxDown p e.1
  let h := fxUp p e.2
  (l * fxOne p / (l + fxOne p), h * fxOne p / (h + fxOne p) + 1)

/-- tanh u = 1 − 2 / (e^2u + 1) for |u| ≤ 30. -/
def tanhFx (u : Dy) (p : Nat) : Int × Int :=
  let e := expApprox (u.scale 1) p
  let l := fxDown p e.1
  let h := fxUp p e.2
  (fxOne p - (2 * fxOne p * fxOne p / (l + fxOne p) + 1), fxOne p - 2 * fxOne p * fxOne p / (h + fxOne p))

/-- u times an enclosure of a positive real. -/
def scaleBy (u : Dy) (p : Nat) (x : Int × Int) : Dy × Dy :=
  let a := u.mul ⟨x.1, -(p : Int)⟩
  let b := u.mul ⟨x.2, -(p : Int)⟩
  (a.min b, a.max b)

/-- Just inside v (towards zero): between v and every other value of any format here. -/
def justInside (v : Dy) : Approx := fun _ =>
  let a : Dy := ⟨v.m * (fxOne 48 - 1), v.e - 48⟩
  let b : Dy := ⟨v.m * (fxOne 400 - 1), v.e - 400⟩
  (a.min b, a.max b)

/-- Between zero and every nonzero value of any format here. -/
def justOffZero (neg : Bool) : Approx := fun _ =>
  if neg then (⟨-1, -390⟩, ⟨-1, -400⟩) else (⟨1, -400⟩, ⟨1, -390⟩)

/-- The function by enclosures; far tails lie beyond, or next to, the values of every format here. -/
def Fn.approx (fn : Fn) (u : Dy) : Approx :=
  let big (n : Int) : Bool := (Dy.ofInt n).lt u
  let low (n : Int) : Bool := u.lt (Dy.ofInt n)
  let beyond : Approx := fun _ => (⟨1, 200⟩, ⟨1, 201⟩)
  match fn with
  | .exp => if big 120 then beyond else if low (-120) then justOffZero false else expApprox u
  | .exp2 => if big 200 then beyond else if low (-200) then justOffZero false else exp2Approx u
  | .log => logApprox u
  | .log2 => log2Approx u
  | .tanh =>
    if big 30 then justInside ⟨1, 0⟩ else if low (-30) then justInside ⟨-1, 0⟩
    else fun p => let r := tanhFx u p; fxPair p r.1 r.2
  | .sig =>
    if big 60 then justInside ⟨1, 0⟩ else if low (-120) then justOffZero false
    else fun p => let r := sigFx u p; fxPair p r.1 r.2
  | .erf => if big 6 then justInside ⟨1, 0⟩ else if low (-6) then justInside ⟨-1, 0⟩ else erfApprox u
  | .sin => trigApprox false u
  | .cos => trigApprox true u
  | .gelu =>
    if big 12 then justInside u else if low (-15) then justOffZero true
    else fun p => scaleBy u p (phiFx u p)
  | .silu =>
    if big 60 then justInside u else if low (-140) then justOffZero true
    else fun p => scaleBy u p (sigFx u p)

/-- The points at which the value is exact (R287). -/
def Fn.exact (fn : Fn) (u : Dy) : Option Dy :=
  let zero := u.m = 0
  match fn with
  | .exp => if zero then some ⟨1, 0⟩ else none
  | .exp2 => if (Dy.ofInt u.floor).cmp u = .eq && (Dy.ofInt (-400)).lt u && u.lt (Dy.ofInt 400) then some ⟨1, u.floor⟩ else none
  | .log => if u.cmp ⟨1, 0⟩ = .eq then some Dy.zero else none
  | .log2 => if 0 < u.m && u.m = Int.ofNat (2 ^ u.m.natAbs.log2) then some (Dy.ofInt ((u.m.natAbs.log2 : Int) + u.e)) else none
  | .sig => if zero then some ⟨1, -1⟩ else none
  | .cos => if zero then some ⟨1, 0⟩ else none
  | _ => if zero then some Dy.zero else none

/-- A monotone rounding of f(u). -/
def Fn.round {α : Type} [DecidableEq α] (fn : Fn) (r : Cut → α) (u : Dy) : α :=
  match fn.exact u with
  | some v => r v.cut
  | none => Approx.round r fn.code u (fn.approx u) 6 96

/-! ### Extrema of FGELU and FSILU (R284) -/

/-- The minimum's place lies in [c, c + 2^-200]; likewise its value. -/
def Fn.minAt : Fn → Dy
  | .gelu => ⟨-0xc07568cbf8059eec18b3a735257d3456948c645fa1fbd14b43, -200⟩
  | _ => ⟨-0x1474973c84120b7e35d2f26b055144a50180ba77fb0d0314660, -200⟩

def Fn.minVal : Fn → Dy
  | .gelu => ⟨-0x2b833ba96347f64ae73843e18f5e2f12d1b5e34695f43c77f7, -200⟩
  | _ => ⟨-0x474973c84120b7e35d2f26b055144a50180ba77fb0d0314660, -200⟩

/-! ### Bounds -/

/-- Formats of RF (R283). -/
def rfFmt (rf : Nat) : Fmt :=
  match rf with
  | 1 => .bf16 | 2 => .f16 | 3 => .e5m2 | 4 => .e4m3 | _ => .fp32

/-- Whether f rises on the monotone piece that holds u, and the number of that piece. -/
def Fn.piece (fn : Fn) (u : Dy) : Bool × Int :=
  match fn with
  | .gelu | .silu => if u.le fn.minAt then (false, 0) else (true, 1)
  | .sin => let i := (quadrant u + 1) / 2; (i % 2 = 0, i)
  | .cos => let i := quadrant u / 2; (i % 2 = 1, i)
  | _ => (true, 0)

/-- The value is that of a point of R287 on the piece: a bound that stepped past it would step backwards (R203). -/
def Fn.atExact (fn : Fn) (piece : Int) (t : Pt) : Bool :=
  let d := match t.toXR .fp32 with
    | .fin d => d
    | _ => Dy.zero
  match fn with
  | .exp => t.key = 0x3f800000
  | .exp2 => 0 < d.m && d.m = Int.ofNat (2 ^ d.m.natAbs.log2)
  | .log2 => (Dy.ofInt d.floor).cmp d = .eq
  | .sig => t.key = 0x3f000000
  | .gelu | .silu => piece = 1 && t.key = 0
  | _ => t.key = 0

/-- A lower (`up` false) or upper bound of f at the point u: the tightest one, for FP32 possibly one ulp outside
it (R203), but exact at the points of R287 and never beyond them, beyond 0 for the exponentials, beyond ±1 for sine and
cosine, or from a finite value to an infinity. -/
def Fn.bound (fn : Fn) (rf : Nat) (up : Bool) (key : Int) (u : Dy) : Pt :=
  let f := rfFmt rf
  let t := fn.round (if up then roundUp f else roundDown f) u
  if rf ≠ 0 || (fn.exact u).isSome then t
  else
    let pc := fn.piece u
    let thr := Config.ulpStep fn.code (if up then 1 else 0) pc.2 t.key
    let slack := if pc.1 != up then key < thr else thr < key
    let atEdge := match fn with
      | .sin | .cos => 0x3f800000 ≤ t.key.natAbs
      | .exp | .exp2 => !up && t.key ≤ 0
      | _ => false
    let step := if up then t.next f else t.prev f
    if slack && t.isFin && step.isFin && !atEdge && !fn.atExact pc.2 t then step else t

/-- The limit of f at an infinity, as an extended real (none where there is no limit). -/
def Fn.limit (fn : Fn) (neg : Bool) : Option XR :=
  match fn with
  | .exp | .exp2 => some (if neg then .fin Dy.zero else .pinf)
  | .log | .log2 => if neg then none else some .pinf
  | .tanh | .erf => some (.fin ⟨if neg then -1 else 1, 0⟩)
  | .sig => some (.fin ⟨if neg then 0 else 1, 0⟩)
  | .sin | .cos => none
  | .gelu | .silu => some (if neg then .fin Dy.zero else .pinf)

/-- Bound of f at an end of the operand. -/
def Fn.end' (fn : Fn) (rf : Nat) (up : Bool) (e : Pt) : Pt :=
  match e.toXR .fp32 with
  | .fin u => fn.bound rf up e.key u
  | x =>
    match fn.limit (x = .ninf) with
    | some l => if up then l.up (rfFmt rf) else l.down (rfFmt rf)
    | none => if up then .inf false else .inf true

/-- The bounds over [a, b], for a in the domain or at its edge. -/
def Fn.range (fn : Fn) (rf : Nat) (a b : Pt) : Pt × Pt :=
  let f := rfFmt rf
  match fn with
  | .log | .log2 => (if a.key ≤ 0 then .inf true else fn.end' rf false a, fn.end' rf true b)
  | .gelu | .silu =>
    let left (e : Pt) : Bool := match e.toXR .fp32 with
      | .ninf => true
      | .pinf => false
      | .fin u => u.le fn.minAt
    if left b then (fn.end' rf false b, fn.end' rf true a)
    else if !left a then (fn.end' rf false a, fn.end' rf true b)
    else
      let m := roundDown f fn.minVal.cut
      let m := if rf = 0 && Config.ulpStep fn.code 0 2 m.key < 0 then m.prev f else m
      (m, Pt.max (fn.end' rf true a) (fn.end' rf true b))
  | .sin | .cos =>
    let one := roundDown f (Dy.ofInt 1).cut
    match a.toXR .fp32, b.toXR .fp32 with
    | .fin u, .fin v =>
      let qa := quadrant u; let qb := quadrant v
      -- multiples n of π/2 in (qa, qb] lie in the operand; a peak is n ≡ t mod 4
      let has (t : Int) : Bool := qa < qb && (qb - (qb - t) % 4 > qa)
      let t0 : Int := if fn = .sin then 1 else 0
      let lo := if has (t0 + 2) then one.flip else Pt.min (fn.end' rf false a) (fn.end' rf false b)
      let hi := if has t0 then one else Pt.max (fn.end' rf true a) (fn.end' rf true b)
      (lo, hi)
    | _, _ => (one.flip, one)
  | _ => (fn.end' rf false a, fn.end' rf true b)

/-- R285 on an interval operand; the bounds are held in FP32. -/
def Fn.iv (fn : Fn) (rf : Nat) (x : Iv) : Iv :=
  Iv.lift1 x fun a b ds =>
    let isLog := fn = .log || fn = .log2
    if isLog && b.key ≤ 0 then .empty
    else
      let r := fn.range rf a b
      let f := rfFmt rf
      Iv.result ds (isLog && a.key ≤ 0) (a.isFin && b.isFin) (r.1.convert f .fp32) (r.2.convert f .fp32)

/-- R285 with `.pt`: a point of the result format. At an infinity it is the limit, NaN where there is none or
the point is outside the domain (log 13); a zero operand keeps its sign under the odd functions. -/
def Fn.pt (fn : Fn) (rf : Nat) (p : Pt) : Pt :=
  let f := rfFmt rf
  match p with
  | .nan => .nan
  | .inf neg =>
    match fn.limit neg with
    | none => .nan
    | some .ninf => .inf true
    | some .pinf => .inf false
    | some (.fin d) => if d.m = 0 then .fin (neg && (fn = .gelu || fn = .silu)) 0 else roundNear f d.cut
  | .fin neg c =>
    let u := if neg then (Fmt.fp32.mag c).neg else Fmt.fp32.mag c
    if (fn = .log || fn = .log2) && u.m ≤ 0 then .nan
    else
      match fn.exact u with
      | some v => if v.m = 0 && u.m = 0 then .fin neg 0 else roundNear f v.cut
      | none =>
        if rf = 0 then
          let d := fn.round (roundDown f) u
          let h := fn.round (roundUp f) u
          if !h.isFin then h else if !d.isFin then d
          else if Config.pointUp fn.code p.key then h else d
        else fn.round (roundNear f) u

end Sys2Proof.Machine
end

