-- ==== Sys2Proof/Machine/Operands.lean ====
section
/-! DEFINITION. Operand forms: what each selector gives as a source and how a result is written (R219, R222 to
R227), the declarations check (R182), the full/empty checks (R177, R178), and the frame in which an instruction
executes. -/

namespace Sys2Proof.Machine

/-- What an executing instruction sees. -/
structure Cx where
  s : State
  k : WarpKey
  w : Warp
  op : Op
  x : Ext
  nS : Nat
  m : Mask                    -- the taking-part threads

/-- Length in bytes of an instruction in this form (R215). -/
def extLen (x : Ext) : Nat := if x.lit.isSome then 20 else 12

/-- The literal, zero where there is none. -/
def Cx.lit (c : Cx) : DWord := c.x.lit.getD 0

/-- A 32-bit integer source. -/
def Cx.i32 (c : Cx) (lane : Nat) : Sel → Word
  | .reg n => c.w.r.getV n.toNat lane
  | .s n => c.w.r.getS c.nS n.val
  | .sr r => c.s.readSReg c.k c.w lane r
  | .imm n => n.signExtend 32
  | .lit => loWord c.lit
  | _ => 0

/-- A 64-bit integer source (R223, R224); a special register is its 32 bits, zero-extended (log 14). -/
def Cx.i64 (c : Cx) (lane : Nat) : Sel → DWord
  | .reg n => pair (c.w.r.getV n.toNat lane) (c.w.r.getV (n.toNat + 1) lane)
  | .s n => pair (c.w.r.getS c.nS n.val) (c.w.r.getS c.nS (n.val + 1))
  | .sr r => (c.s.readSReg c.k c.w lane r).zeroExtend 64
  | .imm n => n.signExtend 64
  | .lit => c.lit
  | _ => 0

/-- An integer source of one or two words, zero-extended to 64 bits. -/
def Cx.int (c : Cx) (n lane : Nat) (x : Sel) : DWord := if n = 2 then c.i64 lane x else (c.i32 lane x).zeroExtend 64

/-! ### Interval constants (R225) -/

/-- Value and exponent of the thin constants 0x380 to 0x390. -/
def thinConst (i : Nat) : Dy :=
  match i with
  | 0 => ⟨0, 0⟩ | 1 => ⟨1, -2⟩ | 2 => ⟨1, -1⟩ | 3 => ⟨1, 0⟩ | 4 => ⟨3, -1⟩ | 5 => ⟨2, 0⟩ | 6 => ⟨3, 0⟩ | 7 => ⟨4, 0⟩ | 8 => ⟨5, 0⟩
  | 9 => ⟨6, 0⟩ | 10 => ⟨8, 0⟩ | 11 => ⟨10, 0⟩ | 12 => ⟨16, 0⟩ | 13 => ⟨32, 0⟩ | 14 => ⟨64, 0⟩ | 15 => ⟨128, 0⟩ | _ => ⟨-1, 120⟩

/-- Real constants 0x3a0 to 0x3af as floor of the value times 2 to the 160: π, π/2, 2π, 1/π, e, ln 2, log₂ e, ln 10,
log₂ 10, √2, 1/√2, √(2/π), then 1/3, 0.1, 0.01 (exact ratios elsewhere), 1/√(2π). -/
def realConst (i : Nat) : Int :=
  match i with
  | 0 => 0x3243f6a8885a308d313198a2e03707344a4093822 | 1 => 0x1921fb54442d18469898cc51701b839a252049c11
  | 2 => 0x6487ed5110b4611a62633145c06e0e68948127044 | 3 => 0x517cc1b727220a94fe13abe8fa9a6ee06db14acc
  | 4 => 0x2b7e151628aed2a6abf7158809cf4f3c762e7160f | 5 => 0xb17217f7d1cf79abc9e3b39803f2f6af40f34326
  | 6 => 0x171547652b82fe1777d0ffda0d23a7d11d6aef551 | 7 => 0x24d763776aaa2b05ba95b58ae0b4c28a38a3fb3e7
  | 8 => 0x35269e12f346e2bf924afdbfd36bf6d3365b157f8 | 9 => 0x16a09e667f3bcc908b2fb1366ea957d3e3adec175
  | 10 => 0xb504f333f9de6484597d89b3754abe9f1d6f60ba | 11 => 0xcc42299ea1b284687e59e2805d5c717fa7053e60
  | _ => 0x662114cf50d942343f2cf1402eae38bfd3829f30

/-- An interval constant in a format. -/
def constIv (f : Fmt) (i : Nat) : Iv :=
  let thin (d : Dy) : Iv := .mk (roundDown f d.cut).posZero (roundUp f d.cut).posZero Dec.com
  let ratio (q : Int) : Iv := .mk (roundDown f (cutRatio ⟨1, 0⟩ ⟨q, 0⟩)) (roundUp f (cutRatio ⟨1, 0⟩ ⟨q, 0⟩)) Dec.com
  let box (lo hi : Int) (e : Int) : Iv := .mk (roundDown f (Dy.mk lo e).cut).posZero (roundUp f (Dy.mk hi e).cut).posZero Dec.com
  let top : Pt := .fin false f.top
  if i ≤ 16 then thin (thinConst i)
  else if i < 32 then thin (thinConst (i - 16)).neg
  else if i = 44 then ratio 3
  else if i = 45 then ratio 10
  else if i = 46 then ratio 100
  else if i < 48 then .mk (roundDown f (Dy.mk (realConst (i - 32)) (-160)).cut) (roundUp f (Dy.mk (realConst (i - 32)) (-160)).cut) Dec.com
  else match i with
  | 48 => .empty
  | 49 => .mk (.inf true) (.inf false) Dec.dfn
  | 50 => .mk Pt.zero (.inf false) Dec.dfn
  | 51 => .mk (.inf true) Pt.zero Dec.dfn
  | 52 => box 0 1 0
  | 53 => box (-1) 1 0
  | 54 => box (-1) 1 (-1)
  | 55 => box (-1) 0 0
  | 56 => thin ⟨1, -126⟩
  | 57 => .mk top top Dec.com
  | 58 => .mk top.flip top.flip Dec.com
  | 59 => thin ⟨127, 0⟩
  | 60 => thin ⟨255, 0⟩
  | 61 => thin ⟨448, 0⟩
  | 62 => ratio 255
  | _ => .nai

/-! ### Floating sources -/

/-- A register as bounds of FP32. -/
def FReg.raw (x : FReg) : Raw := ⟨(loWord x.bits).toNat, (hiWord x.bits).toNat, x.dec⟩
def FReg.ofRaw (r : Raw) : FReg := ⟨pair (BitVec.ofNat 32 r.lo) (BitVec.ofNat 32 r.hi), r.dec⟩

/-- The pair of registers n, n + 1 as bounds of FP64 (R171). -/
def Regs.rawPair (r : Regs) (n lane : Nat) : Raw :=
  ⟨(r.getF n lane).bits.toNat, (r.getF (n + 1) lane).bits.toNat, (r.getF n lane).dec⟩

/-- A floating source as a stored pair of FP32 bounds. -/
def Cx.flt (c : Cx) (lane : Nat) : Sel → Raw
  | .reg n => (c.w.r.getF n.toNat lane).raw
  | .const i => (constIv .fp32 i.toNat).write .fp32
  | _ => (Iv.load .fp32 (loWord c.lit).toNat (hiWord c.lit).toNat).write .fp32

/-- An FP64 pair source; the literal is one FP64 point (R226). -/
def Cx.dbl (c : Cx) (lane : Nat) : Sel → Raw
  | .reg n => c.w.r.rawPair n.toNat lane
  | .const i => (constIv .fp64 i.toNat).write .fp64
  | _ => (Iv.ofPoint .fp64 .fp64 c.lit.toNat).write .fp64

/-- Read as an interval, with FZI (R194, R207). -/
def Cx.iv (c : Cx) (lane : Nat) (x : Sel) : Iv := ((c.flt lane x).read .fp32).flush .fp32 c.x.fzi
def Cx.div (c : Cx) (lane : Nat) (x : Sel) : Iv := ((c.dbl lane x).read .fp64).flush .fp64 c.x.fzi

/-- Read in point mode, with FZI (R207): the lower bound of the interval that R194 reads (R263, R280, R285, R288; log 31). -/
def ptFlush (f : Fmt) (on : Bool) (p : Pt) : Pt := if on then p.flushPt f else p
def Cx.pt (c : Cx) (lane : Nat) (x : Sel) : Pt := ptFlush .fp32 c.x.fzi ((c.flt lane x).lower .fp32)
def Cx.dpt (c : Cx) (lane : Nat) (x : Sel) : Pt := ptFlush .fp64 c.x.fzi ((c.dbl lane x).lower .fp64)

/-- The lower bound as it stands (R206, R278, R282). -/
def Cx.ptRaw (c : Cx) (lane : Nat) (x : Sel) : Pt := ptFlush .fp32 c.x.fzi ((c.flt lane x).point .fp32)
def Cx.dptRaw (c : Cx) (lane : Nat) (x : Sel) : Pt := ptFlush .fp64 c.x.fzi ((c.dbl lane x).point .fp64)

/-- A predicate source. -/
def Cx.pred (c : Cx) (lane : Nat) : Sel → Tri
  | .p n => c.w.r.getP n.toNat lane
  | _ => Tri.ff

/-! ### Destinations -/

/-- Write a one- or two-word integer result. -/
def Cx.putInt (c : Cx) (n lane : Nat) (d : Sel) (v : DWord) (r : Regs) : Regs :=
  match d with
  | .reg k =>
    let r := r.setV k.toNat lane (loWord v)
    if n = 2 then r.setV (k.toNat + 1) lane (hiWord v) else r
  | .s k =>
    let r := r.setS c.nS k.val (loWord v)
    if n = 2 then r.setS c.nS (k.val + 1) (hiWord v) else r
  | _ => r

def putF (lane : Nat) (d : Sel) (v : Raw) (r : Regs) : Regs :=
  match d with
  | .reg k => r.setF k.toNat lane (FReg.ofRaw v)
  | _ => r

/-- Both halves of an FP64 result take the decoration (R171). -/
def putD (lane : Nat) (d : Sel) (v : Raw) (r : Regs) : Regs :=
  match d with
  | .reg k => (r.setF k.toNat lane ⟨BitVec.ofNat 64 v.lo, v.dec⟩).setF (k.toNat + 1) lane ⟨BitVec.ofNat 64 v.hi, v.dec⟩
  | _ => r

def putP (lane : Nat) (d : Sel) (v : Tri) (r : Regs) : Regs :=
  match d with
  | .p k => r.setP k.toNat lane v
  | _ => r

def putE (lane : Nat) (e : Sel2) (v : Tri) (r : Regs) : Regs :=
  match e with
  | .p k => r.setP k.toNat lane v
  | _ => r

/-- An interval result, flushed and written canonically (R193, R207). -/
def Cx.putIv (c : Cx) (lane : Nat) (v : Iv) (r : Regs) : Regs := putF lane c.x.d ((v.flush .fp32 c.x.fzo).write .fp32) r
def Cx.putPt (c : Cx) (lane : Nat) (p : Pt) (r : Regs) : Regs := putF lane c.x.d ((ptFlush .fp32 c.x.fzo p).writePt .fp32) r

/-- A 32-bit word to every taking-part thread, or once to an S register (the lowest taking-part thread's value). -/
def Cx.putVS (c : Cx) (n : Nat) (f : Nat → DWord) (r : Regs) : Regs :=
  match c.x.d with
  | .s _ => match lanesOf c.m with
    | [] => r
    | l :: _ => c.putInt n l c.x.d (f l) r
  | d => (lanesOf c.m).foldl (fun r l => c.putInt n l d (f l) r) r

/-! ### The checks before an instruction (R182, R177, R178) -/

/-- A V, F or S register is within the header's counts (R168, R182). -/
def declared (h : Header) (tmode : Bool) (p : File × Nat) : Bool :=
  match p.1 with
  | .v => p.2 < h.nV
  | .f => p.2 < h.nF
  | .s => p.2 + 8 < h.nS || (tmode && 376 ≤ p.2 && p.2 < 384)
  | .p => true

/-- Barrier registers named (R182). -/
def barsOf (x : Ext) : List Nat :=
  match x.a with
  | .b n => [n.toNat]
  | _ => []

/-- Registers an instruction reads: position (1 A, 2 B, 3 C, 0 none) and register. -/
def readsOf (op : Op) (x : Ext) : List (Nat × File × Nat) :=
  let g := sig op x
  (if aIsDest op then [] else (g.a.regs x.a).map (fun p => (1, p))) ++ (g.b.regs x.b).map (fun p => (2, p)) ++
    (g.c.regs x.c).map (fun p => (3, p)) ++ (if g.dRead then (g.d.regs x.d).map (fun p => (0, p)) else []) ++
    g.reads.map (fun p => (0, p))

/-- Registers an instruction writes. -/
def writesOf (op : Op) (x : Ext) : List (File × Nat) :=
  let g := sig op x
  g.d.regs x.d ++ g.e.regs x.e ++ g.writes ++ (if aIsDest op then g.a.regs x.a else [])

/-- Every register named is declared. -/
def declaredAll (h : Header) (tmode : Bool) (op : Op) (x : Ext) : Bool :=
  ((readsOf op x).all fun p => declared h tmode p.2) && ((writesOf op x).all fun p => declared h tmode p) &&
    (barsOf x).all fun n => n < h.nB

/-- Every register of a range of an image is declared (R182, R472): kind 0 V, 1 F, 2 S. -/
def rangeOk (h : Header) (tmode : Bool) (kind first count : Nat) : Bool :=
  let file : File := match kind with | 0 => .v | 1 => .f | _ => .s
  2 < kind || (count ≤ 512 && (List.range count).all fun i => declared h tmode (file, first + i))

/-- The operand fields that name registers: D of HJOIN is 0 where the recruitment has no reduction, and names nothing
(R182, R453). -/
def Warp.named (w : Warp) (op : Op) (x : Ext) : Ext :=
  if op = .hjoin && w.r.recr.state ≠ 0 && w.r.recr.rop = 0 && x.d = .reg 0 then { x with d := .absent } else x

/-- The range of CSAVE or CLOAD is declared, as far as its operands can be read (R182, R472). -/
def State.rangeNamed (s : State) (k : WarpKey) (w : Warp) (op : Op) (x : Ext) : Bool :=
  let m := w.r.takes x
  let kind := x.m 0 3
  let c : Cx := ⟨s, k, w, op, x, (s.header k).nS, m⟩
  let known (p : Nat × File × Nat) : Bool := (p.1 ≠ 2 && p.1 ≠ 3) || !w.emptyIn m p.2
  op ∉ [Op.csave, .cload] || !w.r.tmode || w.sprout.isSome || m = 0 || 2 < kind || !(readsOf op x).all known ||
    rangeOk (s.header k) true kind (c.i32 (lowest m) x.b).toNat (c.i32 (lowest m) x.c).toNat

/-- Every register that the instruction names is declared (R182). -/
def State.namesOk (s : State) (k : WarpKey) (w : Warp) (op : Op) (x : Ext) : Bool :=
  declaredAll (s.header k) w.r.tmode op (w.named op x) && s.rangeNamed k w op x

/-- T bit of a position. -/
def tBit (x : Ext) (pos : Nat) : Bool := if pos = 1 then x.tA else if pos = 2 then x.tB else if pos = 3 then x.tC else false

/-- Selector code of a register, for the FE detail (R455, R460). -/
def selOf (p : File × Nat) : Nat :=
  match p.1 with
  | .v | .f => p.2
  | .s => 0x100 + p.2
  | .p => 0x280 + p.2

/-- What the full/empty step of decode finds (R177, R178), and an uncorrectable source (R458). -/
inductive Ready where
  | go
  | wait
  | fe (pos : Nat) (p : File × Nat) (lane : Nat)
  | ecc (lane : Nat)
deriving DecidableEq, Repr

/-- Lowest thread of the mask in which the register is empty. -/
def Warp.emptyLane (w : Warp) (m : Mask) (p : File × Nat) : Nat :=
  if p.1 = .s then lowest m
  else ((lanesOf m).find? fun l => w.isEmpty p.1 p.2 l).getD 0

/-- The threads that read a register: those that take part; CPY, CPYG and CPYA arrive, and read their S registers, even
with none (R365). -/
def readersOf (w : Warp) (m : Mask) (op : Op) (fl : File) : Mask :=
  if fl = .s && op ∈ [Op.cpy, .cpyg, .cpya] then w.r.mask else m

/-- What the full/empty step finds (R177, R178). -/
def fullness (w : Warp) (m : Mask) (op : Op) (x : Ext) : Ready :=
  if w.outs.isEmpty then .go
  else
    let rs := readsOf op x
    let empty (p : File × Nat) : Bool := w.emptyIn (readersOf w m op p.1) p
    if w.emptyIn w.r.mask (.p, x.g.toNat) then .wait
    else
      match rs.find? fun p => tBit x p.1 && empty p.2 with
      | some p => .fe p.1 p.2 (w.emptyLane (readersOf w m op p.2.1) p.2)
      | none =>
        if (rs.any fun p => empty p.2) || ((writesOf op x).any fun p => w.emptyIn m p) then .wait else .go

/-- The threads of the mask that read poison in a V, F or S register (R458, R491). -/
def Regs.badIn (r : Regs) (nS : Nat) (m : Mask) (p : File × Nat) : Mask :=
  if p.1 = .s then (if r.bad.contains ⟨.s, sWord nS p.2, 0⟩ then m else 0)
  else maskOf ((lanesOf m).filter fun l => r.bad.contains ⟨p.1, p.2, l⟩)

/-- The lowest thread of the mask that reads poison in one of the registers. -/
def Regs.badLane (r : Regs) (nS : Nat) (ps : List (Mask × File × Nat)) : Option Nat :=
  if r.bad = [] then none
  else
    let m := ps.foldl (fun a p => a ||| r.badIn nS p.1 p.2) 0
    if m = 0 then none else some (lowest m)

/-- What stands between decode and an instruction's effect: its registers are waited for, and then its sources are read. -/
def readiness (nS : Nat) (w : Warp) (m : Mask) (op : Op) (x : Ext) : Ready :=
  match fullness w m op x with
  | .go => (match w.r.badLane nS ((readsOf op x).map fun p => (readersOf w m op p.2.1, p.2)) with
    | some l => .ecc l
    | none => .go)
  | r => r

/-- A matrix instruction that an operand stopped holds a register the instruction names (R316). -/
def Warp.stopFor (w : Warp) (op : Op) (x : Ext) : Option Stop :=
  let names (d : Dest) : Bool := ((readsOf op x).any fun p => p.2.1 = d.file && p.2.2 = d.reg) || (writesOf op x).any fun p => p.1 = d.file && p.2 = d.reg
  w.outs.findSome? fun o => if o.stop.isSome && o.dests.any names then o.stop else none

/-! ### The frame of an instruction -/

/-- The executing warp. -/
def State.running (s : State) : Option (WarpKey × Warp) :=
  match s.cur with
  | none => none
  | some k => (s.warp? k).map fun w => (k, w)

/-- Execute `body` on the executing warp once the checks of R236, R182, R177 and R458 pass: ILLEGAL, ALLOC, FE and ECC of a
register trap precisely, in that order, and a register not yet full leaves the warp waiting at the instruction. -/
def frame (op : Op) (x : Ext) (s : State) (body : Cx → Res) : Res :=
  match s.running with
  | none => .fault .noWarp
  | some (k, w) =>
    let h := s.header k
    if x.check op ≠ none then s.precise k w cIllegal 0 0 wholeWarp 0
    else if !s.namesOk k w op x then s.precise k w cAlloc 0 0 wholeWarp 0
    else
      let m := w.r.takes x
      match readiness h.nS w m op (w.named op x) with
      | .wait => (match w.stopFor op x with
          | some st => s.precise k w st.cause st.detail 0 wholeWarp st.addr
          | none => .next (s.setWarp k { w with active := false }))
      | .fe pos p lane => s.precise k w cFe (selOf p % 256) (selOf p / 256 % 4 + pos * 16) lane 0
      | .ecc lane => s.precise k w cEcc 0 0 lane 0
      | .go => body ⟨s, k, w, op, x, h.nS, m⟩

/-- The tags of the registers an instruction writes, once it has written them (R172). -/
def Regs.written (r : Regs) (m : Mask) (op : Op) (x : Ext) : Regs := r.tagged m ((sig op x).d = .f 2 2) (writesOf op x)

/-- The next state with new registers and the program counter moved past the instruction. -/
def Cx.done (c : Cx) (len : Nat) (r : Regs) : Res := c.s.done c.k c.w (r.written c.m c.op c.x) len

/-- A precise trap in the first thread of the list for which `p` holds. -/
def Cx.trapIn (c : Cx) (cause detail lane : Nat) (addr : DWord) : Res := c.s.precise c.k c.w cause detail 0 lane addr

/-- Apply `f` in each taking-part thread, ascending, over the registers as they were for sources. -/
def Cx.each (c : Cx) (f : Nat → Regs → Regs) : Regs := (lanesOf c.m).foldl (fun r l => f l r) c.w.r

/-- A per-thread instruction without further checks. -/
def perThread (op : Op) (x : Ext) (len : Nat) (s : State) (f : Cx → Nat → Regs → Regs) : Res :=
  frame op x s fun c => c.done len (c.each (f c))

end Sys2Proof.Machine
end

