-- ==== Sys2Proof/Machine/Matmul.lean ====
section
/-! DEFINITION. What a matrix instruction computes: elements and scales, the exact sum of each accumulator, and the
one rounding with which it is added (R189 to R192, R298, R301, R303, R305 to R309). -/

namespace Sys2Proof.Machine

/-! ### Elements (R189, R192, R303) -/

/-- An element or scale: a NaN code, an infinity, a floating value with its sign, or an integer, whose zero has none. -/
inductive MEl where
  | nan
  | inf
  | num (neg : Bool) (d : Dy)
  | int (d : Dy)
deriving DecidableEq, Repr

def Pt.toMEl (f : Fmt) : Pt → MEl
  | .nan => .nan
  | .inf _ => .inf
  | .fin neg c => .num neg (if neg then (f.mag c).neg else f.mag c)

def MEl.ofInt (n : Int) : MEl := .int (Dy.ofInt n)

/-- Bits of an element of format code f. -/
def matBits (f : Nat) : Nat := match f with | 0 | 1 | 3 => 8 | 2 | 4 => 4 | _ => 16

/-- Elements along K of a slice (R298). -/
def matK (f : Nat) : Nat := 512 / matBits f

/-- The value of an element code; integers are signed when `sgn` is set. -/
def matElem (f : Nat) (sgn : Bool) (code : Nat) : MEl :=
  let int (w : Nat) : MEl := .ofInt (if sgn && 2 ^ (w - 1) ≤ code then (code : Int) - (2 ^ w : Nat) else code)
  match f with
  | 0 => (Fmt.e4m3.decode code).toMEl .e4m3
  | 1 => (Fmt.e5m2.decode code).toMEl .e5m2
  | 2 => (Fmt.e2m1.decode code).toMEl .e2m1
  | 3 => int 8
  | 4 => int 4
  | 5 => (Fmt.bf16.decode code).toMEl .bf16
  | _ => (Fmt.f16.decode code).toMEl .f16

/-- Element k of a slice (R184). -/
def sliceElem (f : Nat) (sgn : Bool) (slice k : Nat) : MEl := matElem f sgn (slice / 2 ^ (matBits f * k) % 2 ^ matBits f)

/-- Block scale of element k: BF16, or none (R191). -/
def blockScale (sc : Bool) (recs k : Nat) : List MEl :=
  if sc then [(Fmt.bf16.decode (recs / 2 ^ (16 * (k / 32)) % 2 ^ 16)).toMEl .bf16] else []

/-! ### Exact sums (R192, R195) -/

/-- An exact sum: NaI, the entire line, empty, or real bounds with whether every product is −0. -/
inductive MSum where
  | nai
  | all
  | empty
  | val (lo hi : Dy) (negZero : Bool)
deriving DecidableEq, Repr

def MEl.value : MEl → Dy
  | .num _ d => d
  | .int d => d
  | _ => Dy.zero

def MEl.isNeg : MEl → Bool
  | .num n _ => n
  | .int d => d.m < 0
  | _ => false

def MEl.intZero : MEl → Bool
  | .int d => d.m = 0
  | _ => false

def MEl.times (es : List MEl) : Dy := es.foldl (fun d e => d.mul e.value) ⟨1, 0⟩

/-- The product is −0; one with an integer zero is not (R195). -/
def MEl.negZero (es : List MEl) : Bool :=
  es.any (fun e => e.value.m = 0) && !es.any MEl.intZero && es.foldl (fun n e => n != e.isNeg) false

/-- The sum of products. -/
def exactSum (terms : List (List MEl)) : MSum :=
  let els := terms.flatten
  if els.contains .nan then .nai
  else if els.contains .inf then .all
  else
    let v := terms.foldl (fun d t => d.add (MEl.times t)) Dy.zero
    .val v v (terms.all MEl.negZero)

/-- R306: one accumulator. -/
def accumulate (z pt fzi fzo : Bool) (old : Raw) (s : MSum) : Raw :=
  let p : Pt := if z then .fin false 0 else ptFlush .fp32 fzi (old.point .fp32)
  let c : Iv := if z then Iv.zero else (old.read .fp32).flush .fp32 fzi
  let nai : Bool := if pt then p = .nan else c.isNai
  let out (x : Iv) : Raw := (x.flush .fp32 fzo).write .fp32
  match s with
  | .nai => out .nai
  | .all => out (if nai then .nai else .mk (.inf true) (.inf false) Dec.trv)
  | .empty => out (if nai then .nai else .empty)
  | .val lo hi nz =>
    if pt then
      (ptFlush .fp32 fzo (match p with
        | .fin neg k => (match (Pt.fin neg k).toXR .fp32 with
            | .fin x => nearZ .fp32 (nz && neg && k = 0) (x.add lo)
            | _ => .nan)
        | x => x)).writePt .fp32
    else out (match c with
      | .mk a b d =>
        let l := ((a.toXR .fp32).add (.fin lo)).down .fp32
        let h := ((b.toXR .fp32).add (.fin hi)).up .fp32
        .mk l.posZero h.posZero (Dec.min d (if l.isFin && h.isFin then Dec.com else Dec.dfn))
      | x => x)

/-! ### The operation (R303) -/

/-- A matrix instruction as its resume record holds it (R318). -/
structure MatJob where
  aq : BitVec 128
  bq : BitVec 128
  mask : Mask
  op : Nat
  dreg : Nat
  mod : Nat
  imm : Nat
  next : Nat
  cause : Nat
  fz : Nat
deriving DecidableEq, Repr

def MatJob.bits (j : MatJob) : BitVec 512 :=
  BitVec.ofNat 512 (j.aq.toNat + j.bq.toNat * 2 ^ 128 + j.mask.toNat * 2 ^ 256 + j.op * 2 ^ 384 + j.dreg * 2 ^ 392 + j.mod * 2 ^ 400 + j.imm * 2 ^ 416 +
    j.next * 2 ^ 424 + j.cause * 2 ^ 432 + j.fz * 2 ^ 440)

def MatJob.ofBits (x : BitVec 512) : MatJob :=
  let f (lo w : Nat) : Nat := x.toNat / 2 ^ lo % 2 ^ w
  ⟨x.extractLsb' 0 128, x.extractLsb' 128 128, x.extractLsb' 256 128, f 384 8, f 392 8, f 400 16, f 416 8, f 424 8, f 432 8, f 440 8⟩

def MatJob.bit (j : MatJob) (n : Nat) : Bool := j.mod / 2 ^ n % 2 = 1
def MatJob.z (j : MatJob) : Bool := j.bit 11
def MatJob.pt (j : MatJob) : Bool := j.op ≠ 0xc2 && j.bit 10
def MatJob.fzi (j : MatJob) : Bool := j.fz % 2 = 1
def MatJob.fzo (j : MatJob) : Bool := j.fz / 2 % 2 = 1
def MatJob.usesA (j : MatJob) : Bool := j.op ≠ 0xc3 && j.op ≠ 0xc4
def MatJob.usesB (j : MatJob) : Bool := j.op ≠ 0xc5

/-- Format code and signedness of A's and of B's elements. -/
def MatJob.fa (j : MatJob) : Nat := if j.op = 0xc1 then 3 else j.mod % 16
def MatJob.sa (j : MatJob) : Bool := if j.op = 0xc1 then j.bit 1 else j.bit 8
def MatJob.fb (j : MatJob) : Nat := if j.op = 0xc1 then (if j.bit 0 then 3 else 4) else j.mod / 16 % 16
def MatJob.sb (j : MatJob) : Bool := j.op ≠ 0xc1 && j.bit 9

/-- K of the tile (R298). -/
def MatJob.k (j : MatJob) : Nat :=
  match j.op with
  | 0xc1 => 64
  | 0xc2 => if j.bit 0 then 16 else 32
  | 0xc3 | 0xc4 => matK j.fb
  | _ => matK j.fa

/-- Accumulators of a lane. -/
def MatJob.accs (j : MatJob) : Nat := if j.op = 0xc5 then 1 else 16

/-- Groups of an MMAQ slice, as the first element of each (R307). -/
def MatJob.groups (j : MatJob) : List (Nat × Nat) := if j.mod / 4 % 4 = 0 then [(0, 32), (32, 32)] else [(0, 64)]

/-- Bytes of a slice of A or of B (R298). -/
def MatJob.bytes (j : MatJob) (b : Bool) : Nat := if j.op = 0xc2 then 128 else if j.op = 0xc1 && b && j.fb = 4 then 32 else 64

/-- Fields of a descriptor (R299, R300). -/
def dBase (q : BitVec 128) : DWord := q.extractLsb' 0 64
def dStride (q : BitVec 128) : DWord := (q.extractLsb' 64 32).signExtend 64
def dScoff (q : BitVec 128) : DWord := (q.extractLsb' 112 16).signExtend 64
def dKoff (q : BitVec 128) : Bool := q.getLsbD 104
def dSc (q : BitVec 128) : Bool := q.getLsbD 99
def dSpace (q : BitVec 128) : Nat := (q.extractLsb' 96 2).toNat

def MatJob.q (j : MatJob) (b : Bool) : BitVec 128 := if b then j.bq else j.aq

/-- Bytes of the scale or group records of a row or column (R301). -/
def MatJob.recBytes (j : MatJob) (b : Bool) : Nat :=
  if j.op = 0xc1 then (if b then 4 * j.groups.length else 0)
  else if dSc (j.q b) then 2 * (j.k / 32) else 0

/-- Address in the descriptor's space: 32 bits in a scratch space. -/
def dAddr (q : BitVec 128) (a : DWord) : Nat := if dSpace q = 0 then a.toNat else a.toNat % 2 ^ 32

/-- The slice of row or column i, and its records: address and size (R301). -/
def MatJob.places (j : MatJob) (b : Bool) (i : Nat) : List (Nat × Nat) :=
  let q := j.q b
  let a := dBase q + BitVec.ofNat 64 i * dStride q
  (dAddr q a, j.bytes b) :: (if j.recBytes b = 0 then [] else [(dAddr q (a + dScoff q), j.recBytes b)])

/-! ### The sums (R305, R307 to R309) -/

/-- Bytes of the operands: slice and records of each row and column. -/
structure MatData where
  a : Nat → Nat × Nat
  b : Nat → Nat × Nat

def MatJob.term (j : MatJob) (d : MatData) (l c k : Nat) : List MEl :=
  blockScale (dSc j.aq) (d.a l).2 k ++ [sliceElem j.fa j.sa (d.a l).1 k, sliceElem j.fb j.sb (d.b c).1 k] ++ blockScale (dSc j.bq) (d.b c).2 k

/-- One group of MMAQ: its scale, and the integer it multiplies. -/
def MatJob.quant (j : MatJob) (d : MatData) (l c g first n : Nat) : List MEl :=
  let r := (d.b c).2 / 2 ^ (32 * g)
  let z : Nat := r / 2 ^ 16 % 2 ^ (if j.fb = 4 then 4 else 8)
  let at' (f : Nat) (sgn : Bool) (v k : Nat) : Int := (sliceElem f sgn v k).value.m
  let sum := (List.range n).foldl (fun (t : Int) i => t + (at' j.fb false (d.b c).1 (first + i) - z) * at' 3 j.sa (d.a l).1 (first + i)) 0
  [(Fmt.f16.decode (r % 2 ^ 16)).toMEl .f16, .ofInt sum]

/-- An MMAI element: special, or midpoint and radius (R308). -/
inductive MidEl where
  | nai
  | empty
  | all
  | mid (m r : Dy)
deriving DecidableEq, Repr

def midElem (iv : Bool) (v : Nat) : MidEl :=
  if iv then
    match Iv.load .fp32 (v % 2 ^ 32) (v / 2 ^ 32 % 2 ^ 32) with
    | .nai => .nai
    | .empty => .empty
    | .mk lo hi _ => match lo.toXR .fp32, hi.toXR .fp32 with
      | .fin x, .fin y => .mid ((x.add y).scale (-1)) ((y.sub x).scale (-1))
      | _, _ => .all
  else
    let rad := v / 2 ^ 16 % 2 ^ 16
    let p := Fmt.bf16.decode (v % 2 ^ 16)
    if p = .nan || 0xfc01 < rad then .nai
    else if rad = 0xfc01 then .empty
    else if rad = 0xfc00 then .all
    else match p.toXR .bf16 with
      | .fin m => .mid m (rad16Value rad)
      | _ => .nai

def MidEl.m : MidEl → Dy
  | .mid m _ => m
  | _ => Dy.zero
def MidEl.r : MidEl → Dy
  | .mid _ r => r
  | _ => Dy.zero

def MatJob.midSum (j : MatJob) (d : MatData) (l c : Nat) : MSum :=
  let w := if j.bit 0 then 64 else 32
  let els (v : Nat) : List MidEl := (List.range j.k).map fun k => midElem (j.bit 0) (v / 2 ^ (w * k) % 2 ^ w)
  let xs := els (d.a l).1
  let ys := els (d.b c).1
  if (xs ++ ys).contains .nai then .nai
  else if (xs ++ ys).contains .empty then .empty
  else if (xs ++ ys).contains .all then .all
  else
    let ps := xs.zip ys
    let m := ps.foldl (fun (t : Dy) p => t.add (p.1.m.mul p.2.m)) Dy.zero
    let r := ps.foldl (fun (t : Dy) p => t.add ((p.1.m.abs.mul p.2.r).add (p.1.r.mul (p.2.m.abs.add p.2.r)))) Dy.zero
    .val (m.sub r) (m.add r) false

/-- PAT's index function (R309). -/
def permIndex (pat width l p : Nat) : Nat :=
  match pat with
  | 0 => (l + p) % width
  | 1 => l ^^^ p
  | 2 => p
  | _ => width - 1 - l

/-- S(l, c). -/
def MatJob.sum (j : MatJob) (d : MatData) (width l c : Nat) : MSum :=
  let col (k : Nat) : MSum :=
    if k < j.k then exactSum [sliceElem j.fb j.sb (d.b c).1 k :: blockScale (dSc j.bq) (d.b c).2 k] else exactSum []
  match j.op with
  | 0xc0 => exactSum ((List.range j.k).map (j.term d l c))
  | 0xc1 => exactSum (j.groups.zipIdx.map fun g => j.quant d l c g.2 g.1.1 g.1.2)
  | 0xc2 => j.midSum d l c
  | 0xc3 => if l < j.imm then exactSum [] else col (l - j.imm)
  | 0xc4 => col (permIndex (j.mod / 2 ^ 12 % 4) width l j.imm)
  | _ => exactSum ((List.range j.k).map fun k => sliceElem j.fa j.sa (d.a l).1 k :: blockScale (dSc j.aq) (d.a l).2 k)

/-- The accumulators of one lane after the instruction. -/
def MatJob.lane (j : MatJob) (d : MatData) (width l : Nat) (r : Regs) : Regs :=
  (List.range j.accs).foldl (fun r c =>
    r.setF (j.dreg + c) l (FReg.ofRaw (accumulate j.z j.pt j.fzi j.fzo (r.getF (j.dreg + c) l).raw (j.sum d width l c)))) r

end Sys2Proof.Machine
end

