-- ==== Sys2Proof/Machine/Flags.lean ====
section
/-! DEFINITION. The integer computations of R250 to R261 and the three-valued results that instructions leave in
predicate registers. The part has no flags register; its conditions are predicates (R170, R211). -/

namespace Sys2Proof.Machine

/-- Width and signedness of an integer type code (R246). -/
def tyWidth (ty : Nat) : Nat := match ty / 2 with | 0 => 32 | 1 => 64 | 2 => 16 | _ => 8
def tySigned (ty : Nat) : Bool := ty % 2 = 0

/-- The integer the low bits of a value stand for. -/
def asInt (ty : Nat) (x : DWord) : Int :=
  let w := tyWidth ty
  let n := x.toNat % 2 ^ w
  if tySigned ty && 2 ^ (w - 1) ≤ n then (n : Int) - (2 ^ w : Nat) else n

def tyMin (ty : Nat) : Int := if tySigned ty then -((2 ^ (tyWidth ty - 1) : Nat) : Int) else 0
def tyMax (ty : Nat) : Int := if tySigned ty then ((2 ^ (tyWidth ty - 1) : Nat) : Int) - 1 else ((2 ^ tyWidth ty : Nat) : Int) - 1

def clampInt (lo hi v : Int) : Int := if v < lo then lo else if hi < v then hi else v

/-- An exact result reduced or clamped to the type, as the bits of a register or pair (R250). -/
def intResult (ty : Nat) (sat : Bool) (v : Int) : DWord :=
  let y := if sat then clampInt (tyMin ty) (tyMax ty) v else v
  BitVec.ofNat 64 (y % ((2 ^ tyWidth ty : Nat) : Int)).toNat

/-- Truncating quotient and remainder (R251). -/
def divTrunc (ty : Nat) (sat : Bool) (a b : Int) : Int × Int :=
  if b = 0 then (0, a)
  else if tySigned ty && a = tyMin ty && b = -1 then (if sat then tyMax ty else tyMin ty, 0)
  else (a.tdiv b, a.tmod b)

/-- A shift or rotate of w bits by n (R252). -/
def shl (w n a : Nat) : Nat := if w ≤ n then 0 else a * 2 ^ n % 2 ^ w
def shr (w n a : Nat) : Nat := if w ≤ n then 0 else a / 2 ^ n
def sar (w n a : Nat) : Nat :=
  let sign := a / 2 ^ (w - 1) % 2
  let n := if w ≤ n then w else n
  a / 2 ^ n + (if sign = 1 then 2 ^ w - 2 ^ (w - n) else 0)
def rot (w n a : Nat) : Nat := let n := n % w; (a * 2 ^ n + a / 2 ^ (w - n)) % 2 ^ w

def popCount (w a : Nat) : Nat := ((List.range w).map fun i => a / 2 ^ i % 2).sum
def leadZeros (w a : Nat) : Nat := if a = 0 then w else w - 1 - a.log2
def bitRev (w a : Nat) : Nat := ((List.range w).map fun i => a / 2 ^ i % 2 * 2 ^ (w - 1 - i)).sum

/-- The effective field of R253: its lowest bit and length. -/
def fieldOf (w : Nat) (spec : Word) : Nat × Nat :=
  let pos := spec.toNat % 256
  let len := spec.toNat / 256 % 256
  let p := if w < pos then w else pos
  (p, if w - p < len then w - p else len)

def bfx (ty : Nat) (spec : Word) (a : Nat) : Int :=
  let f := fieldOf (tyWidth ty) spec
  let v := a / 2 ^ f.1 % 2 ^ f.2
  if f.2 = 0 then 0
  else if tySigned ty && v / 2 ^ (f.2 - 1) = 1 then (v : Int) - (2 ^ f.2 : Nat) else v

def bfi (ty : Nat) (spec : Word) (a d : Nat) : Nat :=
  let f := fieldOf (tyWidth ty) spec
  d - d / 2 ^ f.1 % 2 ^ f.2 * 2 ^ f.1 + a % 2 ^ f.2 * 2 ^ f.1

/-- ICMP's condition (R257). -/
def intCond (cc : Nat) (a b : Int) : Bool :=
  match cc with
  | 0 => a = b | 1 => a ≠ b | 2 => a < b | 3 => a ≤ b | 4 => b < a | _ => b ≤ a

/-- PLOP's operations (R258). -/
def plop (o : Nat) (a b c : Tri) : Tri :=
  match o with
  | 0 => Tri.not a | 1 => Tri.and a b | 2 => Tri.or a b | 3 => Tri.xor a b
  | 4 => Tri.ofBool (a = Tri.ff || a = Tri.tt) | 5 => Tri.ofBool (!(a = Tri.ff || a = Tri.tt))
  | 6 => Tri.and (Tri.and a b) c | 7 => Tri.or (Tri.or a b) c | 8 => Tri.and a (Tri.not b)
  | 9 => if a = Tri.tt then Tri.tt else Tri.ff
  | _ => if a = Tri.ff then Tri.ff else Tri.tt

/-- Signed or unsigned byte i. -/
def byteInt (signed : Bool) (x : Word) (i : Nat) : Int :=
  let n := x.toNat / 2 ^ (8 * i) % 256
  if signed && 128 ≤ n then (n : Int) - 256 else n

def dot4 (sa sb : Bool) (a b : Word) : Int :=
  ((List.range 4).map fun i => byteInt sa a i * byteInt sb b i).sum

end Sys2Proof.Machine
end

