-- ==== Sys2Proof/Machine/Float.lean ====
section
/-! DEFINITION. Interval instructions, opcodes 0x40 to 0x62 and 0x70 to 0x77 (R262 to R282). -/

namespace Sys2Proof.Machine

/-- Reading and writing an interval or a point in the format the opcode computes in (R262, R280). -/
def Cx.ivIn (c : Cx) (f : Fmt) (lane : Nat) (x : Sel) : Iv := if f = .fp64 then c.div lane x else c.iv lane x
def Cx.ptIn (c : Cx) (f : Fmt) (lane : Nat) (x : Sel) : Pt := if f = .fp64 then c.dpt lane x else c.pt lane x
def putRaw (f : Fmt) (lane : Nat) (d : Sel) (v : Raw) (r : Regs) : Regs := if f = .fp64 then putD lane d v r else putF lane d v r
def Cx.outIv (c : Cx) (f : Fmt) (lane : Nat) (v : Iv) (r : Regs) : Regs := putRaw f lane c.x.d ((v.flush f c.x.fzo).write f) r
def Cx.outPt (c : Cx) (f : Fmt) (lane : Nat) (p : Pt) (r : Regs) : Regs := putRaw f lane c.x.d ((ptFlush f c.x.fzo p).writePt f) r

/-- MOD[0] as PT. -/
def Cx.isPt (c : Cx) : Bool := c.x.m 0 1 = 1

def Pt.one (f : Fmt) : Pt := roundDown f (Dy.ofInt 1).cut

/-- One, two or three operands under R263: the interval operation, and the point operation for `.pt`. -/
def flt1 (f : Fmt) (g : Iv → Iv) (p : Pt → Pt) (c : Cx) (lane : Nat) (r : Regs) : Regs :=
  if c.isPt then c.outPt f lane (p (c.ptIn f lane c.x.a)) r else c.outIv f lane (g (c.ivIn f lane c.x.a)) r

def flt2 (f : Fmt) (g : Iv → Iv → Iv) (p : Pt → Pt → Pt) (c : Cx) (lane : Nat) (r : Regs) : Regs :=
  if c.isPt then c.outPt f lane (p (c.ptIn f lane c.x.a) (c.ptIn f lane c.x.b)) r
  else c.outIv f lane (g (c.ivIn f lane c.x.a) (c.ivIn f lane c.x.b)) r

/-- A·B + D. -/
def fltFma (f : Fmt) (c : Cx) (lane : Nat) (r : Regs) : Regs :=
  if c.isPt then c.outPt f lane (Pt.fmaP f (c.ptIn f lane c.x.a) (c.ptIn f lane c.x.b) (some (c.ptIn f lane c.x.d))) r
  else c.outIv f lane (Iv.fma f (c.ivIn f lane c.x.a) (c.ivIn f lane c.x.b) (c.ivIn f lane c.x.d)) r

/-- An operation with the integer B (FPOWN, FLDEXP). -/
def fltInt (g : Iv → Int → Iv) (p : Pt → Int → Pt) (c : Cx) (lane : Nat) (r : Regs) : Regs :=
  let n := (c.i32 lane c.x.b).toInt
  if c.isPt then c.outPt .fp32 lane (p (c.pt lane c.x.a) n) r else c.outIv .fp32 lane (g (c.iv lane c.x.a) n) r

/-- Operations without `.pt` (R267, R268). -/
def fltSet1 (g : Iv → Iv) (c : Cx) (lane : Nat) (r : Regs) : Regs := c.outIv .fp32 lane (g (c.iv lane c.x.a)) r
def fltSet2 (g : Iv → Iv → Iv) (c : Cx) (lane : Nat) (r : Regs) : Regs :=
  c.outIv .fp32 lane (g (c.iv lane c.x.a) (c.iv lane c.x.b)) r

/-- R269. -/
def fltMake (c : Cx) (lane : Nat) (r : Regs) : Regs :=
  c.outIv .fp32 lane (Iv.make .fp32 (c.i32 lane c.x.a).toNat (c.i32 lane c.x.b).toNat) r

/-- R270. -/
def fltBound (pick : Raw → Nat) (c : Cx) (lane : Nat) (r : Regs) : Regs :=
  c.putInt 1 lane c.x.d (BitVec.ofNat 64 (pick ((c.iv lane c.x.a).write .fp32))) r

/-- R271. -/
def fltMeasure (m : Pt → Pt → Measure) (c : Cx) (lane : Nat) (r : Regs) : Regs :=
  putF lane c.x.d (Iv.measure .fp32 c.isPt c.x.fzo m (c.iv lane c.x.a)) r

/-- R272. -/
def fltBisect (c : Cx) (lane : Nat) (r : Regs) : Regs :=
  let h := Iv.bisect .fp32 (c.x.m 0 1 = 1) (c.iv lane c.x.a)
  let v := if h.2 then h.1.flush .fp32 c.x.fzo else h.1
  putE lane c.x.e (Tri.ofBool h.2) (putF lane c.x.d (v.write .fp32) r)

/-- R273, R281. -/
def fltCmp (f : Fmt) (c : Cx) (lane : Nat) (r : Regs) : Regs :=
  putP lane c.x.d (Iv.rel (c.x.m 0 3) (c.ivIn f lane c.x.a) (c.ivIn f lane c.x.b)) r

/-- R274. -/
def fltTest (c : Cx) (lane : Nat) (r : Regs) : Regs :=
  putP lane c.x.d (Tri.ofBool (Iv.test (c.x.m 0 3) (c.iv lane c.x.a) (c.iv lane c.x.b))) r

/-- R275. -/
def fltClass (c : Cx) (lane : Nat) (r : Regs) : Regs :=
  c.putInt 1 lane c.x.d ((Iv.classify .fp32 (c.iv lane c.x.a)).zeroExtend 64) r

/-- R276. -/
def fltDec (c : Cx) (lane : Nat) (r : Regs) : Regs :=
  let v := c.iv lane c.x.a
  let k : Dec := (c.i32 lane c.x.b).extractLsb' 0 2
  match c.x.m 0 2 with
  | 0 => c.putInt 1 lane c.x.d (v.dec.zeroExtend 64) r
  | 1 => c.outIv .fp32 lane (v.setDec k) r
  | _ => c.outIv .fp32 lane (v.setDec (Dec.min v.dec k)) r

/-- Short formats by FMT (R277). -/
def cvtFmt (n : Nat) : Fmt :=
  match n with
  | 0 => .bf16 | 1 => .f16 | 2 => .e5m2 | 3 => .e4m3 | _ => .e2m1

/-- The packed word of an interval, and an interval from a packed word (R277, R200, R201). -/
def packWord (fmt : Nat) (sat : Bool) (v : Iv) : Nat :=
  if fmt = 5 then (let p := Iv.toMid .fp32 .bf16 v; p.1 + p.2 * 2 ^ 16)
  else (let p := Iv.pack .fp32 (cvtFmt fmt) sat v; p.1 + p.2 * 2 ^ (cvtFmt fmt).bits)

def unpackWord (fmt n : Nat) : Iv :=
  if fmt = 5 then Iv.ofMid .bf16 .fp32 (n % 2 ^ 16) (n / 2 ^ 16 % 2 ^ 16)
  else
    let b := (cvtFmt fmt).bits
    Iv.unpack (cvtFmt fmt) .fp32 (n % 2 ^ b) (n / 2 ^ b % 2 ^ b)

/-- R277. -/
def fltCvt (c : Cx) (lane : Nat) (r : Regs) : Regs :=
  let fmt := c.x.m 0 3
  if c.x.m 3 1 = 0 then
    let v := c.iv lane c.x.a
    let n := packWord fmt (c.x.m 4 1 = 1) v
    let r := c.putInt 1 lane c.x.d (BitVec.ofNat 64 n) r
    if c.x.m 5 1 = 1 then putE lane c.x.e (if v.isNai then Tri.und else Tri.ofBool (v.subset (unpackWord fmt n))) r else r
  else c.outIv .fp32 lane (unpackWord fmt (c.i32 lane c.x.a).toNat) r

/-- The second integer destination. -/
def Cx.putEInt (c : Cx) (n lane : Nat) (v : DWord) (r : Regs) : Regs :=
  match c.x.e with
  | .reg k => c.putInt n lane (.reg k) v r
  | _ => r

/-- R278. -/
def fltCvti (c : Cx) (lane : Nat) (r : Regs) : Regs :=
  let ty := c.x.ty; let n := tyN ty; let lo := tyMin ty; let hi := tyMax ty
  if c.x.m 4 1 = 0 then
    let de : Int × Int :=
      if c.x.m 5 1 = 1 then
        let p := c.ptRaw lane c.x.a
        let d := if p = .nan then 0 else p.toInt .fp32 Dy.nearInt lo hi
        (d, d)
      else match c.iv lane c.x.a with
        | .mk a b _ => (a.toInt .fp32 Dy.floor lo hi, b.toInt .fp32 Dy.ceil lo hi)
        | _ => (hi, lo)
    let r := c.putInt n lane c.x.d (intResult ty false de.1) r
    if c.x.m 6 1 = 1 then c.putEInt n lane (intResult ty false de.2) r else r
  else
    let v := (Dy.ofInt (asInt ty (c.int n lane c.x.a))).cut
    if c.x.m 5 1 = 1 then c.outPt .fp32 lane (roundNear .fp32 v) r
    else c.outIv .fp32 lane (.mk (roundDown .fp32 v).posZero (roundUp .fp32 v).posZero Dec.com) r

/-- A copied value: bounds and decoration; a pair of equal bounds with trv may be a point result and stays as it
is, anything else is copied in its canonical form (R193, R279; log 16). -/
def Raw.moved (fzi fzo : Bool) (v : Raw) : Raw :=
  let flush := (fzi || fzo) && (Fmt.fp32.decode v.lo).subnormal .fp32
  if v.lo = v.hi && v.dec = Dec.trv && Fmt.fp32.decode v.lo ≠ .nan && !flush then v
  else (((v.read .fp32).flush .fp32 fzi).flush .fp32 fzo).write .fp32

def fltMove (c : Cx) (lane : Nat) (r : Regs) : Regs :=
  putF lane c.x.d ((c.flt lane c.x.a).moved c.x.fzi c.x.fzo) r

def fltSelect (c : Cx) (lane : Nat) (r : Regs) : Regs :=
  let p := c.w.r.getP c.x.imm.toNat lane
  putF lane c.x.d ((c.flt lane (if p = Tri.tt then c.x.a else if p = Tri.ff then c.x.b else c.x.c)).moved c.x.fzi c.x.fzo) r

/-- The literal as an IV64 interval. -/
def fltLit (c : Cx) (lane : Nat) (r : Regs) : Regs := putF lane c.x.d ((c.flt lane .lit).moved false c.x.fzo) r

/-- R282. -/
def fltCvtD (c : Cx) (lane : Nat) (r : Regs) : Regs :=
  if c.x.m 0 1 = 0 then
    c.outIv .fp64 lane (match c.iv lane c.x.a with
      | .mk a b d => .mk (a.convert .fp32 .fp64) (b.convert .fp32 .fp64) d
      | v => v) r
  else if c.x.m 1 1 = 1 then
    c.outPt .fp32 lane (match c.dptRaw lane c.x.a with
      | .fin neg k => roundNearAbs .fp32 neg (Fmt.fp64.mag k).cut
      | p => p) r
  else
    c.outIv .fp32 lane (match c.div lane c.x.a with
      | .mk a b d =>
        let lo := (a.toXR .fp64).down .fp32; let hi := (b.toXR .fp64).up .fp32
        .mk lo.posZero hi.posZero (Dec.min d (if lo.isFin && hi.isFin then Dec.com else Dec.dfn))
      | v => v) r

/-- Interval add with outward rounding (R263). -/
def execFadd (b : BitVec 7) (a : BitVec 7) (d : BitVec 7) (s : State) : Res :=
  perThread .fadd (Ext.base .fadd false b a d) 4 s (flt2 .fp32 (Iv.add .fp32) (Pt.addP .fp32))

/-- Extended-form FADD (R263). -/
def execFaddX (x : Ext) (s : State) : Res :=
  perThread .fadd x (extLen x) s (flt2 .fp32 (Iv.add .fp32) (Pt.addP .fp32))

/-- Interval subtract (R263). -/
def execFsub (b : BitVec 7) (a : BitVec 7) (d : BitVec 7) (s : State) : Res :=
  perThread .fsub (Ext.base .fsub false b a d) 4 s (flt2 .fp32 (Iv.sub .fp32) (fun x y => Pt.addP .fp32 x y.flip))

/-- Extended-form FSUB (R263). -/
def execFsubX (x : Ext) (s : State) : Res :=
  perThread .fsub x (extLen x) s (flt2 .fp32 (Iv.sub .fp32) (fun x y => Pt.addP .fp32 x y.flip))

/-- Interval multiply (R263). -/
def execFmul (b : BitVec 7) (a : BitVec 7) (d : BitVec 7) (s : State) : Res :=
  perThread .fmul (Ext.base .fmul false b a d) 4 s (flt2 .fp32 (Iv.mul .fp32) (fun x y => Pt.fmaP .fp32 x y none))

/-- Extended-form FMUL (R263). -/
def execFmulX (x : Ext) (s : State) : Res :=
  perThread .fmul x (extLen x) s (flt2 .fp32 (Iv.mul .fp32) (fun x y => Pt.fmaP .fp32 x y none))

/-- Interval fused multiply-add with the addend in D (R263). -/
def execFfma (b : BitVec 7) (a : BitVec 7) (d : BitVec 7) (s : State) : Res :=
  perThread .ffma (Ext.base .ffma false b a d) 4 s (fltFma .fp32)

/-- Extended-form FFMA (R263). -/
def execFfmaX (x : Ext) (s : State) : Res :=
  perThread .ffma x (extLen x) s (fltFma .fp32)

/-- Interval divide (R263). -/
def execFdiv (b : BitVec 7) (a : BitVec 7) (d : BitVec 7) (s : State) : Res :=
  perThread .fdiv (Ext.base .fdiv false b a d) 4 s (flt2 .fp32 (Iv.div .fp32) (Pt.divP .fp32))

/-- Extended-form FDIV (R263). -/
def execFdivX (x : Ext) (s : State) : Res :=
  perThread .fdiv x (extLen x) s (flt2 .fp32 (Iv.div .fp32) (Pt.divP .fp32))

/-- Interval square root (R263). -/
def execFsqrt (a : BitVec 7) (d : BitVec 7) (s : State) : Res :=
  perThread .fsqrt (Ext.base .fsqrt false 0 a d) 4 s (flt1 .fp32 (Iv.sqrt .fp32) (Pt.sqrtP .fp32))

/-- Extended-form FSQRT (R263). -/
def execFsqrtX (x : Ext) (s : State) : Res :=
  perThread .fsqrt x (extLen x) s (flt1 .fp32 (Iv.sqrt .fp32) (Pt.sqrtP .fp32))

/-- Interval square (R263). -/
def execFsqr (a : BitVec 7) (d : BitVec 7) (s : State) : Res :=
  perThread .fsqr (Ext.base .fsqr false 0 a d) 4 s (flt1 .fp32 (Iv.sqr .fp32) (fun x => Pt.fmaP .fp32 x x none))

/-- Extended-form FSQR (R263). -/
def execFsqrX (x : Ext) (s : State) : Res :=
  perThread .fsqr x (extLen x) s (flt1 .fp32 (Iv.sqr .fp32) (fun x => Pt.fmaP .fp32 x x none))

/-- Interval reciprocal (R263). -/
def execFrcp (a : BitVec 7) (d : BitVec 7) (s : State) : Res :=
  perThread .frcp (Ext.base .frcp false 0 a d) 4 s (flt1 .fp32 (Iv.rcp .fp32) (fun x => Pt.divP .fp32 (Pt.one .fp32) x))

/-- Extended-form FRCP (R263). -/
def execFrcpX (x : Ext) (s : State) : Res :=
  perThread .frcp x (extLen x) s (flt1 .fp32 (Iv.rcp .fp32) (fun x => Pt.divP .fp32 (Pt.one .fp32) x))

/-- Interval reciprocal square root (R263). -/
def execFrsqrt (a : BitVec 7) (d : BitVec 7) (s : State) : Res :=
  perThread .frsqrt (Ext.base .frsqrt false 0 a d) 4 s (flt1 .fp32 (Iv.rsqrt .fp32) (Pt.rsqrtP .fp32))

/-- Extended-form FRSQRT (R263). -/
def execFrsqrtX (x : Ext) (s : State) : Res :=
  perThread .frsqrt x (extLen x) s (flt1 .fp32 (Iv.rsqrt .fp32) (Pt.rsqrtP .fp32))

/-- Interval absolute value (R267). -/
def execFabs (a : BitVec 7) (d : BitVec 7) (s : State) : Res :=
  perThread .fabs (Ext.base .fabs false 0 a d) 4 s (fltSet1 Iv.abs)

/-- Extended-form FABS (R267). -/
def execFabsX (x : Ext) (s : State) : Res :=
  perThread .fabs x (extLen x) s (fltSet1 Iv.abs)

/-- Interval negation (R267). -/
def execFneg (a : BitVec 7) (d : BitVec 7) (s : State) : Res :=
  perThread .fneg (Ext.base .fneg false 0 a d) 4 s (fltSet1 Iv.neg)

/-- Extended-form FNEG (R267). -/
def execFnegX (x : Ext) (s : State) : Res :=
  perThread .fneg x (extLen x) s (fltSet1 Iv.neg)

/-- Interval minimum (R267). -/
def execFmin (b : BitVec 7) (a : BitVec 7) (d : BitVec 7) (s : State) : Res :=
  perThread .fmin (Ext.base .fmin false b a d) 4 s (fltSet2 Iv.imin)

/-- Extended-form FMIN (R267). -/
def execFminX (x : Ext) (s : State) : Res :=
  perThread .fmin x (extLen x) s (fltSet2 Iv.imin)

/-- Interval maximum (R267). -/
def execFmax (b : BitVec 7) (a : BitVec 7) (d : BitVec 7) (s : State) : Res :=
  perThread .fmax (Ext.base .fmax false b a d) 4 s (fltSet2 Iv.imax)

/-- Extended-form FMAX (R267). -/
def execFmaxX (x : Ext) (s : State) : Res :=
  perThread .fmax x (extLen x) s (fltSet2 Iv.imax)

/-- Interval hull (R268). -/
def execFhull (b : BitVec 7) (a : BitVec 7) (d : BitVec 7) (s : State) : Res :=
  perThread .fhull (Ext.base .fhull false b a d) 4 s (fltSet2 Iv.hull)

/-- Extended-form FHULL (R268). -/
def execFhullX (x : Ext) (s : State) : Res :=
  perThread .fhull x (extLen x) s (fltSet2 Iv.hull)

/-- Interval intersection (R268). -/
def execFisect (b : BitVec 7) (a : BitVec 7) (d : BitVec 7) (s : State) : Res :=
  perThread .fisect (Ext.base .fisect false b a d) 4 s (fltSet2 Iv.isect)

/-- Extended-form FISECT (R268). -/
def execFisectX (x : Ext) (s : State) : Res :=
  perThread .fisect x (extLen x) s (fltSet2 Iv.isect)

/-- Builds an interval from two FP32 bit patterns (R269). -/
def execFmk (b : BitVec 7) (a : BitVec 7) (d : BitVec 7) (s : State) : Res :=
  perThread .fmk (Ext.base .fmk false b a d) 4 s (fltMake)

/-- Extended-form FMK (R269). -/
def execFmkX (x : Ext) (s : State) : Res :=
  perThread .fmk x (extLen x) s (fltMake)

/-- Writes the lower-bound bits to a V register (R270). -/
def execFlo (a : BitVec 7) (d : BitVec 7) (s : State) : Res :=
  perThread .flo (Ext.base .flo false 0 a d) 4 s (fltBound Raw.lo)

/-- Extended-form FLO (R270). -/
def execFloX (x : Ext) (s : State) : Res :=
  perThread .flo x (extLen x) s (fltBound Raw.lo)

/-- Writes the upper-bound bits to a V register (R270). -/
def execFhi (a : BitVec 7) (d : BitVec 7) (s : State) : Res :=
  perThread .fhi (Ext.base .fhi false 0 a d) 4 s (fltBound Raw.hi)

/-- Extended-form FHI (R270). -/
def execFhiX (x : Ext) (s : State) : Res :=
  perThread .fhi x (extLen x) s (fltBound Raw.hi)

/-- Interval midpoint (R271). -/
def execFmid (a : BitVec 7) (d : BitVec 7) (s : State) : Res :=
  perThread .fmid (Ext.base .fmid false 0 a d) 4 s (fltMeasure (midMeasure .fp32))

/-- Extended-form FMID (R271). -/
def execFmidX (x : Ext) (s : State) : Res :=
  perThread .fmid x (extLen x) s (fltMeasure (midMeasure .fp32))

/-- Interval radius (R271). -/
def execFrad (a : BitVec 7) (d : BitVec 7) (s : State) : Res :=
  perThread .frad (Ext.base .frad false 0 a d) 4 s (fltMeasure (widMeasure .fp32 (-1)))

/-- Extended-form FRAD (R271). -/
def execFradX (x : Ext) (s : State) : Res :=
  perThread .frad x (extLen x) s (fltMeasure (widMeasure .fp32 (-1)))

/-- Interval width (R271). -/
def execFwid (a : BitVec 7) (d : BitVec 7) (s : State) : Res :=
  perThread .fwid (Ext.base .fwid false 0 a d) 4 s (fltMeasure (widMeasure .fp32 0))

/-- Extended-form FWID (R271). -/
def execFwidX (x : Ext) (s : State) : Res :=
  perThread .fwid x (extLen x) s (fltMeasure (widMeasure .fp32 0))

/-- Interval mignitude (R271). -/
def execFmig (a : BitVec 7) (d : BitVec 7) (s : State) : Res :=
  perThread .fmig (Ext.base .fmig false 0 a d) 4 s (fltMeasure (migMeasure .fp32))

/-- Extended-form FMIG (R271). -/
def execFmigX (x : Ext) (s : State) : Res :=
  perThread .fmig x (extLen x) s (fltMeasure (migMeasure .fp32))

/-- Interval magnitude (R271). -/
def execFmag (a : BitVec 7) (d : BitVec 7) (s : State) : Res :=
  perThread .fmag (Ext.base .fmag false 0 a d) 4 s (fltMeasure (magMeasure .fp32))

/-- Extended-form FMAG (R271). -/
def execFmagX (x : Ext) (s : State) : Res :=
  perThread .fmag x (extLen x) s (fltMeasure (magMeasure .fp32))

/-- Bisects an interval and writes one half and a success predicate (R272). -/
def execFbis (x : Ext) (s : State) : Res :=
  perThread .fbis x (extLen x) s (fltBisect)

/-- Three-valued interval relation into a predicate (R273). -/
def execFcmp (x : Ext) (s : State) : Res :=
  perThread .fcmp x (extLen x) s (fltCmp .fp32)

/-- Two-valued interval set test into a predicate (R274). -/
def execFset (x : Ext) (s : State) : Res :=
  perThread .fset x (extLen x) s (fltTest)

/-- Writes the interval classification word (R275). -/
def execFclass (a : BitVec 7) (d : BitVec 7) (s : State) : Res :=
  perThread .fclass (Ext.base .fclass false 0 a d) 4 s (fltClass)

/-- Extended-form FCLASS (R275). -/
def execFclassX (x : Ext) (s : State) : Res :=
  perThread .fclass x (extLen x) s (fltClass)

/-- Base-form FDEC.get, which reads a decoration (R276). -/
def execFdec (a : BitVec 7) (d : BitVec 7) (s : State) : Res :=
  perThread .fdec (Ext.base .fdec false 0 a d) 4 s (fltDec)

/-- Reads, sets or lowers a decoration (R276). -/
def execFdecX (x : Ext) (s : State) : Res :=
  perThread .fdec x (extLen x) s (fltDec)

/-- Base-form pack of an interval to BF16 (R277). -/
def execFcvt (a : BitVec 7) (d : BitVec 7) (s : State) : Res :=
  perThread .fcvt (Ext.base .fcvt false 0 a d) 4 s (fltCvt)

/-- Packs or unpacks an interval in short formats, with an optional enclosure predicate (R277). -/
def execFcvtX (x : Ext) (s : State) : Res :=
  perThread .fcvt x (extLen x) s (fltCvt)

/-- Base-form conversion of an interval to an integer range (R278). -/
def execFcvti (a : BitVec 7) (d : BitVec 7) (s : State) : Res :=
  perThread .fcvti (Ext.base .fcvti false 0 a d) 4 s (fltCvti)

/-- Converts between intervals and integers (R278). -/
def execFcvtiX (x : Ext) (s : State) : Res :=
  perThread .fcvti x (extLen x) s (fltCvti)

/-- Interval integer power (R263). -/
def execFpown (b : BitVec 7) (a : BitVec 7) (d : BitVec 7) (s : State) : Res :=
  perThread .fpown (Ext.base .fpown false b a d) 4 s (fltInt (Iv.pown .fp32) (Pt.pownP .fp32))

/-- Extended-form FPOWN (R263). -/
def execFpownX (x : Ext) (s : State) : Res :=
  perThread .fpown x (extLen x) s (fltInt (Iv.pown .fp32) (Pt.pownP .fp32))

/-- Interval scaling by a power of two (R263). -/
def execFldexp (b : BitVec 7) (a : BitVec 7) (d : BitVec 7) (s : State) : Res :=
  perThread .fldexp (Ext.base .fldexp false b a d) 4 s (fltInt (Iv.ldexp .fp32) (Pt.ldexpP .fp32))

/-- Extended-form FLDEXP (R263). -/
def execFldexpX (x : Ext) (s : State) : Res :=
  perThread .fldexp x (extLen x) s (fltInt (Iv.ldexp .fp32) (Pt.ldexpP .fp32))

/-- Interval move (R279). -/
def execFmov (a : BitVec 7) (d : BitVec 7) (s : State) : Res :=
  perThread .fmov (Ext.base .fmov false 0 a d) 4 s (fltMove)

/-- Extended-form FMOV (R279). -/
def execFmovX (x : Ext) (s : State) : Res :=
  perThread .fmov x (extLen x) s (fltMove)

/-- Three-way interval select by a predicate (R279). -/
def execFsel (x : Ext) (s : State) : Res :=
  perThread .fsel x (extLen x) s (fltSelect)

/-- Base-with-literal write of an IV64 literal (R279). -/
def execFmovl (d : BitVec 7) (l : DWord) (s : State) : Res :=
  perThread .fmovl (Ext.base .fmovl false 0 0 d (some l)) 12 s (fltLit)

/-- Extended-with-literal FMOVL (R279). -/
def execFmovlX (x : Ext) (s : State) : Res :=
  perThread .fmovl x (extLen x) s (fltLit)

/-- FP64 interval add (R280). -/
def execDadd (b : BitVec 7) (a : BitVec 7) (d : BitVec 7) (s : State) : Res :=
  perThread .dadd (Ext.base .dadd false b a d) 4 s (flt2 .fp64 (Iv.add .fp64) (Pt.addP .fp64))

/-- Extended-form DADD (R280). -/
def execDaddX (x : Ext) (s : State) : Res :=
  perThread .dadd x (extLen x) s (flt2 .fp64 (Iv.add .fp64) (Pt.addP .fp64))

/-- FP64 interval subtract (R280). -/
def execDsub (b : BitVec 7) (a : BitVec 7) (d : BitVec 7) (s : State) : Res :=
  perThread .dsub (Ext.base .dsub false b a d) 4 s (flt2 .fp64 (Iv.sub .fp64) (fun x y => Pt.addP .fp64 x y.flip))

/-- Extended-form DSUB (R280). -/
def execDsubX (x : Ext) (s : State) : Res :=
  perThread .dsub x (extLen x) s (flt2 .fp64 (Iv.sub .fp64) (fun x y => Pt.addP .fp64 x y.flip))

/-- FP64 interval multiply (R280). -/
def execDmul (b : BitVec 7) (a : BitVec 7) (d : BitVec 7) (s : State) : Res :=
  perThread .dmul (Ext.base .dmul false b a d) 4 s (flt2 .fp64 (Iv.mul .fp64) (fun x y => Pt.fmaP .fp64 x y none))

/-- Extended-form DMUL (R280). -/
def execDmulX (x : Ext) (s : State) : Res :=
  perThread .dmul x (extLen x) s (flt2 .fp64 (Iv.mul .fp64) (fun x y => Pt.fmaP .fp64 x y none))

/-- FP64 interval fused multiply-add (R280). -/
def execDfma (b : BitVec 7) (a : BitVec 7) (d : BitVec 7) (s : State) : Res :=
  perThread .dfma (Ext.base .dfma false b a d) 4 s (fltFma .fp64)

/-- Extended-form DFMA (R280). -/
def execDfmaX (x : Ext) (s : State) : Res :=
  perThread .dfma x (extLen x) s (fltFma .fp64)

/-- FP64 interval divide (R280). -/
def execDdiv (b : BitVec 7) (a : BitVec 7) (d : BitVec 7) (s : State) : Res :=
  perThread .ddiv (Ext.base .ddiv false b a d) 4 s (flt2 .fp64 (Iv.div .fp64) (Pt.divP .fp64))

/-- Extended-form DDIV (R280). -/
def execDdivX (x : Ext) (s : State) : Res :=
  perThread .ddiv x (extLen x) s (flt2 .fp64 (Iv.div .fp64) (Pt.divP .fp64))

/-- FP64 interval square root (R280). -/
def execDsqrt (a : BitVec 7) (d : BitVec 7) (s : State) : Res :=
  perThread .dsqrt (Ext.base .dsqrt false 0 a d) 4 s (flt1 .fp64 (Iv.sqrt .fp64) (Pt.sqrtP .fp64))

/-- Extended-form DSQRT (R280). -/
def execDsqrtX (x : Ext) (s : State) : Res :=
  perThread .dsqrt x (extLen x) s (flt1 .fp64 (Iv.sqrt .fp64) (Pt.sqrtP .fp64))

/-- FP64 three-valued compare (R281). -/
def execDcmp (x : Ext) (s : State) : Res :=
  perThread .dcmp x (extLen x) s (fltCmp .fp64)

/-- Base-form widening of an FP32 interval to an FP64 pair (R282). -/
def execDcvt (a : BitVec 7) (d : BitVec 7) (s : State) : Res :=
  perThread .dcvt (Ext.base .dcvt false 0 a d) 4 s (fltCvtD)

/-- Converts between FP32 and FP64 intervals (R282). -/
def execDcvtX (x : Ext) (s : State) : Res :=
  perThread .dcvt x (extLen x) s (fltCvtD)

end Sys2Proof.Machine
end

