-- ==== Sys2Proof/Machine/Mesh.lean ====
section
/-! DEFINITION. The mesh (R9 to R11, R17, R20 to R22): where sites and bridges stand, the links between them, and the way
a message takes. -/

namespace Sys2Proof.Machine

/-! ### Places (R11, R17) -/

/-- Coordinates of compute die n and of memory site n. -/
def dieAt (n : Nat) : Nat × Nat := (if n / 8 % 2 = 0 then 2 * (n % 8) else 15 - 2 * (n % 8), n / 8)
def siteAt (n : Nat) : Nat × Nat := (if n / 8 % 2 = 0 then 2 * (n % 8) + 1 else 14 - 2 * (n % 8), n / 8)

/-- Coordinates of a die or a memory site by its unit number. -/
def gridAt (unit : Nat) : Nat × Nat := if unit < 128 then dieAt unit else siteAt (unit - 128)

/-- Edge memory site i (0 the first listed, 1 the second) of bridge b, counted BN0 to BN3, then BS0 to BS3. -/
def bridgeSite (b i : Nat) : Nat := (if b < 4 then 2 * b else 112 + 2 * b) + i

/-! ### Hops (R22) -/

def natDist (a b : Nat) : Nat := (a - b) + (b - a)

/-- Hop count between two places of the grid. -/
def hops (a b : Nat × Nat) : Nat := natDist a.1 b.1 + natDist a.2 b.2

/-- Which of its edge sites a bridge uses towards a place: the nearer, and the first listed where the two are as near. -/
def edgeOf (b : Nat) (p : Nat × Nat) : Nat := if hops (siteAt (bridgeSite b 1)) p < hops (siteAt (bridgeSite b 0)) p then 1 else 0

/-- Where a unit's messages towards another enter or leave the grid; between two bridges, towards the first listed site of
the other (log 69). -/
def gridEnd (unit other : Nat) : Nat × Nat :=
  if unit < 256 then gridAt unit
  else siteAt (bridgeSite (unit - 256) (edgeOf (unit - 256) (if other < 256 then gridAt other else siteAt (bridgeSite (other - 256) 0))))

/-- Hop count between two units: 1 for each bridge's link, and the grid's hops. -/
def hopCount (a b : Nat) : Nat :=
  if a = b then 0
  else (if 256 ≤ a then 1 else 0) + (if 256 ≤ b then 1 else 0) + hops (gridEnd a b) (gridEnd b a)

/-! ### Routes (R20, R21) -/

/-- Links along a row and along a column, by number (log 43). -/
def rowLinks (y a b : Nat) : List Nat := ((List.range 16).filter fun i => min a b ≤ i && i < max a b).map fun i => 2 * (16 * y + i)
def colLinks (x a b : Nat) : List Nat := ((List.range 16).filter fun i => min a b ≤ i && i < max a b).map fun i => 2 * (16 * i + x) + 1

/-- Links that a message crosses: along its row to the destination's column and then along that column, or the column
first. -/
def routeLinks (colFirst : Bool) (a b : Nat) : List Nat :=
  let p := gridEnd a b
  let q := gridEnd b a
  let bridge (u : Nat) (e : Nat × Nat) : List Nat :=
    if 256 ≤ u then [512 + 2 * (u - 256) + (if siteAt (bridgeSite (u - 256) 0) = e then 0 else 1)] else []
  if a = b then []
  else bridge a p ++ (if colFirst then colLinks p.1 p.2 q.2 ++ rowLinks q.2 p.1 q.1 else rowLinks p.2 p.1 q.1 ++ colLinks q.1 p.2 q.2) ++ bridge b q

/-- A message travels column-first: a link of its row-first route was disabled before it was sent. -/
def Panel.columnFirst (p : Panel) (m : Msg) : Bool :=
  p.linkCut ≠ [] && (routeLinks false m.src m.dst).any fun l => p.linkCut.get 0 l ≠ 0 && p.linkCut.get 0 l ≤ m.id + 1

/-- The links that a message crosses. -/
def Panel.route (p : Panel) (m : Msg) : List Nat := routeLinks (p.columnFirst m) m.src m.dst

end Sys2Proof.Machine
end

