-- ==== Sys2Proof/Machine/Home.lean ====
section
/-! DEFINITION. Homes (R33 to R43, R58 to R85): where a line is homed, its directory, leases, perform times,
writes, watches and lost lines, and the messages that reach a home. -/

namespace Sys2Proof.Machine

/-! ### Addresses (R33, R34, R36) -/

def lineOf (pa : Nat) : Nat := pa / 128
def lineAddr (line : Nat) : Nat := line * 128
def isCompanion (pa : Nat) : Bool := 2 ^ 47 ≤ pa

/-- Home site of a striped block (R34). -/
def stripeSite (b : Nat) : Nat :=
  (b % 128) ^^^ (b / 2 ^ 7 % 128) ^^^ (b / 2 ^ 14 % 128) ^^^ (b / 2 ^ 21 % 128) ^^^ (b / 2 ^ 28 % 64)

/-- Address inside the home site (R34, R36). -/
def localAddr (pa : Nat) : Nat :=
  if pa / 2 ^ 46 % 4 = 1 then pa % 2 ^ 39 else pa / 2 ^ 12 % 2 ^ 34 / 2 ^ 7 * 4096 + pa % 4096

/-- Local addresses from here up are not addressable (R35). -/
abbrev lTop : Nat := 0xb2c000000

/-- The half of the Kelvia Link agent of a companion address, as a unit (R18, R88). -/
def State.halfOf (s : State) (pa : Nat) : Nat :=
  let a := if pa / 4096 % 2 = 0 then 257 else 261
  let b := if a = 257 then 261 else 257
  if s.halfOut.contains a then b else a

/-- LMAX that the half of a companion line holds for it at least, having taken it over (R88). -/
def State.takenOver (s : State) (line : Nat) : Nat :=
  let pa := line * 128
  if isCompanion pa && s.halfOut.contains (if pa / 4096 % 2 = 0 then 257 else 261) then s.panel.tookOver else 0

/-- Unit of the home of an address. -/
def State.homeOf (s : State) (pa : Nat) : Nat :=
  if isCompanion pa then s.halfOf pa
  else if pa / 2 ^ 46 % 4 = 1 then 128 + pa / 2 ^ 39 % 128
  else 128 + stripeSite (pa / 2 ^ 12 % 2 ^ 34)

/-- A companion address lies in a declared range (R37, R483). -/
def State.declaredPa (s : State) (pa : Nat) : Bool :=
  (List.range 16).any fun k =>
    s.service.get 0 (0x39100 + 16 * k) ≤ pa && pa < s.service.get 0 (0x39108 + 16 * k)

/-- An address has memory behind it: a striped one lies below S in its site, a near one between S and L_TOP, a companion one
in a declared range (R35 to R37). -/
def State.backed (s : State) (pa : Nat) : Bool :=
  if isCompanion pa then s.declaredPa pa
  else if pa / 2 ^ 46 % 4 = 1 then s.boundary ≤ localAddr pa && localAddr pa < lTop
  else localAddr pa < s.boundary

/-! ### Agents (R58, R59) -/

def agentId (kind place unit : Nat) : Nat := kind * 2 ^ 28 + place * 2 ^ 20 + unit
def agentKind (a : Nat) : Nat := a / 2 ^ 28
def agentPlace (a : Nat) : Nat := a / 2 ^ 20 % 256

/-- A home as an agent. -/
def homeAgent (home : Nat) : Nat := agentId 8 (home - 128) 0

/-- The mesh unit an agent sends from. -/
def agentUnit (a : Nat) : Nat := if agentKind a ≤ 5 then agentPlace a else if agentKind a = 8 then 128 + agentPlace a else 256 + agentPlace a

/-- Where a message to an agent about a line travels: the companion's cross the half of the line's address (R18). -/
def State.agentDst (s : State) (a pa : Nat) : Nat := if agentKind a = 6 then s.halfOf pa else agentUnit a

def mayLease (a : Nat) : Bool := agentKind a ∈ [0, 4, 6]
def mayExcl (a : Nat) : Bool := agentKind a ∈ [1, 6, 7]
def mayWatch (a : Nat) : Bool := agentKind a ∈ [0, 5, 6, 9]

def State.incOf (s : State) (a : Nat) : Nat := s.incs.get 0 a

/-! ### Messages (R20, R21, R84) -/

/-- Message classes: 0 request, 1 forward, 2 response, 3 service (R85, R433). -/
def MType.cls : MType → Nat
  | .readReq | .exclReq | .storeReq | .watchSet | .atomReq | .stealReq => 0
  | .forward | .recall => 1
  | .readGrant | .exclGrant | .storeAck | .fwdData | .writeback | .watchFire | .atomAck | .stealReply => 2
  | _ => 3

/-- TYPE codes (R85); 0 for messages that are no lease messages. -/
def MType.code : MType → Nat
  | .readReq => 1 | .readGrant => 2 | .exclReq => 3 | .exclGrant => 4 | .storeReq => 5 | .storeAck => 6 | .forward => 7
  | .fwdData => 8 | .writeback => 9 | .recall => 10 | .renew => 11 | .watchSet => 12 | .watchFire => 13 | .atomReq => 14
  | .atomAck => 15 | .lostNotice => 16 | .unknown t => t
  | _ => 0

/-- FLAGS (R84). -/
def Msg.flags (m : Msg) : Nat :=
  let bit (b : Bool) (n : Nat) : Nat := if b then 2 ^ n else 0
  (bit m.once 0 + bit m.fwd 1 + bit m.release 2 + bit m.refused 3 + bit (m.poison ≠ 0) 4 + bit m.noret 5) ||| m.reason % 16

/-- Flit 0 of a lease message (R84), byte 0 in the lowest bits. -/
def Msg.flit0 (m : Msg) : BitVec 512 :=
  BitVec.ofNat 512 (m.ty.code % 2 ^ 8 + m.flags * 2 ^ 8 + m.tag % 2 ^ 16 * 2 ^ 16 + m.agent % 2 ^ 32 * 2 ^ 32 + m.addr % 2 ^ 64 * 2 ^ 64 +
    m.t1 % 2 ^ 64 * 2 ^ 128 + m.t2 % 2 ^ 64 * 2 ^ 192 + m.mask.toNat * 2 ^ 256 + m.inc % 2 ^ 16 * 2 ^ 384 + m.op % 2 ^ 16 * 2 ^ 400)

/-- Flits of a lease message (R85): 128 bytes of line data, one operand flit, or none follow flit 0. -/
def Msg.flits (m : Msg) : List (BitVec 512) :=
  let line : List (BitVec 512) := [m.flit0, m.data.extractLsb' 0 512, m.data.extractLsb' 512 512]
  match m.ty with
  | .readGrant => if m.fwd then [m.flit0] else line
  | .exclGrant => if m.refused then [m.flit0] else line
  | .storeReq | .fwdData | .writeback => line
  | .atomReq => if m.noret && m.mask ≠ 0 then line else [m.flit0, m.data.extractLsb' 0 512]
  | .atomAck => [m.flit0, m.data.extractLsb' 0 512]
  | _ => [m.flit0]

def State.post (s : State) (m : Msg) : State := { s with net := s.net ++ [{ m with id := s.nextId }], nextId := s.nextId + 1 }

/-- An older message of the same class and pair of units is still on its way, or, of any class, one of the pair on its old
route, which drains before the pair moves (R21). -/
def State.overtaken (s : State) (m : Msg) : Bool :=
  s.net.any fun o => o.id < m.id && o.src = m.src && o.dst = m.dst && (o.ty.cls = m.ty.cls || s.panel.columnFirst o ≠ s.panel.columnFirst m)

/-- The die has stopped (R25, R79). -/
def State.dieDown (s : State) (die : Nat) : Bool := s.panel.failed.contains die

/-- The message a step delivers, and the state without it; a die that has stopped takes none. -/
def State.deliver (s : State) (n : Nat) (ok : MType → Bool) : Option (Msg × State) :=
  match s.net.find? fun m => m.id = n with
  | none => none
  | some m => if ok m.ty && !s.overtaken m && !s.dieDown m.dst then some (m, { s with net := s.net.filter fun o => o.id ≠ n }) else none

/-- Answer a request, as the home's own agent (R84): replies that concern companion memory wait for the Kelvia Link (R22). -/
def State.reply (s : State) (q : Msg) (home : Nat) (m : Msg) : State :=
  let m := { m with id := s.nextId, tag := q.tag, src := home, dst := if agentKind q.agent = 6 then s.halfOf q.addr else q.src,
                    agent := homeAgent home, inc := s.incOf (homeAgent home) }
  let s := { s with nextId := s.nextId + 1 }
  if 256 ≤ home && m.ty ≠ .watchFire then { s with kelvia := s.kelvia ++ [m] } else { s with net := s.net ++ [m] }

/-! ### Lines and bytes -/

def Line.byte (d : Line) (i : Nat) : Byte := d.extractLsb' (8 * i) 8

/-- The line's 128 bytes at their home. -/
def State.lineData (s : State) (line : Nat) : Line :=
  BitVec.ofNat 1024 ((List.range 128).foldr (fun i n => n * 256 + (s.mem.get 0 (line * 128 + i)).toNat) 0)

/-- Write the masked bytes of a line. -/
def putLine (mem : Store Byte) (line : Nat) (mask : BitVec 128) (d : Line) : Store Byte :=
  (List.range 128).foldl (fun m i => if mask.getLsbD i then m.put 0 (line * 128 + i) (Line.byte d i) else m) mem

/-- Little-endian integer of `n` bytes at an address. -/
def readBytes (m : Store Byte) (a n : Nat) : Nat := (List.range n).foldr (fun i v => v * 256 + (m.get 0 (a + i)).toNat) 0

def writeBytes (m : Store Byte) (a n v : Nat) : Store Byte :=
  (List.range n).foldl (fun m i => m.put 0 (a + i) (BitVec.ofNat 8 (v / 256 ^ i))) m

/-- `n` bytes of a line as an integer. -/
def lineNat (d : Line) (off n : Nat) : Nat := d.toNat / 256 ^ off % 256 ^ n

/-- Byte mask of `n` bytes from `off`. -/
def byteMask (off n : Nat) : BitVec 128 := BitVec.ofNat 128 ((2 ^ n - 1) * 2 ^ off)

/-! ### Event counters (R484, R493) -/

/-- Events of a unit whose counters stand from `base`: every enabled counter of that event code rises. -/
def State.count (s : State) (base n code amount : Nat) : State :=
  (List.range n).foldl (fun s i =>
    let ctl := s.service.get 0 (base + 16 * i + 8)
    if ctl / 2 ^ 30 % 2 = 1 && ctl % 256 = code then
      { s with service := s.service.put 0 (base + 16 * i) ((s.service.get 0 (base + 16 * i) + amount) % 2 ^ 64) }
    else s) s

/-- Offset of a die's block of service space, and of a memory site's (R478). -/
def dieBlock (die : Nat) : Nat := 0x10000000 + die * 0x100000
def siteBlock (site : Nat) : Nat := 0x20000000 + site * 0x100000

def State.countCore (s : State) (die core code n : Nat) : State := s.count (dieBlock die + 0x40000 + 64 * core) 4 code n
def State.countCluster (s : State) (die cluster code n : Nat) : State := s.count (dieBlock die + 0x60000 + 32 * cluster) 2 code n
def State.countDie (s : State) (die code n : Nat) : State := if die < 128 then s.count (dieBlock die + 0x100) 8 code n else s

/-- Events of a home; the halves of the Kelvia Link agent have no counters. -/
def State.countHome (s : State) (home code : Nat) : State := if 128 ≤ home && home < 256 then s.count (siteBlock (home - 128) + 0x100) 8 code 1 else s

/-! ### The slice (R41 to R43) -/

/-- An HBM access of 128 bytes ends self-refresh and counts towards the window (R32, R39). -/
def State.hbm (s : State) (home : Nat) : State :=
  { s with panel := { s.panel with
      hbmAt := s.panel.hbmAt.put 0 home s.now
      hbmBytes := s.panel.hbmBytes.put 0 home (s.panel.hbmBytes.get 0 home + 128)
      selfRefresh := s.panel.selfRefresh.filter (· ≠ home) } }

/-- Ways of a slice set; the set is the line's place in its site modulo 32,768 (log 22). -/
def sliceSet (line : Nat) : Nat := localAddr (line * 128) / 128 % 32768

/-- Lines that stay while another can go (R42). -/
def State.pinnedInSlice (s : State) (line : Nat) : Bool :=
  s.watches.any (·.line = line) || s.regions.any fun r => r.size = 0 && r.base = line && r.st ∈ [LineSt.excl, .fwd, .recall]

/-- The line that makes room for one more in the set: the least recently used, a kept line only when all are kept. -/
def State.sliceVictim (s : State) (line : Nat) : Option SliceLine :=
  let home := s.homeOf (line * 128)
  let inSet := s.slice.filter fun l => s.homeOf (l.line * 128) = home && sliceSet l.line = sliceSet line
  if inSet.length < 16 then none
  else
    let free := inSet.filter fun l => !s.pinnedInSlice l.line
    let pool := if free.isEmpty then inSet else free
    pool.foldl (fun b l => match b with
      | none => some l
      | some (o : SliceLine) => if l.used < o.used then some l else some o) none

/-- A line whose bytes are not all valid is read from HBM and merged (R43). -/
def State.merge (s : State) (l : SliceLine) : State := if l.valid = BitVec.allOnes 128 then s else s.hbm (s.homeOf (l.line * 128))

/-- A dirty line is merged and written back to HBM when it goes. -/
def State.sliceRoom (s : State) (line : Nat) : State :=
  match s.sliceVictim line with
  | none => s
  | some v =>
    let s := if v.dirty then (s.merge v).hbm (s.homeOf (line * 128)) else s
    { s with slice := s.slice.filter fun l => l.line ≠ v.line }

/-- Use a line in its slice, which makes it the most recently used: a read makes every byte valid, a write sets the masked
bytes and DIRTY. -/
def State.touch (s : State) (line : Nat) (valid : BitVec 128) (dirty : Bool) : State :=
  if isCompanion (line * 128) then s
  else match s.slice.find? (·.line = line) with
    | some l =>
      let s := if dirty then s else s.merge l
      { s with slice := (s.slice.filter fun o => o.line ≠ line) ++ [{ l with valid := l.valid ||| valid, dirty := l.dirty || dirty, used := s.now }] }
    | none =>
      let s := s.sliceRoom line
      let s := if dirty then s else s.hbm (s.homeOf (line * 128))
      { s with slice := s.slice ++ [⟨line, valid, dirty, s.now⟩] }

/-- A line is read whole. -/
def State.touchRead (s : State) (line : Nat) : State := s.touch line (BitVec.allOnes 128) false

/-- CCTL's write-back: a dirty line is merged and written to HBM, and stays, clean (R42, R43). -/
def State.cleanLine (s : State) (line : Nat) : State :=
  match s.slice.find? (·.line = line) with
  | none => s
  | some l =>
    if !l.dirty then s
    else
      let s := (s.merge l).hbm (s.homeOf (line * 128))
      { s with slice := s.slice.map fun (o : SliceLine) => if o.line = line then { l with dirty := false, valid := BitVec.allOnes 128 } else o }

/-- A site may use its HBM for the line: in the matrix-bound class its traffic is limited to 1,970,000 bytes in each window of
1 µs; what the slice holds is not limited (R39). -/
def State.hbmFree (s : State) (home line : Nat) : Bool :=
  256 ≤ home || s.panel.siteBound || s.panel.hbmBytes.get 0 home < 1970000 || s.slice.any fun l => l.line = line && l.valid = BitVec.allOnes 128

/-! ### The directory (R67 to R71) -/

def State.eAt (s : State) (unit : Nat) : Nat := s.ebound.get 16 unit

/-- Entries a home's directory holds (R67, R88). -/
def dirSize (home : Nat) : Nat := if home < 256 then 262144 else 32768

/-- PA[12] of a companion line; device lines have no halves (R88). -/
def parOf (line : Nat) : Nat := if isCompanion (line * 128) then line / 32 % 2 else 0

def Region.covers (r : Region) (home line : Nat) : Bool := r.home = home && r.base ≤ line && line < r.base + 2 ^ r.size && r.par = parOf line

def State.regionOf (s : State) (home line : Nat) : Option Region := s.regions.find? (·.covers home line)

def sameEntry (a b : Region) : Bool := a.home = b.home && a.base = b.base && a.size = b.size && a.par = b.par

def State.setRegion (s : State) (r : Region) : State :=
  { s with regions := s.regions.map fun o => if sameEntry o r then r else o }

/-- The entry holds an exclusive lease, a WATCH or a LOST flag. -/
def Region.busy (r : Region) : Bool := r.st ∈ [LineSt.excl, .fwd, .recall, .lost] || r.lost || r.watches ≠ 0

/-- R70's condition for freeing. -/
def Region.freeable (r : Region) (now e : Nat) : Bool := r.lmax + e ≤ now && r.wmax ≤ now && !r.busy

def State.entries (s : State) (home : Nat) : Nat := (s.regions.filter (·.home = home)).length

/-- Step 1 of R71. -/
def State.freeEntries (s : State) (home : Nat) : State :=
  { s with regions := s.regions.filter fun r => !(r.home = home && r.freeable (s.tcAt home) (s.eAt home)) }

/-- Siblings: the two halves of one aligned block. -/
def siblings (a b : Region) : Bool :=
  a.home = b.home && a.par = b.par && a.size = b.size && a.size < 9 && a.base < b.base && a.base % 2 ^ (a.size + 1) = 0 && b.base = a.base + 2 ^ a.size

def mergeRegions (a b : Region) : Region :=
  { a with
    size := a.size + 1, len := min a.len b.len, lmax := max a.lmax b.lmax, wmax := max a.wmax b.wmax, quiet := max a.quiet b.quiet
    lastwait := max a.lastwait b.lastwait, st := if a.st = .shared || b.st = .shared then .shared else .invalid }

/-- Put the merged entry in the place of the two. -/
def State.mergePair (s : State) (a b : Region) : State :=
  { s.countHome a.home 5 with regions := (s.regions.filter fun r => !sameEntry r b).map fun r => if sameEntry r a then mergeRegions a b else r }

/-- Step 2 of R71: the eligible pair whose QUIET is oldest, without the 1 ms condition. -/
def State.mergeOldest (s : State) (home : Nat) : State :=
  let rs := s.regions.filter fun r => r.home = home && !r.busy
  let pairs := rs.flatMap fun a => (rs.filter (siblings a)).map fun b => (a, b)
  match pairs.foldl (fun best p => match best with
      | none => some p
      | some (q : Region × Region) => if max p.1.quiet p.2.quiet < max q.1.quiet q.2.quiet then some p else some q) none with
  | some p => s.mergePair p.1 p.2
  | none => s

/-- Make a free entry if one can be had; `merge` allows step 2. Entries that may be freed are freed here, when the directory is
full and one is needed (DESIGN CHOICE, log 68: R70 gives no time). -/
def State.room (s : State) (home : Nat) (merge : Bool) : State × Bool :=
  let full (s : State) : Bool := dirSize home ≤ s.entries home
  if !full s then (s, true)
  else
    let s := s.freeEntries home
    if !full s then (s, true)
    else if !merge then (s, false)
    else
      let s := s.mergeOldest home
      (s, !full s)

/-- The new entry of R68: the largest aligned block that holds the line and overlaps no entry of the home. -/
def State.freshRegion (s : State) (home line : Nat) : Region :=
  let free (k : Nat) : Bool :=
    let b := line - line % 2 ^ k
    !(s.regions.any fun r => r.home = home && r.par = parOf line && r.base < b + 2 ^ k && b < r.base + 2 ^ r.size)
  let k := ((List.range 10).reverse.find? free).getD 0
  let now := s.tcAt home
  ⟨home, line - line % 2 ^ k, k, 4, max now (s.takenOver line), now, parOf line, now, now, 0, 0, 0, .invalid, false, 0⟩

/-- The entry that covers the line, made if need be; none when the directory is full. -/
def State.ensure (s : State) (home line : Nat) : State × Option Region :=
  match s.regionOf home line with
  | some r => (s, some r)
  | none =>
    match s.room home true with
    | (s, true) => (match s.regionOf home line with
        | some r => (s, some r)
        | none => let r := s.freshRegion home line; ({ s with regions := s.regions ++ [r] }, some r))
    | (s, false) => (s, none)

/-- The two halves of an entry (R69). -/
def Region.split (r : Region) : Region × Region :=
  let k := r.size - 1
  ({ r with size := k }, { r with size := k, base := r.base + 2 ^ k })

def State.splitEntry (s : State) (r : Region) : State :=
  { s.countHome r.home 4 with regions := s.regions.flatMap fun o => if sameEntry o r then [r.split.1, r.split.2] else [o] }

/-- A line-sized entry for the line, by halving towards it (R69); none when entries run out. -/
def State.lineEntry (s : State) (home line : Nat) : Nat → State × Option Region
  | 0 => (s, none)
  | fuel + 1 =>
    match s.ensure home line with
    | (s, none) => (s, none)
    | (s, some r) =>
      if r.size = 0 then (s, some r)
      else match s.room home true with
        | (s, false) => (s, none)
        | (s, true) => (s.splitEntry r).lineEntry home line fuel

/-- A write-wait event (R68, R69). -/
def State.writeWait (s : State) (home line : Nat) : State :=
  match s.regionOf home line with
  | none => s
  | some r =>
    let r' := { r with len := r.len - 1, lastwait := s.tcAt home }
    let s := (s.setRegion r').countHome home 3
    if r.size = 0 then s
    else match s.room home false with
      | (s, true) => s.splitEntry r'
      | (s, false) => s

/-! ### State of a line (R77) -/

def Region.state (r : Region) (now e : Nat) : LineSt :=
  if r.st ∈ [LineSt.excl, .fwd, .recall, .lost] then r.st else if now < r.lmax + e then .shared else .invalid

def State.lineState (s : State) (home line : Nat) : LineSt :=
  match s.regionOf home line with
  | none => .invalid
  | some r => r.state (s.tcAt home) (s.eAt home)

/-- Poison a grant of the line carries (R81, R40). -/
def State.poisonOf (s : State) (home line : Nat) : Nat :=
  match s.regionOf home line with
  | some r => if r.lost then 1 else if s.eccLines.contains line then 2 else 0
  | none => if s.eccLines.contains line then 2 else 0

/-- The perform time of the line's value, which a grant carries as W (R61). -/
def State.wOf (s : State) (line : Nat) : Nat := s.perf.get 0 line

/-- WMAX of the line's entry, or the perform time of the line's value where no entry covers it. -/
def State.wMaxOf (s : State) (home line : Nat) : Nat :=
  match s.regionOf home line with
  | some r => r.wmax
  | none => s.wOf line

/-! ### Watches (R83) -/

/-- Send WatchFire to the sender of a WatchSet. -/
def State.fire (s : State) (home : Nat) (q : Msg) (w reason : Nat) : State :=
  s.reply q home { id := 0, ty := .watchFire, src := 0, dst := 0, addr := q.addr, t1 := w, reason := reason }

/-- Fire and remove the WATCHes of a line that the mask touches. -/
def State.fireAll (s : State) (home line : Nat) (mask : BitVec 128) (w : Nat) : State :=
  let hit (x : Watch) : Bool := x.home = home && x.line = line && x.mask &&& mask ≠ 0
  let s := (s.watches.filter hit).foldl (fun s x => s.fire home x.msg w 1) s
  let s := { s with watches := s.watches.filter fun x => !hit x }
  match s.regionOf home line with
  | some r => s.setRegion { r with watches := ((s.watches.find? fun x => x.home = home && x.line = line).map (·.id)).getD 0 }
  | none => s

/-! ### Writes performing (R63, R66, R74) -/

/-- ATOM's operation on a 4- or 8-byte element (R352). -/
def atomInt (op : Nat) (sgn : Bool) (w m b : Nat) : Nat :=
  let toI (x : Nat) : Int := if sgn && 2 ^ (w - 1) ≤ x then (x : Int) - (2 ^ w : Nat) else x
  match op with
  | 0 => (m + b) % 2 ^ w
  | 1 => if toI m ≤ toI b then m else b
  | 2 => if toI m ≤ toI b then b else m
  | 3 => m &&& b
  | 4 => m ||| b
  | 5 => m ^^^ b
  | 6 => b
  | _ => if b ≤ m then 0 else m + 1

/-- IEEE minimum and maximum: a NaN operand gives NaN, and −0 is below +0 (log 17). -/
def ptMinMax (isMax : Bool) (x y : Pt) : Pt :=
  match x, y with
  | .nan, _ => .nan
  | _, .nan => .nan
  | x, y =>
    let le : Bool := x.key < y.key || (x.key = y.key && (x.neg? || !y.neg?))
    if isMax then (if le then y else x) else if le then x else y

/-- ATOMF's operation (R353): FOP on an IV64 element of 8 bytes or an FP32 element. A NaN is written in its canonical code
(R186). -/
def atomFlt (fop : Nat) (iv : Bool) (m b : Nat) : Nat :=
  if iv then
    let x := Iv.load .fp32 (m % 2 ^ 32) (m / 2 ^ 32)
    let y := Iv.load .fp32 (b % 2 ^ 32) (b / 2 ^ 32)
    if fop = 5 then (if y.isNai then (Iv.write .fp32 .nai).lo * (2 ^ 32 + 1) else b)
    else
      let r := (match fop with
        | 0 => Iv.add .fp32 x y
        | 1 => Iv.imin x y
        | 2 => Iv.imax x y
        | 3 => Iv.hull x y
        | _ => Iv.isect x y).write .fp32
      r.lo + r.hi * 2 ^ 32
  else
    let x := Fmt.fp32.decode m
    let y := Fmt.fp32.decode b
    match fop with
    | 0 => Fmt.fp32.encode (Pt.addP .fp32 x y)
    | 1 => Fmt.fp32.encode (ptMinMax false x y)
    | 2 => Fmt.fp32.encode (ptMinMax true x y)
    | _ => Fmt.fp32.encode y

/-- The new element under the OP field of R355. -/
def atomApply (op m b cmp : Nat) : Nat :=
  let code := op % 256
  let w := if op / 256 % 16 = 3 then 64 else 32
  if code < 8 then atomInt code (op / 4096 % 2 = 1) w m b
  else if code = 8 then (if m = cmp then b else m)
  else if code < 0x20 then atomFlt (code - 0x10) true m b
  else atomFlt (code - 0x20) false m b

/-- Bytes of the element OP names. -/
def atomSize (op : Nat) : Nat := if op / 256 % 16 = 3 then 8 else 4

/-- The bytes and mask an AtomReq leaves in its line, and the old value it returns. -/
def atomLine (m : Msg) (old : Line) : BitVec 128 × Line × Nat :=
  let n := atomSize m.op
  if m.noret && m.mask ≠ 0 then
    let new := (List.range (128 / n)).foldl (fun (acc : Nat) j =>
      if m.mask.getLsbD (j * n) then acc + atomApply m.op (lineNat old (j * n) n) (lineNat m.data (j * n) n) 0 * 256 ^ (j * n)
      else acc) 0
    (m.mask, BitVec.ofNat 1024 new, 0)
  else
    let off := m.addr % 128
    let v := lineNat old off n
    (byteMask off n, BitVec.ofNat 1024 (atomApply m.op v (lineNat m.data 0 n) (lineNat m.data 8 n) * 256 ^ off), v)

/-- A change of the line at perform time w; `whole` where the bytes are overwritten, and not the result of an operation on
what stood there: only that ends a poisoned line's poison (R41). -/
def State.performAt (s : State) (home line : Nat) (mask : BitVec 128) (d : Line) (w : Nat) (whole : Bool) : State :=
  if mask = 0 then s
  else
    let s := { s with
      mem := putLine s.mem line mask d
      perf := s.perf.put 0 line w
      eccLines := if whole && mask = BitVec.allOnes 128 then s.eccLines.filter (· ≠ line) else s.eccLines }
    let s := s.touch line mask true
    let s := match s.regionOf home line with
      | some r => s.setRegion { r with wmax := max r.wmax w, quiet := max r.quiet w }
      | none => s
    s.fireAll home line mask w

/-! ### Serving requests -/

def State.queueOf (s : State) (line : Nat) : LineQ := (s.lineq.find? (·.line = line)).getD ⟨line, [], [], false⟩

def State.setQueue (s : State) (q : LineQ) : State :=
  let rest := s.lineq.filter (·.line ≠ q.line)
  { s with lineq := if q.q.isEmpty && q.held.isEmpty then rest else rest ++ [q] }

/-- R61: a read lease, or a single-use grant where `once`. -/
def State.grant (s : State) (home line : Nat) (q : Msg) (once : Bool) (fwdW : Option Nat) (poison : Nat) : State :=
  let now := s.tcAt home
  let (s, r) := if once then (s, s.regionOf home line) else s.ensure home line
  let once := once || r.isNone
  let w := fwdW.getD (s.wOf line)
  let exp := match r with
    | some r => if once then 0 else max now q.t1 + 64 * 2 ^ r.len
    | none => 0
  let s := match r with
    | some r => if once then s else s.setRegion { r with lmax := max r.lmax exp, st := if r.busy then r.st else .shared }
    | none => s
  let d : Line := if fwdW.isSome then 0 else s.lineData line
  let s := s.reply q home { id := 0, ty := .readGrant, src := 0, dst := 0, addr := lineAddr line, t1 := w, t2 := exp, once := once,
                            fwd := fwdW.isSome, poison := poison, data := d }
  if fwdW.isSome then s else s.touchRead line

/-- Send Forward or Recall to the holder; a Forward names the reader, whose tag the data will carry. -/
def State.ask (s : State) (home : Nat) (r : Region) (ty : MType) (reader : Msg) : State :=
  s.post { id := 0, ty := ty, src := home, dst := s.agentDst r.agent (lineAddr r.base), agent := if ty = .forward then reader.agent else homeAgent home,
           tag := reader.tag, addr := lineAddr r.base, inc := s.incOf (homeAgent home) }

/-- The perform time of R63. -/
def State.performTime (s : State) (home line : Nat) : Nat :=
  match s.regionOf home line with
  | none => if s.tcAt home < s.takenOver line + s.eAt home then s.takenOver line + s.eAt home else s.tcAt home
  | some r => max (max (s.tcAt home) (max r.lmax (s.takenOver line) + s.eAt home)) r.wmax

/-- The perform time was raised by a lease. -/
def State.waits (s : State) (home line : Nat) : Bool :=
  match s.regionOf home line with
  | none => false
  | some r => s.tcAt home < max r.lmax (s.takenOver line) + s.eAt home

/-- Hold a write to its perform time. -/
def State.hold (s : State) (home line : Nat) (m : Msg) : State :=
  let w := s.performTime home line
  let s := if s.waits home line then s.writeWait home line else s
  let q := s.queueOf line
  s.setQueue { q with held := q.held ++ [⟨m, w⟩] }

/-- The line waits for a directory entry, behind those that have waited longer (R71). -/
def State.wantLine (s : State) (line : Nat) : State := if s.wantEntry.contains line then s else { s with wantEntry := s.wantEntry ++ [line] }

/-- A line-sized entry for an ExclReq, a WatchSet or a LOST flag: lines that wait for one get theirs in order of arrival
(R71). -/
def State.takeEntry (s : State) (home line : Nat) : State × Option Region :=
  let have' : Bool := (s.regionOf home line).any fun r => r.size = 0
  let first : Bool := ((s.wantEntry.find? fun l => s.homeOf (lineAddr l) = home).getD line) = line
  if !have' && !first then (s.wantLine line, none)
  else match s.lineEntry home line 12 with
    | (s, some r) => ({ s with wantEntry := s.wantEntry.filter (· ≠ line) }, some r)
    | (s, none) => (s.wantLine line, none)

/-- The agent holds an exclusive lease at the home. -/
def State.holdsAt (s : State) (home agent inc : Nat) : Bool :=
  s.regions.any fun r => r.home = home && r.st ∈ [LineSt.excl, .fwd, .recall] && r.agent = agent && r.inc = inc

/-- R72. A grant that has waited on LMAX is a write-wait event; the holder's 80 µs start with its first lease at the home
(R79). -/
def State.grantExcl (s : State) (home line : Nat) (m : Msg) : State × Bool :=
  match s.takeEntry home line with
  | (s, none) => (s, false)
  | (s, some r) =>
    let now := s.tcAt home
    let q := s.queueOf line
    if now < max r.lmax (s.takenOver line) + s.eAt home then (s.setQueue { q with waited := true }, false)
    else
      let s := if q.waited then s.writeWait home line else s
      let r := (s.regionOf home line).getD r
      let s := if s.holdsAt home m.agent m.inc then s
        else { s with renewals := (s.renewals.filter fun (x : Nat × Nat × Nat × Nat) => !(x.1 = home && x.2.1 = m.agent && x.2.2.1 = m.inc)) ++ [(home, m.agent, m.inc, now)] }
      let s := s.setRegion { r with st := .excl, agent := m.agent, inc := m.inc, xexp := now + 100000, quiet := max r.quiet now }
      ((s.reply m home { id := 0, ty := .exclGrant, src := 0, dst := 0, addr := lineAddr line, t1 := r.wmax, t2 := now + 100000,
                         poison := s.poisonOf home line, data := s.lineData line }).touchRead line, true)

/-- R83: record a WATCH or fire at once; false while no entry can be had. -/
def State.setWatch (s : State) (home line : Nat) (m : Msg) : State × Bool :=
  let lost := match s.regionOf home line with
    | some r => r.lost
    | none => false
  if lost then (s.fire home m 0 8, true)
  else if m.t1 < s.wMaxOf home line then (s.fire home m (s.wMaxOf home line) 1, true)
  else if 16 ≤ (s.watches.filter (·.line = line)).length || 4096 ≤ (s.watches.filter (·.home = home)).length then (s.fire home m 0 2, true)
  else match s.takeEntry home line with
    | (s, none) => (s, false)
    | (s, some r) =>
      let s := { s with watches := s.watches ++ [Watch.mk s.nextId home line m.mask (s.tcAt home) m], nextId := s.nextId + 1 }
      (s.setRegion { r with watches := if r.watches = 0 then s.nextId - 1 else r.watches }, true)

/-- The type of a request's answer (R85). -/
def Msg.answer (m : Msg) : MType :=
  match m.ty with
  | .readReq => .readGrant
  | .exclReq => .exclGrant
  | .watchSet => .watchFire
  | .clean => .cleanAck
  | .lostClear => .lostAnswer
  | .atomReq => if m.noret then .storeAck else .atomAck
  | _ => .storeAck

/-- An answer with FLAGS.REFUSED and no data (R59, R79), or an error response (R37). A StoreAck to a thread's store never carries
the flag (R346): it is acknowledged, and writes nothing (DEDUCED, log 50). -/
def State.refuse (s : State) (home : Nat) (m : Msg) : State :=
  let plain : Bool := agentKind m.agent = 0 && m.answer = .storeAck
  s.reply m home { id := 0, ty := m.answer, src := 0, dst := 0, addr := m.addr, refused := !plain, t1 := if plain then s.tcAt home else 0 }

/-- This incarnation is refused at the home (R79). -/
def State.isDead (s : State) (home agent inc : Nat) : Bool := s.dead.contains (home, agent, inc) || s.dead.contains (0, agent, inc)

/-! ### Lost lines (R79 to R82) -/

/-- LostNotice to the companion, and to the agent it names (R85). -/
def State.lostNotice (s : State) (home addr agent inc ty cause : Nat) : State :=
  let m : Msg := { id := 0, ty := .lostNotice, src := home, dst := s.halfOf addr, agent := agent, inc := inc, addr := addr,
                   t1 := s.tcAt home, op := ty * 256 + cause }
  let s := s.post m
  if agent = 0 || agentKind agent = 6 then s else s.post { m with dst := agentUnit agent }

/-- Flag a line LOST; false while no entry can be had (R69, R82). -/
def State.flagLost (s : State) (home line : Nat) (cause : Nat) : State × Bool :=
  match s.takeEntry home line with
  | (s, none) => (s, false)
  | (s, some r) =>
    (((s.setRegion { r with lost := true, st := .lost, agent := 0, inc := 0, xexp := 0 }).countHome home 7).lostNotice home (lineAddr line) r.agent r.inc 1 cause, true)

/-- R77's columns for requests: serve the head request of a line; the flag says that it is done with. A dead incarnation is
refused whatever it asks (R79), and so is an address that is not backed (R37). -/
def State.serveHead (s : State) (home line : Nat) (m : Msg) : State × Bool :=
  let st := s.lineState home line
  let busy : Bool := st = .fwd || st = .recall
  if m.ty = .lostNotice then s.flagLost home line (m.op % 256)
  else if s.isDead home m.agent m.inc || (isCompanion m.addr && !s.backed m.addr) then (s.refuse home m, true)
  else match m.ty with
  | .readReq =>
    if !m.once && !mayLease m.agent then (s.refuse home m, true)
    else if busy then (s, false)
    else if st = .excl then
      (match s.regionOf home line with
        | some r => (((s.ask home r .forward m).setRegion { r with st := .fwd }).countHome home 6, false)
        | none => (s, false))
    else (s.grant home line m m.once none (s.poisonOf home line), true)
  | .exclReq =>
    if !mayExcl m.agent || st = .lost then (s.refuse home m, true)
    else if busy then (s, false)
    else if st = .excl then
      (match s.regionOf home line with
        | some r => ((s.ask home r .recall m).setRegion { r with st := .recall }, false)
        | none => (s, false))
    else s.grantExcl home line m
  | .watchSet => if !mayWatch m.agent then (s.refuse home m, true) else if busy then (s, false) else s.setWatch home line m
  | .lostClear =>
    if busy then (s, false)
    else match s.regionOf home line with
      | some r =>
        if r.lost then
          ((s.setRegion { r with lost := false, st := if r.st = .lost then .invalid else r.st }).reply m home
            { id := 0, ty := .lostAnswer, src := 0, dst := 0, addr := m.addr, t1 := 1 }, true)
        else (s.reply m home { id := 0, ty := .lostAnswer, src := 0, dst := 0, addr := m.addr }, true)
      | none => (s.reply m home { id := 0, ty := .lostAnswer, src := 0, dst := 0, addr := m.addr }, true)
  | .clean =>
    if busy then (s, false)
    else ((s.cleanLine line).reply m home { id := 0, ty := .cleanAck, src := 0, dst := 0, addr := m.addr }, true)
  | _ => -- a store, atomic, RED or CAS
    if busy then (s, false)
    else if st = .excl then
      (match s.regionOf home line with
        | some r => ((s.ask home r .recall m).setRegion { r with st := .recall }, false)
        | none => (s, false))
    else (s.hold home line m, true)

/-- Serve the line's requests in order until one must wait (R60); none is served while the site may not use its HBM (R39). -/
def State.pump (s : State) (home line : Nat) : Nat → State
  | 0 => s
  | fuel + 1 =>
    let q := s.queueOf line
    match q.q with
    | [] => s
    | m :: rest =>
      if !q.held.isEmpty || !s.hbmFree home line then s
      else
        let (s', done) := s.serveHead home line m
        if done then
          let q' := s'.queueOf line
          ({ s' with wantEntry := s'.wantEntry.filter (· ≠ line) }.setQueue { q' with q := rest, waited := false }).pump home line fuel
        else s'

def State.pumpLine (s : State) (home line : Nat) : State := s.pump home line ((s.queueOf line).q.length + 1)

/-! ### Timed events that are due when a message arrives (R77, R79, R80) -/

/-- R80: reversion at XEXP. -/
def State.revert (s : State) (home : Nat) (r : Region) : State :=
  let line := r.base
  let cause := if s.isDead home r.agent r.inc then 1 else 0
  let s := ((s.setRegion { r with lost := true, st := .lost, agent := 0, inc := 0, xexp := 0 }).countHome home 7).lostNotice home (lineAddr line) r.agent r.inc 1 cause
  let q := s.queueOf line
  match r.st, q.q with
  | .fwd, rd :: rest => ((s.setQueue { q with q := rest }).grant home line rd rd.once none 1).pumpLine home line
  | _, _ => s.pumpLine home line

/-- A Writeback that ends the lease is held at the home (R77). -/
def State.endingHeld (s : State) (line : Nat) : Bool :=
  (s.queueOf line).held.any fun h => h.msg.ty = .writeback && (h.msg.release || h.msg.fwd)

/-- The line's XEXP has been reached with nothing that holds the reversion off. -/
def State.xexpDue (s : State) (home : Nat) (r : Region) : Bool :=
  r.home = home && r.size = 0 && r.st ∈ [LineSt.excl, .fwd, .recall] && r.xexp ≤ s.tcAt home && !s.endingHeld r.base

/-- 80 µs have passed without a Renew of a holder (R79). -/
def State.deadDue (s : State) (home agent inc : Nat) : Bool :=
  !s.isDead home agent inc && s.holdsAt home agent inc && s.renewals.any fun x => x.1 = home && x.2.1 = agent && x.2.2.1 = inc && x.2.2.2 + 80000 ≤ s.tcAt home

/-- The home declares a holder dead and tells the companion. -/
def State.declareHolder (s : State) (home agent inc : Nat) : State := { s with dead := s.dead ++ [(home, agent, inc)] }.lostNotice home 0 agent inc 2 0

/-- What is due before a message of an agent about a line is handled: a timed event at the tick of an arrival comes first
(R77). -/
def State.timely (s : State) (home line : Nat) (m : Msg) : State :=
  let s := if s.deadDue home m.agent m.inc then s.declareHolder home m.agent m.inc else s
  match s.regionOf home line with
  | some r => if s.xexpDue home r then s.revert home r else s
  | none => s

/-- A request arrives at its home. -/
def State.arrive (s : State) (m : Msg) : State :=
  let line := lineOf m.addr
  let s := s.timely m.dst line m
  let s := if m.ty = .readReq then s.countHome m.dst 1 else if m.ty = .storeReq then s.countHome m.dst 2 else s
  let q := s.queueOf line
  (s.setQueue { q with q := q.q ++ [m] }).pumpLine m.dst line

/-- R74, R77: a Writeback is served when it arrives, if its sender holds the lease. -/
def State.writeback (s : State) (m : Msg) : State :=
  let line := lineOf m.addr
  let home := m.dst
  let s := s.timely home line m
  match s.regionOf home line with
  | some r =>
    if r.size = 0 && r.st ∈ [LineSt.excl, .fwd, .recall] && r.agent = m.agent && r.inc = m.inc && !s.isDead home m.agent m.inc then
      if m.mask = 0 then
        let q := s.queueOf line
        s.setQueue { q with held := q.held ++ [⟨m, s.tcAt home⟩] }
      else s.hold home line m
    else s.refuse home m
  | none => s.refuse home m

/-- After a Writeback has performed: R75's grant, R76's queue, or the end of the lease. -/
def State.afterWriteback (s : State) (home line : Nat) (m : Msg) (w : Nat) : State :=
  match s.regionOf home line with
  | none => s
  | some r =>
    let free : Region := { r with st := .invalid, agent := 0, inc := 0, xexp := 0 }
    let q := s.queueOf line
    match r.st, q.q with
    | .fwd, rd :: rest =>
      if m.fwd then ((s.setRegion free).setQueue { q with q := rest }).grant home line rd rd.once (some (if m.mask = 0 then s.wOf line else w)) (s.poisonOf home line)
      else if m.release then ((s.setRegion free).setQueue { q with q := rest }).grant home line rd rd.once none (s.poisonOf home line)
      else s
    | .lost, _ => s
    | _, _ => if m.release || m.fwd then s.setRegion free else s

/-- The held write performs: the bytes change, WATCHes fire, the acknowledgement leaves, and the line goes on. An operation that
returns a value reads the line; a RED only adds its bytes to the slice (R43). -/
def State.perform (s : State) (home line : Nat) (h : Held) : State :=
  let q := s.queueOf line
  let s := s.setQueue { q with held := q.held.filter fun o => o.msg.id ≠ h.msg.id }
  let m := h.msg
  let poison := s.poisonOf home line
  let ack (ty : MType) (v : Nat) : Msg :=
    { id := 0, ty := ty, src := 0, dst := 0, addr := m.addr, t1 := h.w, poison := if ty = .atomAck then poison else 0, data := BitVec.ofNat 1024 v }
  let s := match m.ty with
    | .atomReq =>
      let (mask, d, old) := atomLine m (s.lineData line)
      let s := if m.noret then s else s.touchRead line
      (s.performAt home line mask d h.w false).reply m home (ack m.answer old)
    | .writeback =>
      let s := (s.performAt home line m.mask m.data h.w true).reply m home (ack .storeAck 0)
      s.afterWriteback home line m h.w
    | _ => (s.performAt home line m.mask m.data h.w true).reply m home (ack .storeAck 0)
  s.pumpLine home line

/-- A line's home memory has failed (R82): the flag is set at once, or in the line's order once an entry can be had. -/
def State.memoryFailed (s : State) (home line cause : Nat) : State :=
  match s.flagLost home line cause with
  | (s, true) => s.pumpLine home line
  | (s, false) =>
    let q := s.queueOf line
    s.setQueue { q with q := { id := s.nextId, ty := .lostNotice, src := home, dst := home, addr := lineAddr line, op := cause } :: q.q }

end Sys2Proof.Machine
end

