-- ==== Sys2Proof/Machine/Translate.lean ====
section
/-! DEFINITION. Address translation (R44 to R55): page-table entries, translation caches, walks and fault records. -/

namespace Sys2Proof.Machine

/-! ### Page-table entries (R45 to R48) -/

/-- What a walk finds. -/
inductive Found where
  | leaf (bits pa : Nat) (w x pin g : Bool)
  | bad (cause : Nat) (pin : Bool) (bits : Nat)
  | next (pa : Nat)
deriving DecidableEq, Repr

def bitsOf (n lo w : Nat) : Nat := n / 2 ^ lo % 2 ^ w

/-- log2 of the page a leaf at a level maps (R45). -/
def levelBits (level : Nat) : Nat := if level = 2 then 30 else if level = 3 then 21 else 16

/-- The leaf's physical page base, or the CAUSE of R48. A near page of 1 GiB that straddles L_TOP is backed below it only: an
access at or above it has CAUSE 5, for its own 64 KiB (R35, R36). -/
def State.leaf (s : State) (level va e : Nat) : Found :=
  let bits := levelBits level
  let frame := bitsOf e 16 31
  let site := bitsOf e 8 7
  let mode := bitsOf e 6 2
  let pin : Bool := bitsOf e 5 1 = 1
  let low := frame % 2 ^ (bits - 16) ≠ 0
  let bad (c : Nat) : Found := .bad c pin bits
  let good (pa : Nat) : Found := .leaf bits pa (bitsOf e 1 1 = 1) (bitsOf e 2 1 = 1) pin (bitsOf e 3 1 = 1)
  if bitsOf e 47 17 ≠ 0 || bitsOf e 15 1 ≠ 0 || low then bad 3
  else match mode with
    | 0 =>
      if frame / 2 ^ 30 ≠ 0 then bad 3
      else if site ≠ 0 then bad 4
      else if s.boundary ≤ localAddr (frame * 2 ^ 16) then bad 5
      else good (frame * 2 ^ 16)
    | 1 =>
      if frame / 2 ^ 23 ≠ 0 then bad 3
      else if frame * 2 ^ 16 < s.boundary || lTop ≤ frame * 2 ^ 16 then bad 5
      else if lTop ≤ frame * 2 ^ 16 + va % 2 ^ bits then .bad 5 pin 16
      else good (2 ^ 46 + site * 2 ^ 39 + frame * 2 ^ 16)
    | 2 => if site ≠ 0 then bad 4 else good (2 ^ 47 + frame * 2 ^ 16)
    | _ => bad 4

/-- One entry (R46 to R49): invalid, malformed, a table, or a leaf. Where no leaf gives the page's size the fault is of the
64 KiB page (DESIGN CHOICE, log 71), and bits [55:48] of a table's entry, which PA[47:8] does not fill, must be zero (DESIGN
CHOICE, log 72). -/
def State.entry (s : State) (level va e : Nat) : Found :=
  if e % 2 = 0 then .bad 0 false 16
  else if bitsOf e 4 1 = 1 then (if level = 1 then .bad 3 (bitsOf e 5 1 = 1) 16 else s.leaf level va e)
  else if level = 4 || bitsOf e 48 16 ≠ 0 || bitsOf e 5 3 ≠ 0 || bitsOf e 1 3 ≠ 0 then .bad 3 false 16
  else .next (bitsOf e 8 40 * 256)

/-- Index of a level and width of its table (R45). -/
def levelIndex (level va : Nat) : Nat :=
  match level with
  | 1 => bitsOf va 39 17
  | 2 => bitsOf va 30 9
  | 3 => bitsOf va 21 9
  | _ => bitsOf va 16 5

/-- VA bits at and above a level's index. -/
def levelPrefix (level va : Nat) : Nat := va / 2 ^ (if level = 1 then 39 else if level = 2 then 30 else if level = 3 then 21 else 16)

/-- The tables the die holds are capped at 2,048 entries, the oldest going first (R50; log 24). -/
def State.capTables (s : State) (die : Nat) : State :=
  let mine := s.tables.filter (·.die = die)
  let gone := mine.take (mine.length - 2048)
  { s with tables := s.tables.filter fun t => !gone.contains t }

/-- Keep a non-leaf entry of level 2 or 3 (R50). -/
def State.keepTable (s : State) (die asid level va pa : Nat) : State :=
  if level = 2 || level = 3 then
    { s with tables := s.tables.filter (fun (t : Table) => !(t.die = die && t.asid = asid && t.level = level && t.index = levelPrefix level va)) ++
        [⟨die, asid, level, levelPrefix level va, pa⟩] : State }.capTables die
  else s

/-- Where a walk stands: at its end, or before a line of a table that it has not read. -/
inductive Step' where
  | found (f : Found)
  | read (line : Nat)
deriving DecidableEq, Repr

/-- Go through the entries of the lines that have been read, from a level's table on. An entry whose line is refused or
carries poison ends the walk as a malformed one does (DESIGN CHOICE, log 70). A table's address is used as it stands where it is
not aligned to the table's size (DESIGN CHOICE, log 72). -/
def State.walkFrom (s : State) (w : Walk) (level table : Nat) : Nat → State × Step'
  | 0 => (s, .found (.bad 3 false 16))
  | fuel + 1 =>
    let a := table + 8 * levelIndex level w.va
    match w.rd.find? fun p => p.line = lineOf a with
    | none => (s, .read (lineOf a))
    | some p =>
      if p.refused || p.poison ≠ 0 then (s, .found (.bad 3 false 16))
      else match s.entry level w.va (lineNat p.data (a % 128) 8) with
        | .next pa => (s.keepTable w.die w.asid level w.va pa).walkFrom w (level + 1) pa fuel
        | f => (s, .found f)

/-- The walk from the deepest table held (R50), or from the root where it must read every level (R481). -/
def State.walkPage (s : State) (w : Walk) : State × Step' :=
  let held (level : Nat) : Option Table :=
    if w.once then none else s.tables.find? fun t => t.die = w.die && t.asid = w.asid && t.level = level && t.index = levelPrefix level w.va
  match held 3 with
  | some t => s.walkFrom w 4 t.pa 4
  | none => match held 2 with
    | some t => s.walkFrom w 3 t.pa 4
    | none =>
      let root := s.roots.get 0 w.asid
      if root = 0 then (s, .found (.bad 0 false 16)) else s.walkFrom w 1 root 4

/-! ### Translation caches (R50) -/

/-- DIE of bridge BN1's translation unit (R407). -/
abbrev bn1 : Nat := 0x81

/-- The translation serves the address: a near page's part at and above L_TOP is not addressable (R35). -/
def Tlb.serves (t : Tlb) (va : Nat) : Bool := t.pa / 2 ^ 46 ≠ 1 || localAddr (t.pa + va % 2 ^ t.bits) < lTop

def Tlb.hits (t : Tlb) (level die unit asid va : Nat) : Bool :=
  t.level = level && t.die = die && t.unit = unit && t.asid = asid && va / 2 ^ t.bits = t.page && t.serves va

/-- Sets and ways of a cache (R50): the core's of 64 entries is fully associative, the cluster's has 128 sets of 8, the die's
2,048 of 16; BN1's unit holds 1,024 entries (R407), in one set (DESIGN CHOICE, log 24). -/
def tlbSets (level die : Nat) : Nat × Nat := if level = 0 then (1, 64) else if level = 1 then (128, 8) else if die = bn1 then (1, 1024) else (2048, 16)

/-- The set of a page: its number modulo the sets (log 24). -/
def Tlb.set (t : Tlb) : Nat := t.page % (tlbSets t.level t.die).1

/-- Insert a translation; a full set loses its oldest entry of an unpinned page, or its oldest (R49; log 24). -/
def State.tlbPut (s : State) (t : Tlb) : State :=
  let same (o : Tlb) : Bool := o.level = t.level && o.die = t.die && o.unit = t.unit && o.set = t.set
  let l := s.tlbs.filter fun o => !(same o && o.asid = t.asid && o.bits = t.bits && o.page = t.page)
  let mine := l.filter same
  let l := if mine.length < (tlbSets t.level t.die).2 then l
    else match (mine.find? fun o => !o.pin) <|> mine.head? with
      | some v => l.filter fun o => o ≠ v
      | none => l
  { s with tlbs := l ++ [t] }

def permits (kind : Nat) (w x : Bool) : Bool :=
  if kind = kStore || kind = kAtomic || kind = kCopyDst || kind = kSpanWrite then w else if kind = kFetch then x else true

/-- What translation gives an access. -/
inductive Xl where
  | ok (pa : Nat)
  | walk (id : Nat)
  | page (fault : Nat)
  | declined (fault cause : Nat)
deriving DecidableEq, Repr

def FaultRec.meets (f : FaultRec) (die asid kind va : Nat) : Bool :=
  f.die = die && f.asid = asid && f.kind = kind && f.va = va / 2 ^ f.bits * 2 ^ f.bits

/-- Miss: join the walk for the page, or start one (R51). -/
def State.startWalk (s : State) (die asid kind va : Nat) : State × Nat :=
  match s.walks.find? fun w => w.die = die && w.asid = asid && w.va / 2 ^ 16 = va / 2 ^ 16 with
  | some w =>
    if w.kinds.contains kind then (s, w.id)
    else ({ s with walks := s.walks.map fun o => if o.id = w.id then { o with kinds := o.kinds ++ [kind] } else o }, w.id)
  | none => ({ (s.countDie die 1 1).countDie die 2 1 with walks := s.walks ++ [⟨s.nextId, die, asid, va, [kind], false, 0, [], 0⟩], nextId := s.nextId + 1 }, s.nextId)

/-- A declined access has ended. A record that was never written is its own, and goes with it; others end with the reply. -/
def State.spent (s : State) (id : Nat) : State := { s with faults := s.faults.filter fun f => !(f.id = id && f.declined && !f.written) }

/-- Translate an access through the caches of its core (R50); units without a core's cache use the die's. -/
def State.translate (s : State) (die core asid kind va : Nat) : State × Xl :=
  match s.faults.find? fun f => f.meets die asid kind va with
  | some f => (s, if f.declined then .declined f.id f.cause else .page f.id)
  | none =>
    let look (level unit : Nat) : Option Tlb := s.tlbs.find? fun t => t.hits level die unit asid va && permits kind t.w t.x
    let out (t : Tlb) : Xl := .ok (t.pa + va % 2 ^ t.bits)
    match look 0 core with
    | some t => (s, out t)
    | none => match look 1 (core / 4) with
      | some t => (s.tlbPut { t with level := 0, unit := core }, out t)
      | none => match look 2 0 with
        | some t => ((s.tlbPut { t with level := 1, unit := core / 4 }).tlbPut { t with level := 0, unit := core }, out t)
        | none => let r := s.startWalk die asid kind va; (r.1, .walk r.2)

/-- Translate an access of a cluster's unit, through the cluster's and the die's caches (R50, R312). -/
def State.translateUnit (s : State) (die cluster asid kind va : Nat) : State × Xl :=
  match s.faults.find? fun f => f.meets die asid kind va with
  | some f => (s, if f.declined then .declined f.id f.cause else .page f.id)
  | none =>
    let look (level unit : Nat) : Option Tlb := s.tlbs.find? fun t => t.hits level die unit asid va && permits kind t.w t.x
    let out (t : Tlb) : Xl := .ok (t.pa + va % 2 ^ t.bits)
    match look 1 cluster with
    | some t => (s, out t)
    | none => match look 2 0 with
      | some t => (s.tlbPut { t with level := 1, unit := cluster }, out t)
      | none => let r := s.startWalk die asid kind va; (r.1, .walk r.2)

/-! ### Faults (R53 to R55) -/

/-- The fault ring's record of R54, as bytes. -/
def FaultRec.bytes (f : FaultRec) : Nat :=
  f.va + f.asid * 2 ^ 64 + f.die * 2 ^ 80 + f.kind * 2 ^ 88 + f.cause * 2 ^ 96 + f.tc % 2 ^ 64 * 2 ^ 128 + f.token % 2 ^ 32 * 2 ^ 192

abbrev rSpanRoute : Nat := 0x20
abbrev rFqBase : Nat := 0x39000
abbrev rFqLog : Nat := 0x39008
abbrev rFqTail : Nat := 0x39010
abbrev rFqHead : Nat := 0x39018

def State.reg (s : State) (off : Nat) : Nat := s.service.get 0 off
def State.setReg (s : State) (off v : Nat) : State := { s with service := s.service.put 0 off v }

/-- There is room in a ring (R480); a ring whose size has not been written has none (log 40). -/
def State.ringFree (s : State) (tail head log : Nat) : Bool := 6 ≤ s.reg log && s.reg tail - s.reg head < 2 ^ s.reg log

/-- A request of a unit leaves, with the record that waits for its answer; `die` is the unit's translation unit. -/
def State.sendAs (s : State) (agent die core : Nat) (u : User) (m : Msg) : State :=
  let tag := s.nextId
  let m := { m with id := tag, tag := tag, src := agentUnit agent, dst := s.homeOf m.addr, agent := agent, inc := s.incOf agent }
  { s with
    nextId := tag + 1
    net := s.net ++ [m]
    reqs := s.reqs ++ [⟨tag, die, core, agentKind agent, lineOf m.addr, m.t1, m.once, [u], m.ty = .readReq, 0, none, none⟩] }

/-- The walker n of a translation unit as an agent (R58, R407). -/
def walkerAgent (die n : Nat) : Nat := if die = bn1 then agentId 9 1 (n + 1) else agentId 4 die n

/-- A store of n bytes inside one line. -/
def storeMsg (pa n v : Nat) : Msg :=
  { id := 0, ty := .storeReq, src := 0, dst := 0, addr := lineAddr (lineOf pa), mask := byteMask (pa % 128) n
    data := BitVec.ofNat 1024 (v % 256 ^ n * 256 ^ (pa % 128)) }

def State.modFault (s : State) (id : Nat) (f : FaultRec → FaultRec) : State := { s with faults := s.faults.map fun o => if o.id = id then f o else o }

/-- Write a fault record if the ring has room; else it is held (R53). Records go to the ring one at a time, each by a store of
its translation unit's first walker (DESIGN CHOICE, log 25). -/
def State.writeFault (s : State) (id : Nat) : State :=
  match s.faults.find? (·.id = id) with
  | none => s
  | some f =>
    if f.written || f.declined || (s.faults.any fun o => o.tag ≠ 0 && !o.written) || !s.ringFree rFqTail rFqHead rFqLog then s
    else
      let slot := s.reg rFqTail % 2 ^ s.reg rFqLog
      (s.modFault id fun o => { o with tag := s.nextId }).sendAs (walkerAgent f.die 0) f.die 0 (.fault id) (storeMsg (s.reg rFqBase + 32 * slot) 32 f.bytes)

/-- The store of a fault record has performed: FQ_TAIL rises (R480), and the oldest record that is held follows. A refused store
is tried again. -/
def State.faultPut (s : State) (id : Nat) (refused : Bool) : State :=
  if refused then s.modFault id fun o => { o with tag := 0 }
  else
    let s := (s.modFault id fun o => { o with written := true }).setReg rFqTail (s.reg rFqTail + 1)
    match s.faults.find? fun o => !o.written && !o.declined with
    | some o => s.writeFault o.id
    | none => s

/-- Make a fault record for a page and an access kind (R53); an access of a pinned page is declined at once (R49), and so is one
of a kind that makes no record. -/
def State.newFault (s : State) (die asid va bits kind cause : Nat) (pinned : Bool) : State :=
  if s.faults.any fun f => f.meets die asid kind va then s
  else
    let id := s.nextId
    let seq := s.reg (0xfff00000 + die)
    let quiet : Bool := pinned || kQuiet ≤ kind
    let rec' : FaultRec := ⟨id, die, asid, va / 2 ^ bits * 2 ^ bits, bits, kind, if pinned then 11 else cause, s.tcAt (if die < 128 then die else 257),
      die * 2 ^ 24 + seq % 2 ^ 24, 0, false, quiet⟩
    let s := { s with faults := s.faults ++ [rec'], nextId := id + 1 }
    if quiet then s else (s.setReg (0xfff00000 + die) (seq + 1)).writeFault id

/-- Remove what a page's translations have in the caches of the dies, and the results of its walks in flight, which start again
(R52, R481). -/
def State.purge (s : State) (dies : Nat → Bool) (hit : Nat → Nat → Bool) (asid : Nat) (keepGlobal : Bool) : State :=
  { s with
    tlbs := s.tlbs.filter fun t => !(dies t.die && t.asid = asid && !(keepGlobal && t.g) && hit (t.page * 2 ^ t.bits) (2 ^ t.bits))
    tables := s.tables.filter fun t => !(dies t.die && t.asid = asid &&
      hit (t.index * 2 ^ (if t.level = 2 then 30 else 21)) (2 ^ (if t.level = 2 then 30 else 21)))
    walks := s.walks.map fun (w : Walk) => if dies w.die && w.asid = asid && hit (w.va / 2 ^ 16 * 2 ^ 16) (2 ^ 16) then { w with rd := [], tag := 0 } else w }

/-- Walks of a page wait for one of the unit's walkers, 64 on a die and 4 at BN1, in order of arrival (R51, R407). -/
def State.walkerFree (s : State) (w : Walk) : Bool :=
  (s.walks.filter fun o => o.die = w.die && o.id < w.id).length < (if w.die = bn1 then 4 else 64)

/-- The lowest walker of a unit that carries out no walk. -/
def State.freeWalker (s : State) (die : Nat) : Nat :=
  ((List.range 64).find? fun n => !(s.walks.any fun w => w.die = die && w.unit = n + 1)).getD 0

/-- The walk's next line is read from its home, with a read lease, or with a single-use read after a Resolve and at BN1, whose
agents take no leases (R51, R59, R481). -/
def State.walkRead (s : State) (w : Walk) (line : Nat) : State :=
  if w.tag ≠ 0 then s
  else
    let n := if w.unit = 0 then s.freeWalker w.die else w.unit - 1
    let s := { s with walks := s.walks.map fun (o : Walk) => if o.id = w.id then { o with unit := n + 1, tag := s.nextId } else o }
    s.sendAs (walkerAgent w.die n) w.die 0 (.walk w.id) { id := 0, ty := .readReq, once := w.once || w.die = bn1, src := 0, dst := 0, addr := lineAddr line }

/-- A line of a table has come; a lease that has run out binds nothing, and the line is read again (R61). -/
def State.walkGot (s : State) (id tag : Nat) (p : Piece) : State :=
  { s with walks := s.walks.map fun (w : Walk) =>
      if w.id = id && w.tag = tag then
        { w with tag := 0, rd := if p.refused || p.poison ≠ 0 || s.tcAt (if w.die = bn1 then 257 else w.die) < p.upto then w.rd ++ [p] else w.rd }
      else w }

/-- Carry a walk on: it asks for its next line, or stands at its end. -/
def State.walkGo (s : State) (id : Nat) : State × Option (Walk × Found) :=
  match s.walks.find? (·.id = id) with
  | none => (s, none)
  | some w =>
    if !s.walkerFree w || s.dieDown w.die || w.tag ≠ 0 then (s, none)
    else match s.walkPage w with
      | (s, .read line) => (s.walkRead w line, none)
      | (s, .found f) => (s, some (w, f))

/-- The walk's result enters the die's caches, and faults of the kinds that wait are raised (R48, R49, R53). -/
def State.walkDone (s : State) (w : Walk) (f : Found) : State :=
  let s := { s with walks := s.walks.filter (·.id ≠ w.id) }
  match f with
  | .leaf bits pa wr x pin g =>
    let s := s.tlbPut ⟨2, w.die, 0, w.asid, bits, w.va / 2 ^ bits, pa, wr, x, pin, g⟩
    w.kinds.foldl (fun s k => if permits k wr x then s else s.newFault w.die w.asid w.va bits k (if k = kFetch then 2 else 1) pin) s
  | .bad cause pin bits => w.kinds.foldl (fun s k => s.newFault w.die w.asid w.va bits k cause pin) s
  | .next _ => s

/-! ### Accesses of dispatchers and of the distributor (R53, R401, R407, R434) -/

/-- Where an access of a unit leads. -/
inductive Reach where
  | at (pa : Nat)
  | wait
  | declined
deriving DecidableEq, Repr

/-- Translate an access of a die's dispatcher or of BN1 through that unit's cache; a page fault is noted with the use
that waits on it, and a decline ends the use (FQ_REPLY_DECLINE). -/
def State.unitReach (s : State) (die asid kind va : Nat) (u : UnitUse) : State × Reach :=
  if 2 ^ 56 ≤ va then (s, .declined)
  else match s.faults.find? fun f => f.meets die asid kind va with
    | some f =>
      if f.declined then ((s.spent f.id), .declined)
      else ({ s with unitWaits := if s.unitWaits.contains ⟨f.id, u⟩ then s.unitWaits else s.unitWaits ++ [⟨f.id, u⟩] }, .wait)
    | none =>
      match s.tlbs.find? fun t => t.hits 2 die 0 asid va && permits kind t.w t.x with
      | some t => (s, .at (t.pa + va % 2 ^ t.bits))
      | none => ((s.startWalk die asid kind va).1, .wait)

/-- The state before, with the walks and faults that an attempt after it has met. -/
def State.keepWaits (s t : State) : State :=
  { s with walks := t.walks, faults := t.faults, unitWaits := t.unitWaits, nextId := t.nextId, service := t.service }

/-- Bytes [a, a + n) carry poison. -/
def State.poisoned (s : State) (a n : Nat) : Bool :=
  (List.range ((a + n - 1) / 128 - a / 128 + 1)).any fun i => s.poisonOf (s.homeOf a) (lineOf a + i) ≠ 0

end Sys2Proof.Machine
end

