-- ==== Sys2Proof/Machine/Xreg.lean ====
section
/-! DEFINITION. The state of a stream register, its 64-byte image and the checks of an image (R322, R331). -/

namespace Sys2Proof.Machine

/-- A stream register's fields (R322). -/
structure XReg where
  values : Nat
  st : Nat                    -- 0 CLOSED, 1 OPEN, 2 ISECT, 3 UNION, 4 MEMBER
  info : Nat
  vfmt : Nat
  flags : Nat
  nnz : Nat
  parent : Nat
  beg : Nat
  endx : Nat
  cur : Nat
  size : Nat
  lastc : Nat
  arr0 : Nat
  arr1 : Nat
  done : Nat
  tail : Nat                  -- the four bytes at 0x3c
deriving DecidableEq, Repr

def XReg.ofBits (b : BitVec 512) : XReg :=
  let f (off n : Nat) : Nat := b.toNat / 2 ^ (8 * off) % 2 ^ (8 * n)
  ⟨f 0 8, f 8 1, f 9 1, f 10 1, f 11 1, f 12 4, f 16 4, f 20 4, f 24 4, f 28 4, f 32 4, f 36 4, f 40 8, f 48 8, f 56 4, f 60 4⟩

def XReg.bits (x : XReg) : BitVec 512 :=
  BitVec.ofNat 512 (x.values + x.st * 2 ^ 64 + x.info * 2 ^ 72 + x.vfmt * 2 ^ 80 + x.flags * 2 ^ 88 + x.nnz * 2 ^ 96 + x.parent * 2 ^ 128 + x.beg * 2 ^ 160 +
    x.endx * 2 ^ 192 + x.cur * 2 ^ 224 + x.size * 2 ^ 256 + x.lastc * 2 ^ 288 + x.arr0 * 2 ^ 320 + x.arr1 * 2 ^ 384 + x.done * 2 ^ 448 + x.tail * 2 ^ 480)

/-- A combined stream. -/
def XReg.comb (x : XReg) : Bool := x.st = 2 || x.st = 3
def XReg.space (x : XReg) : Nat := x.info % 4
def XReg.kind (x : XReg) : Nat := x.info / 4 % 4
def XReg.opa (x : XReg) : Nat := x.info % 8
def XReg.opb (x : XReg) : Nat := x.info / 8 % 8
def XReg.isEnd (x : XReg) : Bool := x.flags % 2 = 1
def XReg.last (x : XReg) : Bool := x.flags / 2 % 2 = 1
def XReg.setEnd (x : XReg) : XReg := if x.isEnd then x else { x with flags := x.flags + 1 }

/-- Byte n of an image is not zero. -/
def byteSet (b : BitVec 512) (n : Nat) : Bool := b.toNat / 2 ^ (8 * n) % 256 ≠ 0

/-- Offset of the first byte that makes an image invalid (R331); a CLOSED image is never invalid. -/
def XReg.invalid (x : XReg) (b : BitVec 512) : Option Nat :=
  if x.st = 0 then none
  else if 4 < x.st then some 8
  else if x.info / 64 ≠ 0 then some 9
  else if x.flags / 4 ≠ 0 then some 11
  else if x.tail ≠ 0 then some 0x3c
  else if x.comb then (List.range 64).find? fun i => !([8, 9, 11, 36, 37, 38, 39, 56, 57, 58, 59].contains i) && byteSet b i
  else if x.cur < x.beg || x.endx < x.cur then some 0x1c
  else none

/-- What XLOAD leaves of an image: CLOSED is all zeros. -/
def XReg.image (b : BitVec 512) : BitVec 512 := if (XReg.ofBits b).st = 0 then 0 else b

def Regs.getX (r : Regs) (n : Nat) : XReg := XReg.ofBits (r.x.get 0 n)
def Regs.setX (r : Regs) (n : Nat) (b : BitVec 512) : Regs := { r with x := r.x.put 0 n b }

end Sys2Proof.Machine
end

