-- ==== Sys2Proof/Machine/Agent.lean ====
section
/-! DEFINITION. The memory side of a core: line requests and their limits (R56, R57), the L1 (R126 to R128), what a
load binds and when (R65, R91 to R95, R456), acknowledgements (R64), and vault and mapped accesses (R120 to R141). -/

namespace Sys2Proof.Machine

/-! ### Warps -/

def State.modWarp (s : State) (k : WarpKey) (f : Warp → Warp) : State := { s with warps := s.warps.modify k f }
def Warp.agent (w : Warp) : Nat := agentId 0 w.die w.core
def State.asidOf (s : State) (k : WarpKey) : Nat := ((s.grid? k.grid).map (·.asid)).getD 0

/-- An instruction that reads: later effects beyond the registers wait until it has committed (R456). A write that must fill mapped
words first is one of them (R133; DEDUCED, log 88). -/
def Out.reads (o : Out) : Bool := o.kind ∈ [OKind.load, .vload, .stream] || o.back.isSome

/-- Every older read of the warp has committed. -/
def Warp.settled (w : Warp) : Bool := w.outs.all fun o => o.finished || !o.reads

/-- A LD.acq has not committed yet (R100). -/
def Warp.acquiring (w : Warp) : Bool := w.outs.any fun o => o.acq && !o.finished

/-- Value of an in-flight counter: the instructions from the oldest one that has not completed (R162). -/
def Warp.counter (w : Warp) (c : Ctr) : Nat := ((w.outs.filter (·.ctr = some c)).dropWhile (·.finished)).length

/-- Drop completed instructions that no older one of their counter precedes. -/
def pruneOuts (os : List Out) : List Out :=
  let stuck (c : Option Ctr) (id : Nat) : Bool := os.any fun o => o.ctr = c && c.isSome && !o.finished && o.id < id
  os.filter fun o => !(o.finished && !stuck o.ctr o.id)

def Warp.prune (w : Warp) : Warp := { w with outs := pruneOuts w.outs }

/-- Change one outstanding instruction. -/
def Warp.modOut (w : Warp) (id : Nat) (f : Out → Out) : Warp := { w with outs := w.outs.map fun o => if o.id = id then f o else o }

/-- Values arriving for outstanding instruction `id` reach the registers, and the registers saved with younger
instructions, which were empty there (R456). -/
def Warp.fillBy (w : Warp) (id : Nat) (f : Regs → Regs) : Warp :=
  { w with r := f w.r, outs := w.outs.map fun y => if id < y.id then { y with back := y.back.map f } else y }

/-- They do, and the tags of what it has written follow (R172). -/
def Warp.fill (w : Warp) (o : Out) (f : Regs → Regs) : Warp := w.fillBy o.id fun r => (f r).written o.mask o.op o.x

/-- The warp's wait once instruction `id` has completed: it no longer waits for its newest instruction. -/
def Warp.waitAfter (w : Warp) (id : Nat) : Wait :=
  if w.wait = .acks && (w.outs.getLast?.map (·.id)) = some id then .none else w.wait

/-- Issue bookkeeping: the instruction is outstanding, and the program counter is past it. -/
def Warp.issue (w : Warp) (o : Out) (len : Nat) : Warp :=
  { w with outs := w.outs ++ [o], r := { w.r with pc := w.r.pc + BitVec.ofNat 64 len } }

/-! ### A trap of an outstanding instruction (R347, R456, R179) -/

/-- The instruction and everything after it is undone, and it traps. -/
def State.trapOut (s : State) (k : WarpKey) (id cause detail aux lane : Nat) (addr : DWord) : State :=
  match s.warp? k with
  | none => s
  | some w =>
    match w.outs.find? (·.id = id) with
    | none => s
    | some o =>
      let r := o.back.getD w.r
      let w := { w with r := r, outs := w.outs.filter (·.id < id), wait := .none }
      s.trap k w ⟨cause, detail, aux, lane, addr, r.pc, false, false, false⟩

/-! ### Line requests (R56, R57) -/

/-- Requests of a core's 64 entries, and of its rejection queue. -/
def State.entriesUsed (s : State) (die core : Nat) : Nat :=
  (s.reqs.filter fun q => q.kind = 0 && q.die = die && q.core = core).length - (s.rejected.filter fun m => m.agent = agentId 0 die core).length

def State.rejectedOf (s : State) (die core : Nat) : Nat := (s.rejected.filter fun m => m.agent = agentId 0 die core).length

/-- n requests can leave a core: those without an entry fit in the rejection queue. An instruction alone on its core always
can (log 27). -/
def State.roomFor (s : State) (die core n : Nat) : Bool :=
  let used := s.entriesUsed die core
  let rej := s.rejectedOf die core
  (used = 0 && rej = 0) || n ≤ (if rej = 0 then 64 - used else 0) + (64 - rej)

/-- An older warp of the core is held at issue for room in the queue: held warps enter it oldest first (R57). -/
def State.heldBefore (s : State) (k : WarpKey) (w : Warp) : Bool :=
  s.held.any fun h => h ≠ k && (s.warp? h).any fun o => o.die = w.die && o.core = w.core && o.age < w.age && o.trapping.isNone && !o.parked && !o.halted

/-- An instruction of the warp with n requests can issue (R57). -/
def State.canSend (s : State) (k : WarpKey) (w : Warp) (n : Nat) : Bool := n = 0 || (s.roomFor w.die w.core n && !s.heldBefore k w)

/-- The warp's instruction is held at issue (R57). -/
def State.holdIssue (s : State) (k : WarpKey) : State :=
  { s.modWarp k fun w => { w with active := false } with held := if s.held.contains k then s.held else s.held ++ [k] }

/-- What is kept of a request for a line until it is answered; `request` fills in the rest. -/
def Req.of (line floor : Nat) (once : Bool) (users : List User) : Req := ⟨0, 0, 0, 0, line, floor, once, users, false, 0, none, none⟩

/-- Send a request of a core, or queue it for an entry. -/
def State.request (s : State) (die core : Nat) (m : Msg) (q : Req) : State :=
  let full := 64 ≤ s.entriesUsed die core || 0 < s.rejectedOf die core
  let tag := s.nextId
  let m := { m with id := tag, tag := tag, src := die, dst := s.homeOf m.addr, agent := agentId 0 die core, inc := s.incOf (agentId 0 die core) }
  let s := { s with nextId := tag + 1, reqs := s.reqs ++ [{ q with tag := tag, die := die, core := core, kind := 0, read := m.ty = MType.readReq }] }
  if full then { s with rejected := s.rejected ++ [m] } else { s with net := s.net ++ [m] }

/-- A freed entry goes to the oldest rejected request of the core, which is a message from then on (R21). -/
def State.freeEntry (s : State) (die core : Nat) : State :=
  match s.rejected.find? fun m => m.agent = agentId 0 die core with
  | none => s
  | some m => if s.entriesUsed die core < 64 then { s with rejected := s.rejected.filter (·.id ≠ m.id) }.post m else s

/-- Ask for a line to read: join an outstanding read of the core, else send ReadReq (R128, R62). -/
def State.askLine (s : State) (die core line floor : Nat) (once : Bool) (u : User) : State :=
  match s.reqs.find? fun q => q.kind = 0 && q.die = die && q.core = core && q.line = line && q.read && !q.once && !once with
  | some q => { s with reqs := s.reqs.map fun o => if o.tag = q.tag then { o with users := if o.users.contains u then o.users else o.users ++ [u] } else o }
  | none =>
    s.request die core { id := 0, ty := .readReq, src := 0, dst := 0, addr := lineAddr line, t1 := if once then 0 else floor, once := once }
      (Req.of line floor once [u])

/-- A read for an instruction is outstanding for the line. -/
def State.asking (s : State) (k : WarpKey) (id line : Nat) : Bool :=
  s.reqs.any fun q => q.line = line && q.users.contains (.out k id)

/-! ### The L1 (R126, R127) -/

def l1Set (line : Nat) : Nat := line % 32

/-- A live line of the core that a thread with this floor may use. -/
def State.l1Hit (s : State) (die core line floor : Nat) : Option L1Line :=
  s.l1.find? fun l => l.die = die && l.core = core && l.line = line && s.tcAt die < l.expiry && floor ≤ l.expiry

def State.l1Drop (s : State) (die core line : Nat) : State :=
  { s with l1 := s.l1.filter fun l => !(l.die = die && l.core = core && l.line = line) }

/-- A line that is used becomes the most recently used of its core (R127). -/
def State.l1Use (s : State) (die core line : Nat) : State :=
  let mine (l : L1Line) : Bool := l.die = die && l.core = core && l.line = line
  { s with l1 := (s.l1.filter fun l => !mine l) ++ (s.l1.filter mine).map fun l => { l with used := s.now } }

/-- Install a line: expired lines of a full set go first, then the least recently used. -/
def State.l1Put (s : State) (n : L1Line) : State :=
  let s := s.l1Drop n.die n.core n.line
  let set := s.l1.filter fun l => l.die = n.die && l.core = n.core && l1Set l.line = l1Set n.line
  let victim : Option L1Line :=
    if set.length < 8 then none
    else match set.find? fun l => l.expiry ≤ s.tcAt n.die with
      | some l => some l
      | none => set.foldl (fun b l => match b with
          | none => some l
          | some (o : L1Line) => if l.used < o.used then some l else some o) none
  match victim with
  | some v => { s with l1 := (s.l1.filter fun l => l ≠ v) ++ [n] }
  | none => { s with l1 := s.l1 ++ [n] }

/-! ### Binding (R65, R91, R94, R128) -/

def Regs.floorOf (r : Regs) (lane : Nat) : Nat := r.floor.get 0 lane
def Regs.raise (r : Regs) (lane w : Nat) : Regs := { r with floor := r.floor.put 0 lane (max (r.floorOf lane) w) }
def Regs.raiseAll (r : Regs) (m : Mask) (w : Nat) : Regs := (lanesOf m).foldl (fun r l => r.raise l w) r

/-- The largest floor of the threads of a mask. -/
def Regs.floorMax (r : Regs) (m : Mask) : Nat := (lanesOf m).foldl (fun n l => max n (r.floorOf l)) 0

/-- An access made once for the warp stands for all its threads (R339, R351). -/
def Out.uniform (o : Out) : Bool := o.op = .sld || o.op = .sst

def Out.threads (o : Out) (l : LaneAcc) : Mask := if o.uniform then o.mask else bitMask l.lane

/-- Floor under which a lane's access reads. -/
def Out.floor (o : Out) (r : Regs) (l : LaneAcc) : Nat := if o.uniform then r.floorMax o.mask else r.floorOf l.lane

/-- The byte at `a` that these threads wrote last among the given older writes still in the store queue (R94). -/
def ownByte (olds : List Out) (kd : OKind) (m : Mask) (a : Nat) : Option Nat :=
  olds.reverse.findSome? fun o =>
    if o.kind ≠ kd then none
    else o.lanes.reverse.findSome? fun l =>
      if !l.done && l.a ≤ a && a < l.a + l.size && (o.threads l &&& m ≠ 0) then some (l.data / 256 ^ (a - l.a) % 256) else none

/-- What the binding of one lane needs or gives. -/
inductive Bind where
  | ready (v w : Nat)
  | need (line floor : Nat)
  | poison (p : Nat)
  | refused
deriving DecidableEq, Repr

/-- The place of byte n of an access: a line's end may be a page's, and the bytes behind it are placed from the last one
back. -/
def LaneAcc.place (l : LaneAcc) (n : Nat) : Nat := if n < 128 - l.a % 128 then l.a + n else l.b - (l.size - 1 - n)

/-- Bind the bytes at `place 0`, …: own bytes from the store queue, others from the data granted. -/
def bindBytes (olds : List Out) (pieces : List Piece) (m : Mask) (place : Nat → Nat) : Nat → Nat → Nat → Nat → Bind
  | 0, _, v, w => .ready v w
  | n + 1, floor, v, w =>
    -- bytes are taken from the last one down, so that v grows by 256
    let p := place n
    match ownByte olds .store m p with
    | some b => bindBytes olds pieces m place n floor (v * 256 + b) w
    | none =>
      match pieces.reverse.find? fun q => q.line = lineOf p && floor ≤ q.upto with
      | none => .need (lineOf p) floor
      | some q =>
        if q.refused then .refused
        else if q.poison ≠ 0 then .poison q.poison
        else bindBytes olds pieces m place n (max floor q.w) (v * 256 + (Line.byte q.data (p % 128)).toNat) (max w q.w)

/-- Elements of LDF (R348) from the bytes bound, as a stored pair in FP32 (R196, R197, R201). -/
def ldfRaw (fmt : Nat) (v : Nat) : Raw :=
  let pt (f : Fmt) : Raw := (Iv.ofPoint f .fp32 v).write .fp32
  match fmt with
  | 0 => (Iv.load .fp32 (v % 2 ^ 32) (v / 2 ^ 32)).write .fp32
  | 1 => pt .fp32 | 2 => pt .bf16 | 3 => pt .f16 | 4 => pt .e5m2 | 5 => pt .e4m3
  | 6 => (Iv.ofPoint .e2m1 .fp32 (v % 16)).write .fp32
  | 7 => (Iv.ofMid .fp32 .fp32 (v % 2 ^ 32) (v / 2 ^ 32)).write .fp32
  | _ => (Iv.ofMid .bf16 .fp32 (v % 2 ^ 16) (v / 2 ^ 16)).write .fp32

/-- LD's extension of the loaded bytes to registers (R343). -/
def ldValue (sz v : Nat) : Nat :=
  let sext (w : Nat) : Nat := if v / 2 ^ (w - 1) % 2 = 1 then 2 ^ 32 - 2 ^ w + v else v
  match sz with
  | 4 => sext 8
  | 6 => sext 16
  | _ => v

/-- Write `n` words of a value to consecutive registers. -/
def putWords (nS n lane : Nat) (d : Sel) (v : Nat) (r : Regs) : Regs :=
  (List.range n).foldl (fun r i =>
    let x : Word := BitVec.ofNat 32 (v / 2 ^ (32 * i))
    match d with
    | .reg k => r.setV (k.toNat + i) lane x
    | .s k => r.setS nS (k.val + i) x
    | _ => r) r

/-- The registers a loaded or returned value goes to. -/
def loadInto (nS : Nat) (op : Op) (x : Ext) (l : LaneAcc) (v : Nat) (r : Regs) : Regs :=
  match op with
  | .ld => putWords nS (szN (x.m 0 3)) l.lane x.d (ldValue (x.m 0 3) v) r
  | .sld => putWords nS (szN (x.m 0 2)) l.lane x.d v r
  | .ldf =>
    if x.m 0 4 = 9 then putD l.lane x.d ((Iv.ofPoint .fp64 .fp64 v).write .fp64) r
    else
      -- a nibble address selects one half of the byte
      let v := if x.m 0 4 = 6 then (if l.va.toNat % 2 = 1 then v / 16 else v % 16) else v
      putF l.lane x.d (ldfRaw (x.m 0 4) v) r
  | .atom | .cas => putWords nS (if 2 ≤ x.m 0 2 then 2 else 1) l.lane x.d v r
  | .atomf => putF l.lane x.d (ldfRaw (if x.m 0 1 = 1 then 1 else 0) v) r
  | .xload => (match x.d with
    | .x n => r.setX n.toNat (XReg.image (BitVec.ofNat 512 v))
    | _ => r)
  | _ => r

/-- Result of trying to bind every lane of a load. -/
inductive Bound where
  | all (r : Regs → Regs)
  | need (reqs : List (Nat × Nat))          -- lines to ask for, with floors
  | trap (cause detail lane : Nat) (addr : DWord)

/-- What XLOAD finds wrong with the bytes it has read: the offset of the byte (R331). -/
def Out.badImage (o : Out) (v : Nat) : Option Nat := if o.op = .xload then (XReg.ofBits (BitVec.ofNat 512 v)).invalid (BitVec.ofNat 512 v) else none

/-- Bind the lanes of a global load in ascending order (R91, R341, R347). -/
def bindLanes (nS : Nat) (olds : List Out) (o : Out) (r : Regs) : Bound :=
  let bs := o.lanes.map fun l => (l, bindBytes olds o.pieces (o.threads l) l.place l.size (o.floor r l) 0 0)
  let needs := bs.filterMap fun p => match p.2 with
    | .need line f => some (line, f)
    | _ => none
  match bs.find? fun p => match p.2 with
      | .poison _ => true
      | .refused => true
      | .ready v _ => (o.badImage v).isSome
      | _ => false with
  | some (l, .ready v _) => .trap cMalformed 8 l.lane (l.va + BitVec.ofNat 64 ((o.badImage v).getD 0))
  | some (l, .poison p) => .trap (if p = 1 then cLost else cEcc) 0 l.lane l.va
  | some (l, _) => .trap cProt 9 l.lane l.va
  | none =>
    if needs ≠ [] then .need needs
    else .all fun r => bs.foldl (fun r p => match p.2 with
      | .ready v w => loadInto nS o.op o.x p.1 v (r.raiseAll (o.threads p.1) w)
      | _ => r) r

/-- `upto` of single-use data, which no floor or lease bounds (R62). -/
abbrev onceUpto : Nat := 2 ^ 128

/-- The instruction asks for lines as single-use reads (R343, R348). -/
def Out.once (o : Out) : Bool := o.op ≠ .sld && (if o.op = .ldf then o.x.m 9 1 = 1 else o.x.m 8 1 = 1)

/-- Commit what can be committed: the oldest read that has not, as long as its data is there (R456). A read notes when it becomes
the oldest: single-use data binds only where it was asked for after that, so that reads bind in order (R91, R95). -/
def State.commit (s : State) (k : WarpKey) : Nat → State
  | 0 => s
  | fuel + 1 =>
    match s.warp? k with
    | none => s
    | some w =>
      match w.outs.find? fun o => o.reads && !o.finished with
      | none => s
      | some o =>
        let t := s.nextId
        let w := if o.oldest = 0 then w.modOut o.id fun o => { o with oldest := t } else w
        let s := s.setWarp k w
        -- a lease binds only while the die's TC reads below its EXPIRY (R61, R86)
        let live : Out := { o with pieces := o.pieces.filter fun q => q.refused || q.poison ≠ 0 || onceUpto ≤ q.upto || s.tcAt w.die < q.upto }
        if o.kind ≠ .load then s
        else match bindLanes (s.header k).nS (w.outs.filter (·.id < o.id)) live w.r with
          | .trap cause detail lane addr => s.trapOut k o.id cause detail (if cause = cMalformed then xNum o.x.d else 0) lane addr
          | .need ls => ls.foldl (fun s p => if s.asking k o.id p.1 || !s.roomFor w.die w.core 1 then s else s.askLine w.die w.core p.1 p.2 o.once (.out k o.id)) s
          | .all f =>
            let w := { ((w.fill o f).modOut o.id fun o => { o with finished := true, dests := [], pieces := [] }) with wait := if o.op = Op.xload then w.waitAfter o.id else w.wait }
            ((s.setWarp k w.prune).commit k fuel)

def State.commitAll (s : State) (k : WarpKey) : State :=
  match s.warp? k with
  | some w => s.commit k (w.outs.length + 1)
  | none => s

/-- The warps of a core try to commit: one whose request found no room in the queue asks again (R57). -/
def State.commitCore (s : State) (die core : Nat) : State :=
  (s.warps.filter fun p => p.2.die = die && p.2.core = core && p.2.outs ≠ []).foldl (fun s p => s.commitAll p.1) s

/-- Single-use data asked for before the instruction was its warp's oldest read binds nothing (R91). -/
def Out.takes (o : Out) (tag : Nat) (p : Piece) : Bool := p.refused || p.upto < onceUpto || (o.oldest ≠ 0 && o.oldest ≤ tag)

/-- Data of a grant for an outstanding instruction. -/
def State.give (s : State) (k : WarpKey) (id tag : Nat) (p : Piece) : State :=
  (s.modWarp k fun w => w.modOut id fun o => if o.takes tag p then { o with pieces := o.pieces ++ [p] } else o).commitAll k

/-! ### Acknowledgements (R64, R94, R355, R356) -/

/-- A write's acknowledgement with perform time `g` raises the GWCT of its medium. -/
def Warp.gwctMax (w : Warp) (comp : Bool) (g : Nat) : Warp :=
  if comp then { w with gwctC := max w.gwctC g } else { w with gwct := max w.gwct g }

/-- Data granted before a write of the warp performed is dropped, so that the warp reads its own write (R94, R95). -/
def Warp.dropStale (w : Warp) (line g : Nat) : Warp :=
  { w with outs := w.outs.map fun o => { o with pieces := o.pieces.filter fun p => !(p.line = line && p.w < g) } }

/-- One request of a write has been acknowledged. -/
def State.acked (s : State) (k : WarpKey) (id tag line g : Nat) (comp : Bool) (old : Option (Nat × Nat)) : State :=
  s.modWarp k fun w =>
    let w := (w.gwctMax comp g).dropStale line g
    w.modOut id fun o =>
      { o with
        acks := o.acks.filter fun a => a.1 ≠ tag
        lanes := o.lanes.map fun l => if l.tag = tag then { l with done := true, val := (old.map (·.1)).getD l.val, cmp := (old.map (·.2)).getD l.cmp, data := g } else l }

/-- The end of an instruction all of whose requests are acknowledged: atomics write their values, or trap after
performance where one is poisoned (R356). After its acknowledgement a lane's `data` is the perform time and `cmp`
the poison: 1 LOST, 2 uncorrectable, 3 an error response. -/
def State.ackDone (s : State) (k : WarpKey) (id : Nat) : State :=
  match s.warp? k with
  | none => s
  | some w =>
    match w.outs.find? (·.id = id) with
    | none => s
    | some o =>
      if !o.acks.isEmpty then s
      else if o.kind = .atom then
        let ended (w : Warp) : Warp := { (w.modOut id fun o => { o with finished := true, dests := [] }).prune with wait := w.waitAfter id }
        match o.lanes.find? fun l => l.cmp ≠ 0 with
        | some l =>
          if l.cmp = 3 then s.trapOut k id cProt 9 0 l.lane l.va
          else s.trap k (ended w) ⟨if l.cmp = 1 then cLost else cEcc, 0, 0, l.lane, l.va, w.r.pc, true, false, false⟩
        | none =>
          let f (r : Regs) : Regs := o.lanes.foldl (fun r l => loadInto (s.header k).nS o.op o.x l l.val (r.raise l.lane l.data)) r
          s.setWarp k (ended (w.fill o f))
      else
        let s := s.setWarp k { (w.modOut id fun o => { o with finished := true, dests := [] }).prune with wait := w.waitAfter id }
        s.commitAll k

end Sys2Proof.Machine
end

