-- ==== Sys2Proof/Machine/Port.lean ====
section
/-! DEFINITION. How units that run no thread reach memory: die dispatchers, the distributor with its firmware, and a core's own
sequences read with single-use reads and write with stores and atomics of their own agents (R53, R58, R59, R401, R407, R428,
R434, R474), and the lines that such units, the matrix load pipes and the stream unit have read. -/

namespace Sys2Proof.Machine

/-! ### Ranges of lines and pages -/

/-- Lines of 128 bytes that a range touches. -/
def vlines (a size : Nat) : List Nat := if size = 0 then [] else (List.range ((a + size - 1) / 128 - a / 128 + 1)).map (a / 128 + ·)

/-- A unit whose accesses translate through the caches of `die` and leave as its agent's. -/
structure Port where
  die : Nat
  core : Nat
  agent : Nat
deriving DecidableEq, Repr

/-- The dispatcher of a die, which is agent KIND 5. -/
def Port.dispatcher (die : Nat) : Port := ⟨die, 0, agentId 5 die 0⟩

/-- The distributor, a unit of bridge BN1 (R407). -/
def Port.dist : Port := ⟨bn1, 0, agentId 9 1 0⟩

/-- A core's own sequence: its accesses are the core's (R474). -/
def Port.core' (die core : Nat) : Port := ⟨die, core, agentId 0 die core⟩

/-- How an operation of a unit ends; `dead` where what it needs was declined, refused or poisoned. -/
inductive Pooled (α : Type) where
  | ok (s : State) (v : α)
  | wait (s : State)
  | dead (s : State)

/-- Go on with the value of an operation that has ended well. -/
def Pooled.then' {α β : Type} (p : Pooled α) (f : State → α → Pooled β) : Pooled β :=
  match p with
  | .ok s v => f s v
  | .wait s => .wait s
  | .dead s => .dead s

/-- Pages of 64 KiB of a range. -/
def pagesOf (va n : Nat) : List Nat := (List.range ((va + n - 1) / 2 ^ 16 - va / 2 ^ 16 + 1)).map fun i => va / 2 ^ 16 + i

/-- The physical base of each page of a range as a unit of a die reaches it. -/
def State.unitPages (s : State) (die asid kind : Nat) (u : UnitUse) : List Nat → List (Nat × Nat) → Pooled (List (Nat × Nat))
  | [], acc => .ok s acc
  | p :: ps, acc =>
    match s.unitReach die asid kind (p * 2 ^ 16) u with
    | (s, .at pa) => s.unitPages die asid kind u ps ((p, pa) :: acc)
    | (s, .wait) => .wait s
    | (s, .declined) => .dead s

def pagePa (l : List (Nat × Nat)) (va : Nat) : Nat := ((l.find? fun p => p.1 = va / 2 ^ 16).map (·.2)).getD 0 + va % 2 ^ 16

/-- Parts of a range that lie in single pages: address, offset, bytes. -/
def pageParts (va n : Nat) : List (Nat × Nat × Nat) :=
  (pagesOf va n).map fun p =>
    let lo := max va (p * 2 ^ 16)
    (lo, lo - va, min (va + n) ((p + 1) * 2 ^ 16) - lo)

/-! ### Lines that units have read -/

/-- What a read finds. -/
inductive Got where
  | val (n : Nat)
  | need
  | bad (cause detail : Nat)
deriving DecidableEq, Repr

/-- A line the pipe has read. -/
def State.lookAt (s : State) (r : Reader) (line : Nat) : Option Look := s.looks.find? fun l => l.reader = r && l.line = line

/-- Byte of global memory from the lines read. -/
def State.lookByte (s : State) (r : Reader) (va : Nat) : Got :=
  match s.lookAt r (va / 128) with
  | some l => (match l.got with
    | some q => if q.refused then .bad cProt 9 else if q.poison ≠ 0 then .bad (if q.poison = 1 then cLost else cEcc) 0 else .val (Line.byte q.data (va % 128)).toNat
    | none => .need)
  | none => .need

/-- Bytes [va, va + n). -/
def State.lookBytes (s : State) (r : Reader) (va : Nat) : Nat → Got
  | 0 => .val 0
  | n + 1 =>
    match s.lookBytes r (va + 1) n with
    | .val v => (match s.lookByte r va with
      | .val b => .val (v * 256 + b)
      | g => g)
    | g => g

/-- A reader is done with what it has read. -/
def State.dropLooks (s : State) (r : Reader) : State :=
  { s with looks := s.looks.filter fun (l : Look) => l.reader ≠ r, unitFills := s.unitFills.filter fun (f : UnitFill) => f.reader ≠ r }

/-- A grant for a unit's read. -/
def State.lookGot (s : State) (r : Reader) (tag : Nat) (q : Piece) : State :=
  { s with looks := s.looks.map fun (l : Look) => if l.reader = r && l.tag = tag then { l with got := some q } else l }

/-! ### Requests of units -/

/-- A request can leave: a core's own counts among the core's (R56, R57). -/
def State.portFree (s : State) (p : Port) : Bool := agentKind p.agent ≠ 0 || s.roomFor p.die p.core 1

/-- A request of a unit leaves. -/
def State.unitSend (s : State) (p : Port) (u : User) (m : Msg) : State :=
  if agentKind p.agent = 0 then s.request p.die p.core m (Req.of (lineOf m.addr) 0 m.once [u]) else s.sendAs p.agent p.die p.core u m

/-- A write of the unit to the line has not been acknowledged: what the unit reads there comes after it (R94). -/
def State.unitStoring (s : State) (p : Port) (line : Nat) : Bool :=
  s.reqs.any fun q => q.kind = agentKind p.agent && q.die = p.die && q.core = p.core && q.line = line && !q.read

/-- Requests of a use that are not answered yet. -/
def State.unitBusy (s : State) (u : User) : Bool := s.reqs.any fun q => q.users.contains u

/-- Ask, with single-use reads, for the lines of a range that have not been asked for (R59, R62). -/
def State.unitAsk (s : State) (p : Port) (u : UnitUse) (pas : List (Nat × Nat)) (ls : List Nat) : State :=
  ls.foldl (fun s l =>
    let pa := pagePa pas (l * 128)
    if (s.lookAt (.unit u) l).isSome || s.unitStoring p (lineOf pa) || !s.portFree p then s
    else
      let tag := s.nextId
      { s.unitSend p (.unit u) { id := 0, ty := .readReq, once := true, src := 0, dst := 0, addr := lineAddr (lineOf pa) } with
        looks := s.looks ++ [⟨.unit u, l, lineOf pa, tag, none⟩] }) s

/-- What a unit's read gives: the value, the latest perform time, and whether data of it carries poison. -/
structure UnitRead where
  val : Nat
  w : Nat
  poison : Bool
deriving DecidableEq, Repr

/-- Bytes of an address space as a unit reads them, once all their lines have come; `dead` where a fault is declined or a line
is refused. The lines stay with the use until it drops them. -/
def State.unitBytes (s : State) (p : Port) (asid va n : Nat) (u : UnitUse) : Pooled UnitRead :=
  if n = 0 then .ok s ⟨0, 0, false⟩
  else (s.unitPages p.die asid kLoad u (pagesOf va n) []).then' fun s pas =>
    let ls := vlines va n
    let s := s.unitAsk p u pas ls
    let got := ls.map fun l => (l, (s.lookAt (.unit u) l).bind (·.got))
    if got.any fun g => g.2.any (·.refused) then .dead s
    else if got.any fun g => g.2.isNone then .wait s
    else
      let part (g : Nat × Option Piece) (acc : Nat) : Nat :=
        let lo := max va (g.1 * 128)
        let len := min (va + n) (g.1 * 128 + 128) - lo
        ((g.2.map fun q => lineNat q.data (lo % 128) len).getD 0) + acc * 256 ^ len
      .ok s ⟨got.foldr part 0, got.foldl (fun w g => max w ((g.2.map (·.w)).getD 0)) 0, got.any fun g => g.2.any (·.poison ≠ 0)⟩

/-- A grant for a unit's read. -/
def State.unitGot (s : State) (u : UnitUse) (tag : Nat) (q : Piece) : State := s.lookGot (.unit u) tag q

/-- A store of n bytes, which may span lines of one page. -/
def State.unitStore (s : State) (p : Port) (u : User) (pa n v : Nat) : State :=
  (vlines pa n).foldl (fun s l =>
    let lo := max pa (l * 128)
    let len := min (pa + n) (l * 128 + 128) - lo
    s.unitSend p u (storeMsg lo len (v / 256 ^ (lo - pa)))) s

/-- An atomic add to a 64-bit word, which returns nothing (R66, R355). -/
def State.unitAdd (s : State) (p : Port) (u : User) (pa : Nat) (n : Int) : State :=
  s.unitSend p u { id := 0, ty := .atomReq, noret := true, src := 0, dst := 0, addr := lineAddr (lineOf pa), op := 0x300, mask := byteMask (pa % 128) 8
                   data := BitVec.ofNat 1024 ((n % 2 ^ 64).toNat * 256 ^ (pa % 128)) }

end Sys2Proof.Machine
end

