-- ==== Sys2Proof/Machine/Vault.lean ====
section
/-! DEFINITION. Accesses that reach a vault: their order, in-flight marks, mapped words and scratch atomics (R117 to
R141). -/

namespace Sys2Proof.Machine

/-- Byte 0 of a core's vault in the vault store. -/
def vaultBase (die core : Nat) : Nat := (die * 1280 + core) * 2 ^ 19

/-- The team whose scratch holds a vault byte. -/
def State.ownerOf (s : State) (a : Nat) : Option (TeamKey × Team) :=
  s.teams.find? fun p =>
    p.2.resident && vaultBase p.2.die p.2.core + p.2.scratch ≤ a &&
      a < vaultBase p.2.die p.2.core + p.2.scratch + ((s.grid? p.1.grid).map (·.scratch)).getD 0

/-- The map a vault byte lies in, with the byte's global address (R131). -/
def State.mapAt (s : State) (a : Nat) : Option (TeamKey × SMap × Nat) :=
  match s.ownerOf a with
  | none => none
  | some (t, tm) =>
    let rel := a - (vaultBase tm.die tm.core + tm.scratch)
    (tm.maps.find? fun m => m.soff ≤ rel && rel < m.soff + m.slen).map fun m => (t, m, m.va + (rel - m.soff))

/-- Word bits of R132. -/
abbrev bValid : BitVec 3 := 1
abbrev bDirty : BitVec 3 := 2
abbrev bPending : BitVec 3 := 4

def State.wordBits (s : State) (word : Nat) : BitVec 3 := s.mapBits.get 0 word
def State.setWord (s : State) (word : Nat) (b : BitVec 3) : State := { s with mapBits := s.mapBits.put 0 word b }

/-- The 32 words of a vault line. -/
def wordsOf (vline : Nat) : List Nat := (List.range 32).map fun i => vline * 32 + i

/-- The words an access touches. -/
def wordsIn (a size : Nat) : List Nat := (List.range ((a + size - 1) / 4 - a / 4 + 1)).map fun i => a / 4 + i

/-- A word of the access that R133 or R134 must first bring in under floor `f`, and the map it lies in. -/
def State.toFill (s : State) (die f : Nat) (write : Bool) (a size : Nat) : Option (Nat × SMap × Nat) :=
  (wordsIn a size).findSome? fun w =>
    match s.mapAt (w * 4) with
    | none => none
    | some (_, m, va) =>
      let b := s.wordBits w
      let l := s.mapLines.get ⟨0, 0⟩ (w / 32)
      let live : Bool := s.tcAt die < l.expiry && f ≤ l.expiry
      let ok : Bool :=
        if write then (b &&& bValid ≠ 0 && b &&& bPending = 0) || (a ≤ w * 4 && w * 4 + 4 ≤ a + size)
        else b &&& bDirty ≠ 0 || (b &&& bValid ≠ 0 && live)
      if ok then none else some (w, m, va)

/-- Perform time of the mapped words an access binds (R111). -/
def State.mapW (s : State) (a size : Nat) : Nat :=
  (wordsIn a size).foldl (fun n w =>
    if (s.mapAt (w * 4)).isSome && s.wordBits w &&& bDirty = 0 then max n (s.mapLines.get ⟨0, 0⟩ (w / 32)).w else n) 0

/-- The words written are VALID and DIRTY, and no longer PENDING (R134). -/
def State.markWritten (s : State) (a size : Nat) : State :=
  (wordsIn a size).foldl (fun s w => if (s.mapAt (w * 4)).isSome then s.setWord w (bValid ||| bDirty) else s) s

/-- A fill's words: every word of the line that is not dirty is PENDING (R133). -/
def State.pendLine (s : State) (vline : Nat) : State :=
  (wordsOf vline).foldl (fun s w =>
    if (s.mapAt (w * 4)).isSome && s.wordBits w &&& bDirty = 0 then s.setWord w (s.wordBits w ||| bPending) else s) s

/-- The line's fill has been sent. A fill that has met a page fault has not, and its words stay PENDING (R136). -/
def State.fillSent (s : State) (vline : Nat) : Bool :=
  s.reqs.any fun q => q.users.any fun u => match u with
    | .fill _ v => v = vline
    | _ => false

/-- The fill of a PENDING word is on its way, so that an access joins it (R133). -/
def State.filling (s : State) (word : Nat) : Bool := s.wordBits word &&& bPending ≠ 0 && s.fillSent (word / 32)

/-- A fill that was never sent ends: the line's words return to their state before it (R136). -/
def State.unpendLine (s : State) (vline : Nat) : State :=
  if s.fillSent vline then s else (wordsOf vline).foldl (fun s w => s.setWord w (s.wordBits w &&& ~~~bPending)) s

/-- Send a fill of the word's line (R133). -/
def State.startFill (s : State) (die core floor word pa : Nat) : State :=
  let vline := word / 32
  (s.pendLine vline).request die core { id := 0, ty := .readReq, src := 0, dst := 0, addr := lineAddr (lineOf pa), t1 := floor }
    (Req.of (lineOf pa) floor false [.fill core vline])

/-! ### One lane's access -/

/-- Change one lane of an outstanding instruction. -/
def State.modLane (s : State) (k : WarpKey) (id lane : Nat) (f : LaneAcc → LaneAcc) : State :=
  s.modWarp k fun w => w.modOut id fun o => { o with lanes := o.lanes.map fun l => if l.lane = lane then f l else l }

/-- The instruction's access writes the vault. -/
def Out.writes (o : Out) : Bool := o.kind ∈ [OKind.vstore, .vatom]

/-- OP code of R355 for an instruction of the atomic family. -/
def atomCode (op : Op) (x : Ext) : Nat :=
  let size : Nat := if 2 ≤ x.m 0 2 then 3 else 2
  let sgn : Nat := if x.m 0 2 % 2 = 0 then 1 else 0
  match op with
  | .cas => 8 + size * 256 + sgn * 4096
  | .atomf => (if x.m 0 1 = 1 then 0x20 + x.m 4 4 + 2 * 256 else 0x10 + x.m 4 4 + 3 * 256)
  | .red =>
    if x.m 9 1 = 1 then (if x.m 0 1 = 1 then 0x20 + x.m 4 4 + 2 * 256 else 0x10 + x.m 4 4 + 3 * 256)
    else x.m 4 4 + size * 256 + sgn * 4096
  | _ => x.m 4 4 + size * 256 + sgn * 4096

/-- An older or lower write of the warp to the same words by the same thread has not reached the vault, or a lower
lane of this instruction has not (R92, R93, R125). -/
def laneBlocked (w : Warp) (o : Out) (l : LaneAcc) : Bool :=
  let meets (m : LaneAcc) : Bool := !m.done && m.a / 4 ≤ (l.a + l.size - 1) / 4 && l.a / 4 ≤ (m.a + m.size - 1) / 4
  (w.outs.any fun p => p.id < o.id && p.reads && !p.finished) ||
    (w.outs.any fun p => p.id < o.id && (p.kind = .vatom || (p.kind = .vstore && o.writes)) &&
      p.lanes.any fun m => meets m && (p.threads m &&& o.threads l ≠ 0)) ||
    (o.writes && o.lanes.any fun m => m.lane < l.lane && meets m)

/-- Value of a vault read: own bytes still in the store queue first (R94). -/
def State.vaultRead (s : State) (olds : List Out) (m : Mask) (a n : Nat) : Nat :=
  (List.range n).foldr (fun i v =>
    v * 256 + (match ownByte olds .vstore m (a + i) with
      | some b => b
      | none => (s.vault.get 0 (a + i)).toNat)) 0

/-- A granule that the access touches is poisoned (R119). -/
def State.vaultPoison (s : State) (a size : Nat) : Bool := s.eccVault.any fun g => g * 8 < a + size && a < g * 8 + 8

/-- The access is made at the vault. An atomic on a poisoned granule is performed too, and leaves it poisoned; one that returns a
value has `cmp` 2 from then on, as after an AtomAck of uncorrectable data (R356). -/
def State.vaultDo (s : State) (k : WarpKey) (w : Warp) (o : Out) (l : LaneAcc) : State :=
  match o.kind with
  | .vload =>
    let v := s.vaultRead (w.outs.filter (·.id < o.id)) (o.threads l) l.a l.size
    let g := s.mapW l.a l.size
    s.modLane k o.id l.lane fun l => { l with done := true, val := v, data := g, asked := false }
  | .vstore =>
    let s := { s with vault := writeBytes s.vault l.a l.size l.data, eccVault := s.eccVault.filter fun g => !(l.a ≤ g * 8 && g * 8 + 8 ≤ l.a + l.size) }
    (s.markWritten l.a l.size).modLane k o.id l.lane fun l => { l with done := true, asked := false }
  | _ =>
    let g := s.mapW l.a l.size
    let old := readBytes s.vault l.a l.size
    let bad : Bool := s.vaultPoison l.a l.size
    let s := { s with vault := writeBytes s.vault l.a l.size (atomApply (atomCode o.op o.x) old l.data l.cmp) }
    (s.markWritten l.a l.size).modLane k o.id l.lane fun l => { l with done := true, val := old, data := g, asked := false, cmp := if bad then 2 else 0 }

/-- The end of a vault instruction all of whose lanes are done. -/
def State.vaultDone (s : State) (k : WarpKey) (id : Nat) : State :=
  match s.warp? k with
  | none => s
  | some w =>
    match w.outs.find? (·.id = id) with
    | none => s
    | some o =>
      if o.finished || !o.lanes.all (·.done) then s
      else if let some l := o.lanes.find? fun l => (o.badImage l.val).isSome then
        s.trapOut k id cMalformed 8 (xNum o.x.d) l.lane (l.va + BitVec.ofNat 64 ((o.badImage l.val).getD 0))
      else
        let ended (w : Warp) : Warp := { (w.modOut id fun o => { o with finished := true, dests := [] }).prune with wait := w.waitAfter id }
        match if o.kind = .vatom && o.op ≠ .red then o.lanes.find? (fun l => l.cmp ≠ 0) else none with
        | some l => s.trap k (ended w) ⟨cEcc, 0, 0, l.lane, l.va, w.r.pc, true, false, false⟩
        | none =>
          let f (r : Regs) : Regs := if o.kind = .vstore then r else
            o.lanes.foldl (fun r l => loadInto (s.header k).nS o.op o.x l l.val (r.raiseAll (o.threads l) l.data)) r
          (s.setWarp k (ended (w.fill o f))).commitAll k

/-- Scratch the access touches has been cleared (R118). -/
def State.scratchReady (s : State) (a size : Nat) : Bool :=
  match s.ownerOf a with
  | some (_, tm) => a + size ≤ vaultBase tm.die tm.core + tm.scratch + tm.cleared
  | none => true

/-- Floor a lane's access reads under. -/
def laneFloor (w : Warp) (o : Out) (l : LaneAcc) : Nat := o.floor w.r l

/-- Copies mark a line of the access in flight (R129), or the range is being unmapped (R362). -/
def State.vaultHeld (s : State) (a size : Nat) : Bool :=
  (List.range ((a + size - 1) / 128 - a / 128 + 1)).any (fun i => s.inflight.get 0 (a / 128 + i) ≠ 0) ||
    (wordsIn a size).any fun w => (s.mapAt (w * 4)).any fun p => p.2.1.removing

/-- A word that the lane must first bring in: none where its fill has come, as long as the words hold what came and no later
fill is on its way to a word that it only partly writes (R133, R134). -/
def State.laneFill (s : State) (w : Warp) (o : Out) (l : LaneAcc) : Option (Nat × SMap × Nat) :=
  let bound : Bool := l.ok && (wordsIn l.a l.size).all fun x =>
    (s.mapAt (x * 4)).isNone || (s.wordBits x &&& bValid ≠ 0 && (o.kind = .vatom || s.wordBits x &&& bPending = 0))
  if bound then none else s.toFill w.die (laneFloor w o l) (o.kind = .vstore) l.a l.size

/-- One lane's access reaches its vault: it waits on older accesses, on clearing and on copy marks, brings in mapped words,
traps on poison, or is made. What writes is made only once every lane of the instruction has the words it needs, so that a
trapping instruction changes nothing (R340). -/
def State.vaultLane (s : State) (k : WarpKey) (id lane : Nat) : State :=
  match s.warp? k with
  | none => s
  | some w =>
    match w.outs.find? (·.id = id) with
    | none => s
    | some o =>
      match o.lanes.find? (·.lane = lane) with
      | none => s
      | some l =>
        if l.done || l.asked || (!o.writes && laneBlocked w o l) || !s.scratchReady l.a l.size || s.vaultHeld l.a l.size then s
        else
          match s.laneFill w o l with
          | none =>
            if o.kind = .vload && s.vaultPoison l.a l.size then s.trapOut k id cEcc 0 0 l.lane l.va
            else if o.writes && (laneBlocked w o l || o.lanes.any fun m => !m.done && (m.asked || (s.laneFill w o m).isSome)) then s
            else (s.vaultDo k w o l).vaultDone k id
          | some (word, m, va) =>
            let va := va / 128 * 128
            if s.filling word then s.modLane k id lane fun l => { l with asked := true }
            else if 2 ^ 56 ≤ va then s.trapOut k id cProt 6 0 l.lane l.va
            else match s.translate w.die w.core m.asid kLoad va with
              | (s, .ok pa) =>
                if s.roomFor w.die w.core 1 then (s.startFill w.die w.core (laneFloor w o l) word pa).modLane k id lane fun l => { l with asked := true } else s
              | (s, .walk _) => s
              | (s, .page fl) =>
                ((s.pendLine (word / 32)).modLane k id lane fun l => { l with tag := fl }).modWarp k fun w =>
                  { w with wait := if w.wait = .none || w.wait = .acks then .page fl l.lane l.va else w.wait }
              | (s, .declined _ cause) => (s.unpendLine (word / 32)).trapOut k id cProt cause 0 l.lane l.va

/-- Every lane of the instruction that can. -/
def State.vaultAll (s : State) (k : WarpKey) (id : Nat) : State :=
  match s.warp? k with
  | none => s
  | some w =>
    match w.outs.find? (·.id = id) with
    | none => s
    | some o => o.lanes.foldl (fun s l => s.vaultLane k id l.lane) s

/-! ### A fill's grant (R133, R136) -/

/-- Lanes that wait for a vault line's fill: warp, instruction, lane, floor. -/
def State.fillWaiters (s : State) (vline : Nat) : List (WarpKey × Nat × LaneAcc × Nat) :=
  s.warps.flatMap fun p => p.2.outs.flatMap fun o =>
    (o.lanes.filter fun l => l.asked && !l.done && l.a / 128 ≤ vline && vline ≤ (l.a + l.size - 1) / 128).map fun l => (p.1, o.id, l, laneFloor p.2 o l)

/-- A granule of a vault whose two words a fill has both overwritten is poisoned no more (R119). -/
def State.filledOver (s : State) (ws : List Nat) : State :=
  { s with eccVault := s.eccVault.filter fun g => !(ws.contains (2 * g) && ws.contains (2 * g + 1)) }

/-- Install a fill and bind the reads that wait on it; a write that waited for it goes on with the rest of its instruction. A
poisoned fill installs nothing. -/
def State.fillDone (s : State) (vline w exp : Nat) (once : Bool) (d : Line) (poison : Nat) (refused : Bool) : State :=
  let pend := (wordsOf vline).filter fun x => s.wordBits x &&& bPending ≠ 0
  let ws := s.fillWaiters vline
  if poison ≠ 0 || refused then
    let s := pend.foldl (fun s x => s.setWord x (s.wordBits x &&& ~~~bPending)) s
    ws.foldl (fun s p => s.trapOut p.1 p.2.1 (if refused then cProt else if poison = 1 then cLost else cEcc) (if refused then 9 else 0) 0 p.2.2.1.lane p.2.2.1.va) s
  else
    let s := pend.foldl (fun s x =>
      let s := { s with vault := writeBytes s.vault (x * 4) 4 (lineNat d (x % 32 * 4) 4) }
      s.setWord x ((s.wordBits x ||| bValid) &&& ~~~bPending)) (s.filledOver pend)
    let s := { s with mapLines := s.mapLines.put ⟨0, 0⟩ vline ⟨w, if once then 0 else exp⟩ }
    ws.foldl (fun s p =>
      let l := p.2.2.1
      let binds : Bool := (once || p.2.2.2 ≤ exp) && l.a / 128 = (l.a + l.size - 1) / 128
      let s := s.modLane p.1 p.2.1 l.lane fun l => { l with asked := false, ok := l.ok || binds }
      match (s.warp? p.1).bind fun w => (w.outs.find? (·.id = p.2.1)).map fun o => (w, o) with
      | none => s
      | some (wp, o) =>
        if o.writes then s.vaultAll p.1 p.2.1
        else if !binds then s
        else if s.vaultPoison l.a l.size then s.trapOut p.1 p.2.1 cEcc 0 0 l.lane l.va
        else (s.vaultDo p.1 wp o l).vaultDone p.1 p.2.1) s

end Sys2Proof.Machine
end

