-- ==== Sys2Proof/Machine/Flow.lean ====
section
/-! DEFINITION. How a warp moves: fetching, the reconvergence stack (R371 to R375), what a fence waits for (R97,
R98), barriers (R380), and the end and release of sprouts (R448 to R452). -/

namespace Sys2Proof.Machine

/-- The warp waits: it leaves the active set (R393). -/
def State.stall (s : State) (k : WarpKey) (wt : Wait) : State :=
  s.modWarp k fun w => { w with wait := wt, active := false }

/-- The warp cannot issue its instruction yet. -/
def State.hold' (s : State) (k : WarpKey) : State := s.modWarp k fun w => { w with active := false }

/-! ### Fetching (R216) -/

/-- Translate an instruction address; bits [63:56] set is FAULT.PROT with detail 6 (R44, R457). -/
def State.fetchAt (s : State) (k : WarpKey) (w : Warp) (va : DWord) : State × Xl :=
  if 2 ^ 56 ≤ va.toNat then (s, .declined 0 6) else s.translate w.die w.core (s.asidOf k) kFetch va.toNat

/-- A word of instruction memory: fetch reads the bytes as they are at their home (DESIGN CHOICE, log 28). -/
def State.fetchWordAt (s : State) (pa : Nat) : Word := BitVec.ofNat 32 (readBytes s.mem pa 4)

/-- Length in bytes that bits [1:0] of word 0 give (R215). -/
def wordLen (w : Word) : Nat := match w.toNat % 4 with | 0 => 4 | 3 => 20 | _ => 12

/-- What a fetch gives; `bad` names the trap's cause and detail, and the declined record. -/
inductive Fetched where
  | words (ws : List Word)
  | wait (wt : Wait)
  | bad (cause detail fault : Nat) (va : DWord)
deriving DecidableEq, Repr

/-- The word at a physical address, through the home's slice. Poison traps LOST or ECC and an unbacked address FAULT.PROT, as
data do (R37, R40, R81; log 28). -/
def State.fetchPa (s : State) (va : DWord) (pa : Nat) : State × Fetched :=
  let p := s.poisonOf (s.homeOf pa) (lineOf pa)
  if isCompanion pa && !s.backed pa then (s, .bad cProt 9 0 va)
  else if p ≠ 0 then (s, .bad (if p = 1 then cLost else cEcc) 0 0 va)
  else (s.touchRead (lineOf pa), .words [s.fetchWordAt pa])

/-- Word 0 at an address. -/
def State.fetchFirst (s : State) (k : WarpKey) (w : Warp) (va : DWord) : State × Fetched :=
  match s.fetchAt k w va with
  | (s, .ok pa) => s.fetchPa va pa
  | (s, .walk id) => (s, .wait (.walk id 0 va))
  | (s, .page id) => (s, .wait (.page id 0 va))
  | (s, .declined fl cause) => (s, .bad cProt cause fl va)

/-- The further words of an instruction, each under translation. -/
def State.fetchRest (s : State) (k : WarpKey) (w : Warp) (va : DWord) : Nat → List Word → State × Fetched
  | 0, ws => (s, .words ws.reverse)
  | n + 1, ws =>
    match s.fetchFirst k w va with
    | (s, .words (x :: _)) => s.fetchRest k w (va + 4) n (x :: ws)
    | r => r

/-- Every word of the instruction at an address. -/
def State.fetchInstr (s : State) (k : WarpKey) (w : Warp) (va : DWord) : State × Fetched :=
  match s.fetchFirst k w va with
  | (s, .words (x :: _)) => s.fetchRest k w (va + 4) (wordLen x / 4 - 1) [x]
  | r => r

/-- The length of the instruction at an address as far as it is at hand, for a stack entry's image; one word
otherwise (R372; log 29). -/
def State.lenAt (s : State) (k : WarpKey) (w : Warp) (va : DWord) : Nat :=
  match (s.fetchFirst k w va).2 with
  | .words (x :: _) => wordLen x
  | _ => 4

/-! ### The stack (R371) -/

/-- The stack in use: the handler's own in trap mode (R464). -/
def Regs.cur (r : Regs) : List SEntry := if r.tmode then r.hstack else r.stack
def Regs.setCur (r : Regs) (l : List SEntry) : Regs := if r.tmode then { r with hstack := l } else { r with stack := l }

/-- Entries the warp may hold. -/
def stackSize (h : Header) (w : Warp) : Nat := if w.r.tmode then 8 else if w.sprout.isSome then 32 else 32 + h.spill

def stackFits (h : Header) (w : Warp) (n : Nat) : Bool := w.r.cur.length + n ≤ stackSize h w

/-- An entry's layout in the spill area and in a context (R371). -/
def SEntry.pack (e : SEntry) : Nat := e.mask.toNat + e.pc.toNat % 2 ^ 56 * 2 ^ 128 + e.join.toNat % 2 ^ 56 * 2 ^ 192 + e.kind * 2 ^ 248

/-- The spilled entries of a stack, bottom first. -/
def spilledEntries (l : List SEntry) : List SEntry := (l.drop 32).reverse

/-- Where spilled entry i of a warp lies in its core's vault (R117, R371). -/
def State.spillSlot (s : State) (k : WarpKey) (w : Warp) (i : Nat) : Nat :=
  vaultBase w.die w.core + ((s.team? k.teamKey).map (·.spillAt)).getD 0 + (k.warp * (s.header k).spill + i) * 32

/-- Write an entry to the spill area. -/
def State.spillEntry (s : State) (a : Nat) (e : SEntry) : State :=
  { s with vault := writeBytes s.vault a 32 e.pack, eccVault := s.eccVault.filter fun g => !(a ≤ g * 8 && g * 8 + 8 ≤ a + 32) }

/-- Entries of the stack `l` that a stack of n entries did not spill are written to the spill area. -/
def State.spillOut (s : State) (k : WarpKey) (w : Warp) (n : Nat) (l : List SEntry) : State :=
  ((spilledEntries l).zipIdx.drop (n - 32)).foldl (fun t p => t.spillEntry (s.spillSlot k w p.2) p.1) s

/-- Poison in the spilled entries from number lo up to hi (R458). -/
def State.spillBad (s : State) (k : WarpKey) (w : Warp) (lo hi : Nat) : Bool :=
  (List.range hi).any fun i => lo ≤ i && s.vaultPoison (s.spillSlot k w i) 32

/-- Where popping ends. -/
inductive Popped where
  | at (r : Regs)
  | wait (wt : Wait)
  | bad (r : Regs) (cause detail fault : Nat) (va : DWord)
deriving DecidableEq, Repr

/-- Pop, and keep popping while the mask is empty (R374, R375, R378). A reconvergence entry resumes after the
instruction that stands at its join address, whose word is fetched now (R372). -/
def State.popStack (s : State) (k : WarpKey) (w : Warp) : List SEntry → Regs → State × Popped
  | [], r => (s, .at (r.setCur []))
  | e :: rest, r =>
    let m := e.mask &&& r.live
    let r := { r.setCur rest with mask := m, pc := e.pc }
    if m = 0 then s.popStack k w rest r
    else if e.kind ≠ 1 then (s, .at r)
    else
      let (s, f) := s.fetchFirst k w e.join
      (s, match f with
        | .words (x :: _) => .at { r with pc := e.join + BitVec.ofNat 64 (wordLen x) }
        | .wait wt => .wait wt
        | .bad c d fl va => .bad { r with pc := e.join } c d fl va
        | .words [] => .at r)

/-- The next state after popping from registers `r`; a wait leaves the instruction to be executed again. Poison in a spilled
entry that is read back ends the grid with code 17 (R371, R458). -/
def State.resume (s : State) (k : WarpKey) (w : Warp) (r : Regs) : State :=
  let back (s : State) (t : Regs) : Bool := s.spillBad k w (t.cur.length - 32) (r.cur.length - 32)
  match s.popStack k w r.cur r with
  | (s, .at t) => if back s t then s.endGrid k.grid 17 else s.setWarp k { w with r := t, wait := .none }
  | (s, .wait wt) => s.stall k wt
  | (s, .bad t c d fl va) =>
    if back s t then s.endGrid k.grid 17
    else (s.spent fl).trap k { w with r := t, wait := .none } ⟨c, d, 0, wholeWarp, va, t.pc, false, false, false⟩

/-- Threads that exit leave the live set, the current mask and every stack entry (R375). -/
def Regs.exit (r : Regs) (m : Mask) : Regs :=
  let cut (l : List SEntry) : List SEntry := l.map fun e => { e with mask := e.mask &&& ~~~m }
  { r with live := r.live &&& ~~~m, mask := r.mask &&& ~~~m, imask := r.imask &&& ~~~m, stack := cut r.stack, hstack := cut r.hstack }

/-! ### Fences (R97, R98) -/

def Warp.vaultReached (w : Warp) : Bool := w.outs.all fun o => o.finished || !(o.kind = .vstore || o.kind = .vatom)
def Warp.unacked (w : Warp) (comp : Bool) : Bool := w.outs.any fun o => o.acks.any fun a => a.2 = comp
def Warp.spanOpen (w : Warp) : Bool := w.outs.any fun o => o.kind = .span && !o.finished

/-- TC reads strictly more than the latest GWCT plus E; 0 stands for no write. -/
def State.passed (s : State) (unit g : Nat) : Bool := g = 0 || g + s.eAt unit < s.tcAt unit

/-- The conditions of R98; scope 0 team, 1 gang, 2 die, 3 device, 4 system, 5 span. -/
def State.fenceHolds (s : State) (w : Warp) (sc : Nat) : Bool :=
  w.vaultReached &&
    match sc with
    | 0 | 1 => !w.unacked false && !w.unacked true
    | 2 | 3 => !w.unacked false && s.passed w.die w.gwct
    | _ => !w.unacked false && !w.unacked true && s.passed w.die w.gwct && s.passed w.die w.gwctC && (sc ≠ 5 || !w.spanOpen)

/-! ### Barriers (R380) -/

/-- Number of blocks of a launch, and the teams of a die group (R410). -/
def Grid.blocks (g : Grid) : Nat := (g.nteam + g.l.pref - 1) / g.l.pref
def Grid.groupStart (g : Grid) (n : Nat) : Nat := min g.nteam (n * g.blocks / g.ndie * g.l.pref)

/-- Teams that a barrier's scope covers. -/
def State.barTeams (s : State) (k : WarpKey) (sc : Nat) : List Nat :=
  match s.grid? k.grid with
  | none => [k.team]
  | some g =>
    match sc with
    | 0 => [k.team]
    | 1 => (List.range (s.gangOf k.teamKey)).map (k.team - k.team % s.gangOf k.teamKey + ·)
    | _ =>
      let n := ((s.team? k.teamKey).map (·.group)).getD 0
      (List.range (g.groupStart (n + 1) - g.groupStart n)).map (g.groupStart n + ·)

/-- Every team the barrier covers has been placed. -/
def State.barPlaced (s : State) (k : WarpKey) : Bool :=
  match s.grid? k.grid with
  | none => true
  | some g =>
    let n := ((s.team? k.teamKey).map (·.group)).getD 0
    match g.l.next[n]? with
    | some t => g.groupStart (n + 1) ≤ t
    | none => true

def Warp.atBarrier (w : Warp) (sc : Nat) : Bool :=
  match w.wait with
  | .barsync c _ => c = sc
  | _ => false

/-- Warps that are members of the barrier: those the teams' own launch started. -/
def State.barMember (s : State) (k : WarpKey) (sc : Nat) (p : WarpKey × Warp) : Bool :=
  p.1.grid = k.grid && (s.barTeams k sc).contains p.1.team && p.2.sprout.isNone && !p.2.sheller

/-- A warp leaves the barrier it waits at. -/
def Warp.leave (w : Warp) : Warp :=
  match w.wait with
  | .barsync _ len => { w with wait := .none, r := { w.r with pc := w.r.pc + BitVec.ofNat 64 len } }
  | _ => w

/-- When every member has arrived, all leave together. -/
def State.barTry (s : State) (k : WarpKey) (sc : Nat) : State :=
  let isMem (p : WarpKey × Warp) : Bool := s.barMember k sc p
  let all := s.warps.all fun p => !isMem p || p.2.r.live = 0 || p.2.atBarrier sc
  if !all || (sc = 2 && !s.barPlaced k) then s
  else { s with warps := s.warps.map fun (p : WarpKey × Warp) => if isMem p then (p.1, p.2.leave) else p }

/-- The barriers that a warp's end may complete. -/
def State.barAll (s : State) (k : WarpKey) : State := ((s.barTry k 0).barTry k 1).barTry k 2

/-! ### Sprouts (R448 to R452) -/

/-- ROP, FL and SGN of an instruction's MOD (R443). -/
def ropOf (x : Ext) : Nat × Bool × Bool := (x.m 0 3, x.m 3 1 = 1, x.m 4 1 = 1)

/-- Combine a contribution into the reduction (R449). -/
def Recr.combine (c : Recr) (v : FReg) : Recr :=
  if c.rop = 0 then c
  else if !c.accFlag then { c with acc := v.bits, accDec := v.dec, accFlag := true }
  else if c.fl then
    let x := (FReg.mk c.acc c.accDec).raw.read .fp32
    let y := v.raw.read .fp32
    let r := FReg.ofRaw ((match c.rop with
      | 1 => Iv.add .fp32 x y
      | 2 => Iv.imin x y
      | 3 => Iv.imax x y
      | _ => Iv.hull x y).write .fp32)
    { c with acc := r.bits, accDec := r.dec }
  else
    let op := match c.rop with | 1 => 0 | 2 => 1 | _ => 2
    { c with acc := BitVec.ofNat 64 (atomInt op c.sgn 32 c.acc.toNat v.bits.toNat) }

/-- A sprout warp of the recruitment. -/
def ofOwner (owner : WarpKey) (_ : WarpKey) (w : Warp) : Bool := w.sprout.any fun (q : Sprout) => q.owner = owner

/-- Sprouts of a recruitment. -/
def State.sproutsOf (s : State) (owner : WarpKey) : List (WarpKey × Warp) :=
  s.warps.filter fun p => ofOwner owner p.1 p.2

/-- Threads of a sprout warp end: their bits are set in DONE with their contributions, and STATE becomes FINISHED
when all have ended (R448, R450). -/
def State.endSprouts (s : State) (owner : WarpKey) (w : Warp) (ls : List Nat) (v : Nat → Option FReg) : State :=
  s.modWarp owner fun o =>
    let c := ls.foldl (fun (c : Recr) l =>
      let c := { c with done := c.done ||| BitVec.ofNat 512 (2 ^ (w.r.hidx.get 0 l).toNat) }
      match v l with
      | some x => c.combine x
      | none => c) o.r.recr
    let all : Bool := ((List.range 512).filter fun i => c.done.getLsbD i).length = c.g
    { o with r := { o.r with recr := { c with state := if all && c.state = 1 && o.release = 0 then 2 else c.state } } }

/-- A recruiter's thread exits before HJOIN has returned (R452). -/
def State.recruiterExit (s : State) (k : WarpKey) (lanes : Mask) : State :=
  match s.warp? k with
  | none => s
  | some w =>
    if w.r.recr.state = 0 || !lanes.getLsbD w.r.recr.lane then s
    else if w.r.recr.state = 1 then s.releaseOf k true
    else (s.dropWarps (ofOwner k)).modWarp k fun w => { w with r := { w.r with recr := Recr.none } }

/-- The release is complete when R98 `.team` holds for every sprout. -/
def State.releaseHolds (s : State) (owner : WarpKey) : Bool :=
  (s.sproutsOf owner).all fun p => s.fenceHolds { p.2 with outs := p.2.outs.filter fun o => !o.reads || o.kind = .vatom || o.kind = .atom } 0

/-- The floor of the recruiter's thread, and the perform times of its sprouts' writes, after HJOIN (R104). A recruitment that is
released takes the floors of its finished sprouts then, while they are there (DESIGN CHOICE, log 73). -/
def State.joinSprouts (s : State) (k : WarpKey) (w : Warp) : Warp :=
  let ps := s.sproutsOf k
  let lane := w.r.recr.lane
  let ended (l : Nat) (p : WarpKey × Warp) : Bool := w.r.recr.done.getLsbD (p.2.r.hidx.get 0 l).toNat
  let fl := ps.foldl (fun n p => ((lanesOf ((p.2.sprout.map (·.donors)).getD 0)).filter fun l => ended l p).foldl (fun n l => max n (p.2.r.floorOf l)) n) 0
  { w with
    r := w.r.raise lane fl
    gwct := ps.foldl (fun n p => max n p.2.gwct) w.gwct
    gwctC := ps.foldl (fun n p => max n p.2.gwctC) w.gwctC }

/-- Stopped sprouts drop what has not arrived (R452). -/
def State.releaseDone (s : State) (owner : WarpKey) : State :=
  let s := s.modWarp owner fun w => s.joinSprouts owner w
  (s.dropWarps (ofOwner owner)).modWarp owner fun w =>
    { w with release := 0, r := { w.r with recr := if w.release = 2 then Recr.none else { w.r.recr with state := 3 } } }

end Sys2Proof.Machine
end

