-- ==== Sys2Proof/Machine/Memory.lean ====
section
/-! DEFINITION. Loads, stores, atomics, fences, prefetch and cache control, opcodes 0x90 to 0x9c (R337 to R359). -/

namespace Sys2Proof.Machine

/-! ### Addresses and checks (R233, R339, R340) -/

/-- The address of R233 for an access of `size` displacement units, in space `sp`. -/
def Cx.addr (c : Cx) (sp size lane : Nat) : DWord :=
  let idx : Int := (c.i32 lane c.x.c).toInt * ((2 ^ c.x.m 12 3 : Nat) : Int)
  let disp : Int := if c.x.m 15 1 = 1 then (loWord c.lit).toInt else c.x.imm.toInt * (size : Int)
  let sum (base : Nat) : Int := (base : Int) + idx + disp
  if sp = 0 then BitVec.ofInt 64 (sum (c.i64 lane c.x.a).toNat) else (BitVec.ofInt 32 (sum (c.i32 lane c.x.a).toNat)).zeroExtend 64

/-- The size fields of an access. -/
structure Acc where
  sp : Nat
  size : Nat                  -- bytes
  align : Nat
  kind : Nat                  -- access kind of R54
  nibble : Bool := false      -- E2M1 (R348)

def Acc.byteOf (a : Acc) (va : DWord) : Nat := if a.nibble then va.toNat / 2 else va.toNat

/-- One thread's access before it is sent: thread, address as formed, place. -/
structure Spot where
  lane : Nat
  va : DWord
  pa : Nat
  pb : Nat                    -- place of the last byte, which may lie in another page
deriving DecidableEq, Repr

/-- What the checks of R340 find. -/
inductive Checked where
  | go (s : State) (l : List Spot)
  | stop (r : Res)

/-- Translate the first and the last byte of every access in thread order (R340's fourth check). -/
def Cx.xlate (c : Cx) (a : Acc) (s : State) : List (Nat × DWord) → List Spot → Checked
  | [], acc => .go s acc.reverse
  | (l, va) :: rest, acc =>
    let b := a.byteOf va
    let one (s : State) (b : Nat) (k : State → Nat → Checked) : Checked :=
      match s.translate c.w.die c.w.core (c.s.asidOf c.k) a.kind b with
      | (s, .ok pa) => k s pa
      | (s, .walk id) => .stop (.next (s.stall c.k (.walk id l (BitVec.ofNat 64 b))))
      | (s, .page id) => .stop (.next (s.stall c.k (.page id l (BitVec.ofNat 64 b))))
      | (s, .declined id cause) => .stop ((s.spent id).precise c.k c.w cProt cause 0 l va)
    one s b fun s pa =>
      if b / 2 ^ 16 = (b + a.size - 1) / 2 ^ 16 then c.xlate a s rest (⟨l, va, pa, pa + (a.size - 1)⟩ :: acc)
      else if 2 ^ 56 ≤ b + a.size - 1 then .stop (s.precise c.k c.w cProt 6 0 l va)
      else one s (b + a.size - 1) fun s pb => c.xlate a s rest (⟨l, va, pa, pb⟩ :: acc)

/-- A word of the access lies in a `.ro` map (R134). -/
def State.roMapped (s : State) (a size : Nat) : Bool :=
  (wordsIn a size).any fun w => match s.mapAt (w * 4) with
    | some (_, m, _) => !m.rw
    | none => false

/-- What the pages behind a scratch access's mapped words give. -/
inductive MapPages where
  | go (s : State)
  | wait (s : State)
  | stop (fault cause : Nat) (p : Spot)

/-- Translation of the pages from which a store or an atomic of scratch must first bring in words (R340's fourth check, R134 to
R136): it is settled before anything is written. A fault leaves the words PENDING. -/
def State.mapPages (s : State) (k : WarpKey) (w : Warp) (a : Acc) : List Spot → MapPages
  | [] => .go s
  | p :: rest =>
    match s.toFill w.die (w.r.floorOf p.lane) (a.kind = kStore) p.pa a.size with
    | none => s.mapPages k w a rest
    | some (word, m, va) =>
      if s.filling word || !m.rw then s.mapPages k w a rest
      else if 2 ^ 56 ≤ va then .stop 0 6 p
      else match s.translate w.die w.core m.asid kLoad va with
        | (s, .ok _) => s.mapPages k w a rest
        | (s, .walk id) => .wait (s.stall k (.walk id p.lane p.va))
        | (s, .page id) => .wait ((s.pendLine (word / 32)).stall k (.page id p.lane p.va))
        | (_, .declined id cause) => .stop id cause p

/-- The checks of R340 after decode, in order, each over every thread. -/
def Cx.checks (c : Cx) (a : Acc) (lanes : List Nat) (va : Nat → DWord) : Checked :=
  let trap (cause detail l : Nat) : Checked := .stop (c.trapIn cause detail l (va l))
  let misaligned := lanes.find? fun l => a.byteOf (va l) % a.align ≠ 0
  if a.sp = 0 then
    match lanes.find? fun l => 2 ^ 56 ≤ a.byteOf (va l) with
    | some l => trap cProt 6 l
    | none => match misaligned with
      | some l => trap cMisalign 0 l
      | none => c.xlate a c.s (lanes.map fun l => (l, va l)) []
  else
    let loc (l : Nat) : ScratchLoc := c.s.scratchLoc c.k c.w a.sp (a.byteOf (va l)) a.size
    match lanes.find? fun l => (loc l).isBad with
    | some l => (match loc l with
        | .bad cause detail => trap cause detail l
        | .at _ => .stop (.next c.s))
    | none => match misaligned with
      | some l => trap cMisalign 0 l
      | none =>
        let base := vaultBase c.w.die 0
        let spots := lanes.map fun l => match loc l with
          | .at p => (⟨l, va l, base + p, base + p + (a.size - 1)⟩ : Spot)
          | .bad _ _ => ⟨l, va l, 0, 0⟩
        if a.kind = kLoad then .go c.s spots
        else match c.s.mapPages c.k c.w a spots with
          | .stop fl cause p => .stop ((c.s.spent fl).precise c.k c.w cProt cause 0 p.lane p.va)
          | .wait s => .stop (.next s)
          | .go s => (match spots.find? fun p => s.roMapped p.pa a.size with
            | some p => trap cProt 8 p.lane
            | none => .go s spots)

/-- Uncommitted instructions of R456, and the limit of a counter (R162). -/
def Warp.room (w : Warp) (ctr : Ctr) : Bool := (w.outs.filter fun o => !o.finished).length < 32 && w.counter ctr < 255

/-- A memory instruction other than a load issues once every older load has committed (R456); none issues while a
LD.acq has not (R100). -/
def Cx.mayStart (c : Cx) (ctr : Ctr) (load : Bool) : Bool := !c.w.acquiring && (load || c.w.settled) && c.w.room ctr

/-! ### Reads -/

/-- The lines of a list of accesses, in order of first use. -/
def linesOf (spots : List Spot) : List Nat :=
  spots.foldl (fun ls p => [lineOf p.pa, lineOf p.pb].foldl (fun ls n => if ls.contains n then ls else ls ++ [n]) ls) []

/-- Registers a read will write, empty until then (R176). -/
def Cx.dests (c : Cx) (lanes : List Nat) : List Dest :=
  let regs := (sig c.op c.x).d.regs c.x.d
  lanes.flatMap fun l => regs.map fun p => ⟨p.1, p.2, if p.1 = .s then 0 else l⟩

/-- An access as the instruction keeps it. -/
def Spot.acc (p : Spot) (size data cmp tag : Nat) : LaneAcc := ⟨p.lane, p.pa, p.pb, p.va, size, data, cmp, false, 0, false, false, tag⟩

def Cx.newOut (c : Cx) (s : State) (kind : OKind) (ctr : Ctr) (lanes : List LaneAcc) (dests : List Dest) (acq : Bool) (back : Bool) : Out :=
  { id := s.nextId, kind := kind, op := c.op, x := c.x, ctr := some ctr, mask := c.m, lanes := lanes, pieces := [], acks := [], dests := dests,
    finished := false, acq := acq, oldest := if c.w.settled then s.nextId else 0, back := if back then some c.w.r else none, slot := 0, stop := none }

/-- The instruction is outstanding and the warp goes on, or waits for it. -/
def State.addOut (s : State) (k : WarpKey) (o : Out) (len : Nat) (wt : Wait) : State :=
  { s with nextId := s.nextId + 1 }.modWarp k fun w => { (w.issue o len) with wait := wt, active := if wt = Wait.none then w.active else false }

/-- A load of global memory: L1 hits bind at once, every other line is asked for (R56, R126, R343, R344); single-use reads only
once the load is the warp's oldest, so that reads bind in order (R91). -/
def Cx.globalLoad (c : Cx) (len : Nat) (s : State) (spots : List Spot) (size : Nat) (acq once : Bool) : Res :=
  let uni : Bool := c.op = .sld
  let floorOn (line : Nat) : Nat :=
    if uni then c.w.r.floorMax c.m
    else spots.foldl (fun n p => if lineOf p.pa = line || lineOf p.pb = line then max n (c.w.r.floorOf p.lane) else n) 0
  let lines := linesOf spots
  let later : Bool := once && !c.w.settled
  let miss := lines.filter fun n => (s.l1Hit c.w.die c.w.core n (floorOn n)).isNone
  if !s.canSend c.k c.w (if later then 0 else miss.length) then .next (s.holdIssue c.k)
  else
    let o := c.newOut s .load (if c.op = .xload then .kx else .kg) (spots.map fun p => p.acc size 0 0 0) (c.dests (spots.map (·.lane))) acq true
    let s := ((s.addOut c.k o len .none).countCore c.w.die c.w.core 5 (lines.length - miss.length)).countCore c.w.die c.w.core 6 miss.length
    let s := lines.foldl (fun s n =>
      match s.l1Hit c.w.die c.w.core n (floorOn n) with
      | some l => (s.l1Use c.w.die c.w.core n).modWarp c.k fun w => w.modOut o.id fun o => { o with pieces := o.pieces ++ [⟨n, l.w, l.expiry, 0, false, l.data⟩] }
      | none => if later then s else s.askLine c.w.die c.w.core n (floorOn n) once (.out c.k o.id)) s
    .next (s.commitAll c.k)

/-- A load of scratch: each lane's access goes to its vault (R123, R343). -/
def Cx.scratchLoad (c : Cx) (len : Nat) (s : State) (spots : List Spot) (size : Nat) (acq : Bool) : Res :=
  let o := c.newOut s .vload (if c.op = .xload then .kx else .ks) (spots.map fun p => p.acc size 0 0 0) (c.dests (spots.map (·.lane))) acq true
  .next (s.addOut c.k o len (if c.op = .sld then .acks else .none))

/-- A load in any space. -/
def Cx.load (c : Cx) (len : Nat) (a : Acc) (acq once : Bool) : Res :=
  let lanes := if c.op = .sld then [lowest c.m] else lanesOf c.m
  let ctr : Ctr := if a.sp = 0 then .kg else .ks
  if c.m = 0 then c.done len c.w.r
  else if !c.mayStart ctr true then .next (c.s.hold' c.k)
  else match c.checks a lanes fun l => c.addr a.sp a.size l with
    | .stop r => r
    | .go s spots => if a.sp = 0 then c.globalLoad len s spots a.size acq once else c.scratchLoad len s spots a.size acq

/-- Bytes of LD's and ST's sizes (R337). -/
def szBytes (sz : Nat) : Nat := match sz with | 0 => 4 | 1 => 8 | 2 => 16 | 3 | 4 => 1 | _ => 2

/-- Bytes and alignment of an element format of LDF and STF (R348). -/
def fmtBytes (fmt : Nat) : Nat := match fmt with | 0 | 9 => 8 | 1 => 4 | 2 | 3 => 2 | 7 => 6 | 8 => 4 | _ => 1
def fmtAlign (fmt : Nat) : Nat := match fmt with | 0 | 9 => 8 | 1 => 4 | 2 | 3 | 7 | 8 => 2 | _ => 1

def ld (op : Op) (x : Ext) (len : Nat) (s : State) : Res :=
  frame op x s fun c =>
    let n := szBytes (x.m 0 3)
    c.load len ⟨x.m 3 2, n, n, kLoad, false⟩ (x.m 5 3 = 1) (x.m 8 1 = 1)

def ldf (op : Op) (x : Ext) (len : Nat) (s : State) : Res :=
  frame op x s fun c =>
    let f := x.m 0 4
    c.load len ⟨x.m 4 2, fmtBytes f, fmtAlign f, kLoad, f = 6⟩ (x.m 6 3 = 1) (x.m 9 1 = 1)

def sld (op : Op) (x : Ext) (len : Nat) (s : State) : Res :=
  frame op x s fun c =>
    let n := szBytes (x.m 0 2)
    c.load len ⟨x.m 2 2, n, n, kLoad, false⟩ (x.m 4 3 = 1) false

/-! ### Writes -/

/-- The fence of an ORD code: 0 none, else the scope's conditions must hold first (R99). -/
def Cx.released (c : Cx) (ord : Nat) : Bool := ord = 0 || c.s.fenceHolds c.w (ord - 1)

/-- The pieces of the accesses that lie in single lines: thread, address, place, offset of the piece in the data, bytes. -/
def Spot.split (p : Spot) (size : Nat) : List (Spot × Nat × Nat) :=
  let first := 128 - p.pa % 128
  if size ≤ first then [(p, 0, size)]
  else [(p, 0, first), ({ p with pa := p.pb - (size - first - 1) }, first, size - first)]

/-- Bytes that lanes write to one line, the highest lane last (R341). -/
def mergeLine (ps : List (Spot × Nat × Nat)) (val : Nat → Nat) : BitVec 128 × Nat :=
  ps.foldl (fun md q =>
    let off := q.1.pa % 128
    let v := val q.1.lane / 256 ^ q.2.1 % 256 ^ q.2.2
    (md.1 ||| byteMask off q.2.2, md.2 - md.2 / 256 ^ off % 256 ^ q.2.2 * 256 ^ off + v * 256 ^ off)) (0, 0)

/-- Send one StoreReq per line; the accesses keep the tags of their requests (R63, R96). -/
def Cx.sendStores (c : Cx) (id : Nat) (val : Nat → Nat) (ps : List (Spot × Nat × Nat)) (s : State) : List Nat → List LaneAcc → List (Nat × Bool) → State × List LaneAcc × List (Nat × Bool)
  | [], ls, as => (s, ls, as)
  | n :: rest, ls, as =>
    let mine := ps.filter fun q => lineOf q.1.pa = n
    let md := mergeLine mine val
    let tag := s.nextId
    let comp := isCompanion (lineAddr n)
    let s := (s.l1Drop c.w.die c.w.core n).request c.w.die c.w.core
      { id := 0, ty := .storeReq, src := 0, dst := 0, addr := lineAddr n, mask := md.1, data := BitVec.ofNat 1024 md.2 }
      (Req.of n 0 false [.out c.k id])
    c.sendStores id val ps s rest
      (ls ++ mine.map fun q => q.1.acc q.2.2 (val q.1.lane / 256 ^ q.2.1 % 256 ^ q.2.2) 0 tag) (as ++ [(tag, comp)])

/-- A store of global memory (R345). -/
def Cx.globalStore (c : Cx) (len : Nat) (s : State) (spots : List Spot) (size : Nat) (val : Nat → Nat) : Res :=
  let ps := spots.flatMap fun p => p.split size
  let lines := linesOf spots
  if !s.canSend c.k c.w lines.length then .next (s.holdIssue c.k)
  else
    let id := s.nextId
    let (s, ls, as) := c.sendStores id val ps { s with nextId := id + 1 } lines [] []
    let o := { c.newOut s .store .kg ls [] false false with id := id, acks := as }
    .next (s.addOut c.k o len .none)

/-- The access may have to bring in a mapped word first, and then acts as a read too (R134, R135). -/
def State.readsMap (s : State) (write : Bool) (a size : Nat) : Bool :=
  (wordsIn a size).any fun w => (s.mapAt (w * 4)).isSome && !(write && a ≤ w * 4 && w * 4 + 4 ≤ a + size)

/-- A store of scratch (R345, R134). -/
def Cx.scratchStore (c : Cx) (len : Nat) (s : State) (spots : List Spot) (size : Nat) (val : Nat → Nat) : Res :=
  let o := c.newOut s .vstore .ks (spots.map fun p => p.acc size (val p.lane) 0 0) [] false (spots.any fun p => s.readsMap true p.pa size)
  .next (s.addOut c.k o len .none)

/-- A store in any space, behind the fence of its ORD code (R99, R345). -/
def Cx.store (c : Cx) (len : Nat) (a : Acc) (ord : Nat) (val : Nat → Nat) : Res :=
  let lanes := if c.op = .sst then [lowest c.m] else lanesOf c.m
  let ctr : Ctr := if a.sp = 0 then .kg else .ks
  if c.m = 0 then c.done len c.w.r
  else if !c.mayStart ctr false then .next (c.s.hold' c.k)
  else if !c.released ord then .next (c.s.stall c.k (.fence (ord - 1)))
  else if ord = 6 && c.w.r.spanRef ≠ 0 then
    c.s.precise c.k { c.w with r := { c.w.r with spanRef := 0 } } cProt 10 0 (lowest c.m) c.w.r.spanRef
  else match c.checks a lanes fun l => c.addr a.sp a.size l with
    | .stop r => r
    | .go s spots => if a.sp = 0 then c.globalStore len s spots a.size val else c.scratchStore len s spots a.size val

/-- ST's and SST's data: one, two or four words. -/
def Cx.words (c : Cx) (n lane : Nat) (x : Sel) : Nat :=
  if n = 4 then
    (match x with
      | .reg k => (List.range 4).foldr (fun i v => v * 2 ^ 32 + (c.w.r.getV (k.toNat + i) lane).toNat) 0
      | .s k => (List.range 4).foldr (fun i v => v * 2 ^ 32 + (c.w.r.getS c.nS (k.val + i)).toNat) 0
      | _ => 0)
  else (c.int n lane x).toNat

def st (op : Op) (x : Ext) (len : Nat) (s : State) : Res :=
  frame op x s fun c =>
    let sz := x.m 0 3; let n := szBytes sz
    c.store len ⟨x.m 3 2, n, n, kStore, false⟩ (x.m 5 3) fun l => c.words (szN sz) l x.b % 256 ^ n

def sst (op : Op) (x : Ext) (len : Nat) (s : State) : Res :=
  frame op x s fun c =>
    let sz := x.m 0 2; let n := szBytes sz
    c.store len ⟨x.m 2 2, n, n, kStore, false⟩ (x.m 4 3) fun l => c.words (szN sz) l x.b % 256 ^ n

/-- Element formats of STF that store one bound (R348). -/
def stfFmt (fmt : Nat) : Fmt := match fmt with | 1 => .fp32 | 2 => .bf16 | 3 => .f16 | 4 => .e5m2 | _ => .e4m3

/-- One bound of a stored pair as a point of its format: +∞ or −∞ of the empty set, NaN of NaI (R349). -/
def Raw.bound (f : Fmt) (hi : Bool) (v : Raw) : Pt :=
  match v.read f with
  | .nai => .nan
  | .empty => .inf hi
  | .mk _ _ _ => f.decode (if hi then v.hi else v.lo)

/-- A bound rounded into a shorter format as BND says (R349, R188, R195). An empty set's infinite bound stands as it
is, but in E4M3 it takes R188's row: RoundDown of +∞ is 448 and RoundUp of −∞ is −448. -/
def boundCode (f : Fmt) (bnd : Nat) (sat : Bool) (p : Pt) : Nat :=
  match p with
  | .nan => f.nan
  | .inf neg =>
    if f = .e4m3 && (if neg then bnd = 1 else bnd = 0) then f.encode (.fin neg f.top)
    else (storeCode f sat (.inf neg)).1
  | .fin neg code =>
    if code = 0 then f.encode (.fin neg 0)
    else
      let v := if neg then (Fmt.fp32.mag code).neg else Fmt.fp32.mag code
      (storeCode f sat (if bnd = 0 then roundDown f v.cut else if bnd = 1 then roundUp f v.cut else roundNear f v.cut)).1

/-- STF's data (R348, R349, R197, R200). -/
def Cx.stfValue (c : Cx) (lane : Nat) : Nat :=
  let fmt := c.x.m 0 4; let bnd := c.x.m 6 2
  let v := c.flt lane c.x.b
  match fmt with
  | 0 => v.lo + v.hi * 2 ^ 32
  | 7 => (let p := Iv.toMid .fp32 .fp32 (v.read .fp32); p.1 + p.2 * 2 ^ 32)
  | 8 => (let p := Iv.toMid .fp32 .bf16 (v.read .fp32); p.1 + p.2 * 2 ^ 16)
  | 9 => Fmt.fp64.encode ((c.dbl lane c.x.b).bound .fp64 (bnd = 1))
  | _ => boundCode (stfFmt fmt) bnd (c.x.m 8 1 = 1) (v.bound .fp32 (bnd = 1))

def stf (op : Op) (x : Ext) (len : Nat) (s : State) : Res :=
  frame op x s fun c =>
    let f := x.m 0 4
    c.store len ⟨x.m 4 2, fmtBytes f, fmtAlign f, kStore, false⟩ (x.m 9 3) c.stfValue

/-! ### Atomics (R352 to R356) -/

/-- An instruction of the atomic family returns values. -/
def returns (op : Op) : Bool := op = .atom || op = .atomf || op = .cas

/-- The operand, and for CAS the comparand, of one thread. -/
def Cx.atomOperand (c : Cx) (lane : Nat) : Nat × Nat :=
  let n := if 2 ≤ c.x.m 0 2 then 2 else 1
  let flt : Bool := c.op = .atomf || (c.op = .red && c.x.m 9 1 = 1)
  if flt then
    let v := (c.iv lane c.x.b).write .fp32
    if c.x.m 0 1 = 1 then (Fmt.fp32.encode ((c.flt lane c.x.b).lower .fp32), 0) else (v.lo + v.hi * 2 ^ 32, 0)
  else ((c.int n lane c.x.b).toNat, if c.op = .cas then (c.int n lane c.x.d).toNat else 0)

/-- Bytes of the element. -/
def Cx.elemSize (c : Cx) : Nat := atomSize (atomCode c.op c.x)

/-- One AtomReq per thread, ascending (R355). -/
def Cx.sendAtoms (c : Cx) (id : Nat) (s : State) : List Spot → List LaneAcc → List (Nat × Bool) → State × List LaneAcc × List (Nat × Bool)
  | [], ls, as => (s, ls, as)
  | p :: rest, ls, as =>
    let v := c.atomOperand p.lane
    let tag := s.nextId
    let s := s.request c.w.die c.w.core
      { id := 0, ty := .atomReq, src := 0, dst := 0, addr := p.pa, op := atomCode c.op c.x, data := BitVec.ofNat 1024 (v.1 + v.2 * 2 ^ 64) }
      (Req.of (lineOf p.pa) 0 false [.out c.k id])
    c.sendAtoms id s rest (ls ++ [p.acc c.elemSize v.1 0 tag]) (as ++ [(tag, isCompanion p.pa)])

/-- Threads of a RED in groups that travel together: distinct elements of one line, the first use of each element
first (R355). -/
def redGroups (size : Nat) (spots : List Spot) : Nat → List (List Spot)
  | 0 => []
  | fuel + 1 =>
    match spots with
    | [] => []
    | p :: _ =>
      let line := lineOf p.pa
      let g := spots.foldl (fun g q => if lineOf q.pa = line && !(g.any fun (h : Spot) => h.pa / size = q.pa / size) then g ++ [q] else g) ([] : List Spot)
      g :: redGroups size (spots.filter fun q => !g.contains q) fuel

/-- The requests of a RED. -/
def Cx.sendReds (c : Cx) (id : Nat) (s : State) : List (List Spot) → List LaneAcc → List (Nat × Bool) → State × List LaneAcc × List (Nat × Bool)
  | [], ls, as => (s, ls, as)
  | g :: rest, ls, as =>
    let n := c.elemSize
    let line := ((g.head?).map fun p => lineOf p.pa).getD 0
    let data := g.foldl (fun d p => d + (c.atomOperand p.lane).1 * 256 ^ (p.pa % 128)) 0
    let mask := g.foldl (fun m p => m ||| byteMask (p.pa % 128) n) 0
    let tag := s.nextId
    let s := s.request c.w.die c.w.core
      { id := 0, ty := .atomReq, noret := true, src := 0, dst := 0, addr := lineAddr line, op := atomCode c.op c.x, mask := mask, data := BitVec.ofNat 1024 data }
      (Req.of line 0 false [.out c.k id])
    c.sendReds id s rest (ls ++ g.map fun p => p.acc n (c.atomOperand p.lane).1 0 tag) (as ++ [(tag, isCompanion (lineAddr line))])

/-- An atomic or RED of global memory. -/
def Cx.globalAtom (c : Cx) (len : Nat) (s : State) (spots : List Spot) : Res :=
  let groups := if c.op = .red then redGroups c.elemSize spots spots.length else []
  if !s.canSend c.k c.w (if c.op = .red then groups.length else spots.length) then .next (s.holdIssue c.k)
  else
    let id := s.nextId
    let s := { s with nextId := id + 1 }
    let (s, ls, as) := if c.op = .red then c.sendReds id s groups [] [] else c.sendAtoms id s spots [] []
    let s := (spots.map fun p => lineOf p.pa).foldl (fun s n => s.l1Drop c.w.die c.w.core n) s
    let o := { c.newOut s (if c.op = .red then .red else .atom) .kg ls [] false (returns c.op) with id := id, acks := as }
    .next (s.addOut c.k o len (if returns c.op then .acks else .none))

/-- An atomic or RED of scratch (R125, R135). A RED orders as a write (R101), but on a mapped word it may trap as a read does. -/
def Cx.scratchAtom (c : Cx) (len : Nat) (s : State) (spots : List Spot) : Res :=
  let acc (p : Spot) : LaneAcc := (let v := c.atomOperand p.lane; p.acc c.elemSize v.1 v.2 0)
  let o := c.newOut s .vatom .ks (spots.map acc) [] false (returns c.op || spots.any fun p => s.readsMap false p.pa c.elemSize)
  .next (s.addOut c.k o len (if returns c.op then .acks else .none))

/-- The port of a span operation: one of its module's route mask that is in service, picked by a hash of the address;
48 where there is none (R486; log 33). -/
def State.spanRoute (s : State) (va : DWord) : Nat :=
  let mask := s.reg (rSpanRoute + 8 * (va.toNat / 2 ^ 56 % 64))
  let ports := (List.range 48).filter fun p => mask / 2 ^ p % 2 = 1 && !s.portsOut.contains p
  ports.getD (Config.spanPort va % ports.length) 48

/-- Under `.span` the requests go to the bridge of the target module; bits [63:62] must be zero (R356, R44). -/
def Cx.spanAtom (c : Cx) (len : Nat) : Res :=
  let lanes := lanesOf c.m
  let n := c.elemSize
  let va (l : Nat) : DWord := c.addr 0 n l
  match lanes.find? fun l => 2 ^ 62 ≤ (va l).toNat with
  | some l => c.trapIn cProt 6 l (va l)
  | none => match lanes.find? fun l => (va l).toNat % n ≠ 0 with
    | some l => c.trapIn cMisalign 0 l (va l)
    | none =>
      let s := c.s
      let id := s.nextId
      let ops := lanes.mapIdx fun i l =>
        let v := c.atomOperand l
        (⟨id + 1 + i, if returns c.op then 2 else 3, some (c.k, id), 0, va l, l, atomCode c.op c.x, v.1, v.2, s.spanRoute (va l), s.now⟩ : SpanOp)
      let ls := lanes.mapIdx fun i l => (⟨l, (va l).toNat, (va l).toNat + (n - 1), va l, n, 0, 0, false, 0, false, false, id + 1 + i⟩ : LaneAcc)
      let o := { c.newOut s .span .kg ls [] false (returns c.op) with id := id, acks := [] }
      let s := { s with spans := s.spans ++ ops, nextId := id + lanes.length }
      .next (s.addOut c.k o len (if returns c.op then .acks else .none))

def atomAny (op : Op) (x : Ext) (len : Nat) (s : State) : Res :=
  frame op x s fun c =>
    let n := c.elemSize
    let sp := x.m 2 2
    let a : Acc := ⟨sp, n, n, kAtomic, false⟩
    if c.m = 0 then c.done len c.w.r
    else if !c.mayStart (if sp = 0 then .kg else .ks) false then .next (c.s.hold' c.k)
    else if x.m 8 1 = 1 then c.spanAtom len
    else match c.checks a (lanesOf c.m) fun l => c.addr sp n l with
      | .stop r => r
      | .go s spots => if sp = 0 then c.globalAtom len s spots else c.scratchAtom len s spots

/-! ### FENCE, PREF and CCTL (R357 to R359) -/

/-- Scope of a FENCE's SC code, in the order of R98. -/
def fenceScope (sc : Nat) : Nat := match sc with | 0 => 3 | 1 => 0 | 2 => 1 | 3 => 2 | n => n

def fence (op : Op) (x : Ext) (len : Nat) (s : State) : Res :=
  frame op x s fun c =>
    let sc := fenceScope (x.m 0 3)
    if c.m = 0 then c.done len c.w.r
    else if !(c.w.settled && !c.w.acquiring && c.s.fenceHolds c.w sc) then .next (c.s.stall c.k (.fence sc))
    else if sc = 5 && c.w.r.spanRef ≠ 0 then
      c.s.precise c.k { c.w with r := { c.w.r with spanRef := 0 } } cProt 10 0 (lowest c.m) c.w.r.spanRef
    else c.s.done c.k { c.w with wait := .none } c.w.r len

/-- The places of prefetch or cache-control addresses of lanes, with their floors: a failure drops an address, with no fault record
and no PAGE-WAIT (R358, R359); a walk in flight is waited for. -/
def Cx.quietPas (c : Cx) (s : State) : List Nat → List (Nat × Nat) → List Nat → State × Except Nat (List (Nat × Nat) × List Nat)
  | [], ps, gone => (s, .ok (ps, gone))
  | l :: rest, ps, gone =>
    let va := (c.addr 0 128 l).toNat
    if 2 ^ 56 ≤ va then c.quietPas s rest ps gone
    else match s.translate c.w.die c.w.core (c.s.asidOf c.k) kQuiet va with
      | (s, .ok pa) => c.quietPas s rest (ps ++ [(lineOf pa, c.w.r.floorOf l)]) gone
      | (s, .walk id) => (s, .error id)
      | (s, .page _) => c.quietPas s rest ps gone
      | (s, .declined fl _) => c.quietPas s rest ps (gone ++ [fl])

/-- Go on with the lines of the taking-part threads' addresses that translate, each with the largest floor of its threads. -/
def Cx.quietLines (c : Cx) (go : State → List (Nat × Nat) → Res) : Res :=
  match c.quietPas c.s (lanesOf c.m) [] [] with
  | (s, .error id) => .next (s.stall c.k (.walk id (lowest c.m) 0))
  | (s, .ok (ps, gone)) =>
    go (gone.foldl (fun s fl => s.spent fl) s)
      (ps.foldl (fun ls p => if ls.any fun q => q.1 = p.1 then ls.map fun q => if q.1 = p.1 then (q.1, max q.2 p.2) else q else ls ++ [p]) [])

def pref (op : Op) (x : Ext) (len : Nat) (s : State) : Res :=
  frame op x s fun c =>
    if c.w.acquiring then .next (c.s.hold' c.k)
    else c.quietLines fun s lines =>
      if !s.canSend c.k c.w lines.length then .next (s.holdIssue c.k)
      else
        let once : Bool := x.m 0 2 = 1
        (lines.foldl (fun s p =>
          if !once && (s.l1Hit c.w.die c.w.core p.1 p.2).isSome then s else s.askLine c.w.die c.w.core p.1 p.2 once .prefetch) s).done c.k c.w c.w.r len

def cctl (op : Op) (x : Ext) (len : Nat) (s : State) : Res :=
  frame op x s fun c =>
    match x.m 0 2 with
    | 0 =>
      if c.m = 0 then c.done len c.w.r
      else { c.s with l1 := c.s.l1.filter fun l => !(l.die = c.w.die && l.core = c.w.core) }.done c.k c.w c.w.r len
    | 1 => c.quietLines fun s lines => (lines.foldl (fun s p => s.l1Drop c.w.die c.w.core p.1) s).done c.k c.w c.w.r len
    | _ =>
      if !(c.mayStart .kg false) then .next (c.s.hold' c.k)
      else c.quietLines fun s lines =>
        if lines = [] then s.done c.k c.w c.w.r len
        else if !s.canSend c.k c.w lines.length then .next (s.holdIssue c.k)
        else
          let id := s.nextId
          let (s, as) := lines.foldl (fun (p : State × List (Nat × Bool)) q =>
            let tag := p.1.nextId
            (p.1.request c.w.die c.w.core { id := 0, ty := .clean, src := 0, dst := 0, addr := lineAddr q.1 } (Req.of q.1 0 false [.out c.k id]),
              p.2 ++ [(tag, isCompanion (lineAddr q.1))])) ({ s with nextId := id + 1 }, [])
          let o := { c.newOut s .clean .kg [] [] false false with id := id, acks := as }
          .next (s.addOut c.k o len .none)

/-! ### The instructions -/

/-- Integer load from a global or scratch space (R343). -/
def execLd (a : BitVec 7) (d : BitVec 7) (s : State) : Res :=
  ld .ld (Ext.base .ld false 0 a d) 4 s

/-- Extended-form LD with size, space, .acq and .nc (R343). -/
def execLdX (x : Ext) (s : State) : Res :=
  ld .ld x (extLen x) s

/-- Integer store (R345). -/
def execSt (b : BitVec 7) (a : BitVec 7) (s : State) : Res :=
  st .st (Ext.base .st false b a 0) 4 s

/-- Extended-form ST, including .rel (R345). -/
def execStX (x : Ext) (s : State) : Res :=
  st .st x (extLen x) s

/-- Floating load into an interval register (R350). -/
def execLdf (a : BitVec 7) (d : BitVec 7) (s : State) : Res :=
  ldf .ldf (Ext.base .ldf false 0 a d) 4 s

/-- Extended-form LDF (R350). -/
def execLdfX (x : Ext) (s : State) : Res :=
  ldf .ldf x (extLen x) s

/-- Floating store of an interval or one bound (R349). -/
def execStf (b : BitVec 7) (a : BitVec 7) (s : State) : Res :=
  stf .stf (Ext.base .stf false b a 0) 4 s

/-- Extended-form STF (R349). -/
def execStfX (x : Ext) (s : State) : Res :=
  stf .stf x (extLen x) s

/-- Uniform load into S registers (R351). -/
def execSld (x : Ext) (s : State) : Res :=
  sld .sld x (extLen x) s

/-- Uniform store from S registers (R351). -/
def execSst (x : Ext) (s : State) : Res :=
  sst .sst x (extLen x) s

/-- Integer atomic that returns the old value (R352). -/
def execAtom (b : BitVec 7) (a : BitVec 7) (d : BitVec 7) (s : State) : Res :=
  atomAny .atom (Ext.base .atom false b a d) 4 s

/-- Extended-form ATOM (R352). -/
def execAtomX (x : Ext) (s : State) : Res :=
  atomAny .atom x (extLen x) s

/-- Interval or FP32 atomic (R353). -/
def execAtomf (b : BitVec 7) (a : BitVec 7) (d : BitVec 7) (s : State) : Res :=
  atomAny .atomf (Ext.base .atomf false b a d) 4 s

/-- Extended-form ATOMF (R353). -/
def execAtomfX (x : Ext) (s : State) : Res :=
  atomAny .atomf x (extLen x) s

/-- Reduction with no returned value (R354). -/
def execRed (b : BitVec 7) (a : BitVec 7) (s : State) : Res :=
  atomAny .red (Ext.base .red false b a 0) 4 s

/-- Extended-form RED (R354). -/
def execRedX (x : Ext) (s : State) : Res :=
  atomAny .red x (extLen x) s

/-- Compare-and-swap (R354). -/
def execCas (b : BitVec 7) (a : BitVec 7) (d : BitVec 7) (s : State) : Res :=
  atomAny .cas (Ext.base .cas false b a d) 4 s

/-- Extended-form CAS (R354). -/
def execCasX (x : Ext) (s : State) : Res :=
  atomAny .cas x (extLen x) s

/-- Base-form FENCE.dev (R357). -/
def execFence (s : State) : Res :=
  fence .fence (Ext.base .fence false 0 0 0) 4 s

/-- FENCE of any scope (R357). -/
def execFenceX (x : Ext) (s : State) : Res :=
  fence .fence x (extLen x) s

/-- Prefetch into the L1 or the LLC (R358). -/
def execPref (a : BitVec 7) (s : State) : Res :=
  pref .pref (Ext.base .pref false 0 a 0) 4 s

/-- Extended-form PREF (R358). -/
def execPrefX (x : Ext) (s : State) : Res :=
  pref .pref x (extLen x) s

/-- Base-form CCTL.l1inv (R359). -/
def execCctl (s : State) : Res :=
  cctl .cctl (Ext.base .cctl false 0 0 0) 4 s

/-- Cache control: L1 invalidation or write-back at the slice (R359). -/
def execCctlX (x : Ext) (s : State) : Res :=
  cctl .cctl x (extLen x) s

end Sys2Proof.Machine
end

