-- ==== Sys2Proof/Machine/Unit.lean ====
section
/-! DEFINITION. How the matrix load pipes and the stream unit read: single-use reads of global memory, and vault reads
that wait on copy marks and fill mapped words (R59, R110, R120, R129, R137). -/

namespace Sys2Proof.Machine

/-- A unit that reads for a warp. -/
structure Pipe where
  reader : Reader
  k : WarpKey
  w : Warp
  kind : Nat                  -- access kind of R54
  agent : Nat
  unit : Nat                  -- cluster

/-- What asking for a place comes to. -/
inductive Asked where
  | going
  | walk (id : Nat)
  | page (fault : Nat)
  | bad (cause detail fault : Nat)
deriving DecidableEq, Repr

def Pipe.asid (p : Pipe) (s : State) : Nat := s.asidOf p.k

/-- A fill has come that the reader waited for. -/
def State.filled (s : State) (r : Reader) (vline : Nat) : Option Nat := (s.unitFills.find? fun f => f.reader = r && f.vline = vline && f.st ≠ 0).map (·.st)

/-- Floor of the reads of a unit: the largest among the warp's active threads (R137). -/
def Pipe.floor (p : Pipe) : Nat := p.w.r.floorMax p.w.r.mask

/-- A word that must be brought in first (R137): a fill that has come satisfies the read that waited for it, unless its lease ends
before the floor (R133). -/
def State.unitFill (s : State) (p : Pipe) (a size : Nat) : Option (Nat × SMap × Nat) :=
  (wordsIn a size).findSome? fun w =>
    match s.toFill p.w.die p.floor false (w * 4) 4 with
    | none => none
    | some r =>
      let l := s.mapLines.get ⟨0, 0⟩ (w / 32)
      if s.filled p.reader (w / 32) = some 1 && s.wordBits w &&& bValid ≠ 0 && (l.expiry = 0 || p.floor ≤ l.expiry) then none else some r

/-- A fill that failed. -/
def State.fillBad (s : State) (r : Reader) (a size : Nat) : Option Nat :=
  (wordsIn a size).findSome? fun w => (s.filled r (w / 32)).filter (2 ≤ ·)

/-- Bytes of a vault. -/
def State.unitVault (s : State) (p : Pipe) (a size : Nat) : Got :=
  if !s.scratchReady a size || s.vaultHeld a size then .need
  else match s.fillBad p.reader a size with
    | some st => .bad (if st = 2 then cLost else if st = 3 then cEcc else cProt) (if st = 4 then 9 else 0)
    | none =>
      if (s.unitFill p a size).isSome then .need
      else if s.vaultPoison a size then .bad cEcc 0
      else .val (readBytes s.vault a size)

/-- Read bytes at an address of a space (R120). -/
def State.pipeRead (s : State) (p : Pipe) (sp addr size : Nat) : Got :=
  if sp = 0 then (if 2 ^ 56 < addr + size then .bad cProt 6 else s.lookBytes p.reader addr size)
  else match s.scratchLoc p.k p.w sp addr size with
    | .bad c d => .bad c d
    | .at a => s.unitVault p (vaultBase p.w.die 0 + a) size

/-- Send a single-use read for a line. -/
def State.lookSend (s : State) (p : Pipe) (line pa : Nat) : State :=
  let tag := s.nextId
  let port : Port := ⟨p.w.die, if agentKind p.agent = 0 then p.w.core else p.unit, p.agent⟩
  if !s.portFree port then s
  else { s.unitSend port (.look p.reader) { id := 0, ty := .readReq, once := true, src := 0, dst := 0, addr := lineAddr (lineOf pa) } with
         looks := s.looks ++ [⟨p.reader, line, lineOf pa, tag, none⟩] }

def Xl.asked (x : Xl) (f : Nat → State) (s : State) : State × Asked :=
  match x with
  | .ok pa => (f pa, .going)
  | .walk id => (s, .walk id)
  | .page fl => (s, .page fl)
  | .declined fl cause => (s, .bad cProt cause fl)

/-- Ask for the first line that is missing of a range. -/
def State.lookAsk (s : State) (p : Pipe) (va size : Nat) : State × Asked :=
  match (List.range ((va + size - 1) / 128 - va / 128 + 1)).find? fun i => (s.lookAt p.reader (va / 128 + i)).isNone with
  | none => (s, .going)
  | some i =>
    let line := va / 128 + i
    let r := s.translateUnit p.w.die p.unit (p.asid s) p.kind (line * 128)
    r.2.asked (fun pa => r.1.lookSend p line pa) r.1

/-- Ask for the fill that a vault range needs. -/
def State.fillAsk (s : State) (p : Pipe) (a size : Nat) : State × Asked :=
  match s.unitFill p a size with
  | none => (s, .going)
  | some (word, m, va) =>
    let note (s : State) : State :=
      if s.unitFills.any fun f => f.reader = p.reader && f.vline = word / 32 && f.st = 0 then s
      else { s with unitFills := (s.unitFills.filter fun (f : UnitFill) => !(f.reader = p.reader && f.vline = word / 32)) ++ [⟨p.reader, word / 32, 0⟩] }
    if s.filling word then (note s, .going)
    else if 2 ^ 56 ≤ va then (s, .bad cProt 6 0)
    else match s.translateUnit p.w.die p.unit m.asid p.kind (va / 128 * 128) with
      | (s, .ok pa) => (if s.roomFor p.w.die p.w.core 1 then note (s.startFill p.w.die p.w.core p.floor word pa) else s, .going)
      | (s, .walk id) => (s, .walk id)
      | (s, .page fl) => (s.pendLine (word / 32), .page fl)
      | (s, .declined fl cause) => (s.unpendLine (word / 32), .bad cProt cause fl)

/-- Ask for what a read of a place needs. -/
def State.pipeAsk (s : State) (p : Pipe) (sp addr size : Nat) : State × Asked :=
  if sp = 0 then s.lookAsk p addr size
  else match s.scratchLoc p.k p.w sp addr size with
    | .bad _ _ => (s, .going)
    | .at a => s.fillAsk p (vaultBase p.w.die 0 + a) size

/-- A fill has come, or failed. -/
def State.fillsCome (s : State) (vline poison : Nat) (refused : Bool) : State :=
  { s with unitFills := s.unitFills.map fun (f : UnitFill) => if f.vline = vline && f.st = 0 then { f with st := if refused then 4 else if poison = 0 then 1 else poison + 1 } else f }

end Sys2Proof.Machine
end

