-- ==== Sys2Proof/Machine/Matrix.lean ====
section
/-! DEFINITION. The matrix unit: the checks at issue, the reservation table and its arbiter, row groups, stops and
resume records, and opcodes 0xc0 to 0xc5 (R298 to R318). -/

namespace Sys2Proof.Machine

/-! ### Checks at issue (R302) -/

/-- The descriptors that the opcode uses; true is B. -/
def MatJob.used (j : MatJob) : List Bool := (if j.usesA then [false] else []) ++ (if j.usesB then [true] else [])

/-- FLAGS are in order: reserved bits, SC and KOFF. -/
def MatJob.flagsOk (j : MatJob) (b : Bool) : Bool :=
  let q := j.q b
  let fl := (q.extractLsb' 96 32).toNat
  let f := if b then j.fb else j.fa
  fl / 4 % 2 = 0 && fl / 2 ^ 4 % 16 = 0 && fl / 2 ^ 9 % 128 = 0 && (!dSc q || (f ≤ 2 && j.op ≠ 0xc1 && j.op ≠ 0xc2)) &&
    (!dKoff q || (b && j.op = 0xc1 && j.mod / 4 % 4 = 2))

/-- Rows of A that the lanes of a mask own, or columns of B. -/
def MatJob.indices (j : MatJob) (m : Mask) (b : Bool) : List Nat := if b then (if j.usesB then List.range 16 else []) else if j.usesA then lanesOf m else []

/-- Every place that the lanes of a mask read: space, address and size. -/
def MatJob.reads (j : MatJob) (m : Mask) : List (Nat × Nat × Nat) :=
  j.used.flatMap fun b => (j.indices m b).flatMap fun i => (j.places b i).map fun p => (dSpace (j.q b), p.1, p.2)

/-- The first check that fails: cause, detail and address. -/
def State.matCheck (s : State) (k : WarpKey) (w : Warp) (j : MatJob) : Option (Nat × Nat × DWord) :=
  let us := j.used
  if !us.all j.flagsOk then some (cIllegal, 0, 0)
  else match us.find? fun b => dSpace (j.q b) = 0 && 2 ^ 56 ≤ (dBase (j.q b)).toNat with
    | some b => some (cProt, 6, dBase (j.q b))
    | none => match us.find? fun b => dSpace (j.q b) ≠ 0 && 2 ^ 32 ≤ (dBase (j.q b)).toNat with
      | some b => some (cAlloc, 0, dBase (j.q b))
      | none => match (j.reads j.mask).find? fun p => p.1 ≠ 0 && (s.scratchLoc k w p.1 p.2.1 p.2.2).isBad with
        | some p => (match s.scratchLoc k w p.1 p.2.1 p.2.2 with
          | .bad c d => some (c, d, BitVec.ofNat 64 p.2.1)
          | .at _ => none)
        | none =>
          let odd (b : Bool) : Bool := (dBase (j.q b)).toNat % 16 ≠ 0 || (dStride (j.q b)).toNat % 16 ≠ 0 || (dScoff (j.q b)).toNat % (if j.op = 0xc1 then 4 else 2) ≠ 0
          (us.find? odd).map fun b => (cMisalign, 0, dBase (j.q b))

/-! ### Entries (R310, R311) -/

def MatEntry.matJob (e : MatEntry) : MatJob := MatJob.ofBits e.job

/-- The entry is granted and not parked: it runs, or its operands are being fetched behind the one that does (R311). -/
def MatEntry.started (e : MatEntry) : Bool := e.granted && e.parked.isNone

/-- The granted entries of a cluster, neither parked; the first one granted runs (R311). -/
def State.matStarted (s : State) (die cluster : Nat) : List MatEntry := s.mats.filter fun e => e.die = die && e.cluster = cluster && e.started

/-- The entry that a cluster's unit runs. -/
def State.matRuns (s : State) (die cluster : Nat) : Option MatEntry :=
  (s.matStarted die cluster).foldl (fun b e => match b with
    | none => some e
    | some (m : MatEntry) => if e.turn < m.turn then some e else some m) none

/-- The entry that follows it, whose operands are fetched meanwhile. -/
def State.matNext (s : State) (die cluster : Nat) : Option MatEntry :=
  match s.matRuns die cluster with
  | none => none
  | some r => (s.matStarted die cluster).find? fun e => e.id ≠ r.id

def State.modMat (s : State) (id : Nat) (f : MatEntry → MatEntry) : State := { s with mats := s.mats.map fun e => if e.id = id then f e else e }

/-- There is room for another entry of the warp: the records and the stopped entries that it holds count among its four, so that
NREC never exceeds 4 (R310, R317; log 74). -/
def State.matRoom (s : State) (k : WarpKey) (w : Warp) : Bool :=
  (s.mats.filter fun e => e.die = w.die && e.cluster = w.core / 4).length < 32 &&
    (s.mats.filter fun e => e.warp = k).length + w.stopped.length + w.r.mrecs.length < 4

/-- Lanes of a row group that take part. -/
def MatJob.groupLanes (j : MatJob) (g : Nat) : List Nat := (lanesOf j.mask).filter fun l => l / 8 = g

/-- The next row group with an active lane. -/
def MatJob.nextGroup (j : MatJob) (width : Nat) : Option Nat := (List.range (width / 8)).find? fun g => j.next ≤ g && j.groupLanes g ≠ []

/-- Accumulators that a job's uncommitted lanes hold empty. -/
def MatJob.dests (j : MatJob) : List Dest :=
  ((lanesOf j.mask).filter fun l => j.next ≤ l / 8).flatMap fun l => (List.range j.accs).map fun c => ⟨.f, j.dreg + c, l⟩

/-- Post an entry: its accumulators are empty, and KM is raised. -/
def State.matPost (s : State) (k : WarpKey) (w : Warp) (op : Op) (x : Ext) (j : MatJob) (len : Nat) : State :=
  let id := s.nextId
  let o : Out := { id := id, kind := .matrix, op := op, x := x, ctr := some .km, mask := j.mask, lanes := [], pieces := [], acks := [], dests := j.dests,
                   finished := false, acq := false, oldest := 0, back := none, slot := 0, stop := none }
  let e : MatEntry := ⟨id, k, w.die, w.core / 4, ((s.grid? k.grid).map (·.l.cls)).getD 0, j.bits, false, 0, none, 0, false, 0⟩
  { s with nextId := id + 1, mats := s.mats ++ [e] }.setWarp k (w.issue o len)

/-- The entry the arbiter grants (R311, R316). -/
def pickEntry (es : List MatEntry) : Option MatEntry :=
  match es.find? (·.hot) with
  | some e => some e
  | none => match es with
    | [] => none
    | o :: _ =>
      if 31 ≤ o.passed then some o
      else es.foldl (fun b e => match b with
        | none => some e
        | some (m : MatEntry) => if m.cls < e.cls then some e else some m) none

/-- A grant in a cluster: of the entry to run, or of the one that follows it (R311; log 74). -/
def State.matGrant (s : State) (die cluster : Nat) : State :=
  if 2 ≤ (s.matStarted die cluster).length then s
  else
    let mine := s.mats.filter fun e => e.die = die && e.cluster = cluster
    let es := mine.filter fun e => !e.granted && e.parked.isNone && !(mine.any fun o => o.warp = e.warp && o.id < e.id && !o.granted)
    match pickEntry es, es with
    | some e, o :: _ =>
      let s := { s with nextId := s.nextId + 1 }.modMat e.id fun e => { e with granted := true, turn := s.nextId, hot := false }
      if o.id = e.id then s else s.modMat o.id fun o => { o with passed := o.passed + 1 }
    | _, _ => s

/-! ### Row groups (R314) -/

def MatEntry.pipe (e : MatEntry) (w : Warp) : Pipe := ⟨.matrix e.id, e.warp, w, kMatrix, agentId 2 e.die e.cluster, e.cluster⟩

def State.matDrop (s : State) (id : Nat) : State := ({ s with mats := s.mats.filter fun (e : MatEntry) => e.id ≠ id }).dropLooks (.matrix id)

/-- The instruction has committed its last group. -/
def State.matFinish (s : State) (e : MatEntry) : State :=
  (s.matDrop e.id).modWarp e.warp fun w => (w.modOut e.id fun o => { o with finished := true, dests := [] }).prune

/-- An operand stops the entry (R316): it is counted out as a record at trap entry. -/
def State.matStop (s : State) (e : MatEntry) (cause detail : Nat) (addr : DWord) : State :=
  let j := { e.matJob with cause := if cause = cProt then 2 else 3 }
  (s.matDrop e.id).modWarp e.warp fun w => w.modOut e.id fun o => { o with stop := some ⟨j.bits, cause, detail, addr⟩ }

/-- Bytes of a row or column as far as they are at hand. -/
def State.matBytes (s : State) (p : Pipe) (j : MatJob) (b : Bool) (i : Nat) : Nat × Nat :=
  let v (x : Nat × Nat) : Nat := match s.pipeRead p (dSpace (j.q b)) x.1 x.2 with | .val n => n | _ => 0
  match j.places b i with
  | [x] => (v x, 0)
  | x :: y :: _ => (v x, v y)
  | [] => (0, 0)

/-- Ask for what is missing, until a walk or a page stands in the way; the address of the operand that met it. -/
def State.matAsk (s : State) (p : Pipe) : List (Nat × Nat × Nat) → State × Asked × Nat
  | [] => (s, .going, 0)
  | x :: rest =>
    if s.pipeRead p x.1 x.2.1 x.2.2 ≠ .need then s.matAsk p rest
    else match s.pipeAsk p x.1 x.2.1 x.2.2 with
      | (s, .going) => s.matAsk p rest
      | (s, a) => (s, a, x.2.1)

/-- An entry's operands of one row group: at hand, or asked for; an operand that faults parks the entry or stops it (R316). -/
def State.matFetch (s : State) (e : MatEntry) (p : Pipe) (g : Nat) : State × Bool :=
  let j := e.matJob
  let rs := j.reads (maskOf (j.groupLanes g))
  let here := { j with next := g }.bits
  let bad (x : Nat × Nat × Nat) : Option (State × Bool) :=
    match s.pipeRead p x.1 x.2.1 x.2.2 with
    | .bad c d => some (s.matStop { e with job := here } c d (BitVec.ofNat 64 x.2.1), false)
    | _ => none
  match rs.findSome? bad with
  | some r => r
  | none =>
    if rs.all fun x => s.pipeRead p x.1 x.2.1 x.2.2 ≠ .need then (s, true)
    else match s.matAsk p rs with
      | (s, .page f, a) => (s.modMat e.id fun e => { e with parked := some f, addr := a, job := here }, false)
      | (s, .bad c d fl, a) => ((s.spent fl).matStop { e with job := here } c d (BitVec.ofNat 64 a), false)
      | (s, _) => (s, false)

/-- The registers that a row group's commit writes: the accumulators of its lanes (R314). -/
def MatJob.put (j : MatJob) (ls : List Nat) (new : Regs) (r : Regs) : Regs :=
  let r := ls.foldl (fun r l => (List.range j.accs).foldl (fun r c => r.setF (j.dreg + c) l (new.getF (j.dreg + c) l)) r) r
  r.tagged (maskOf ls) false ((List.range j.accs).map fun c => (.f, j.dreg + c))

/-- The running entry of a warp commits its next row group, or asks for the operands it lacks. -/
def State.matStep (s : State) (e : MatEntry) (w : Warp) : State :=
  let j := e.matJob
  match j.nextGroup w.width with
  | none => s.matFinish e
  | some g =>
    let p := e.pipe w
    let ls := j.groupLanes g
    match s.matFetch e p g with
    | (s, false) => s
    | (s, true) =>
      let d : MatData := ⟨s.matBytes p j false, s.matBytes p j true⟩
      let new := ls.foldl (fun r l => j.lane d w.width l r) w.r
      let s := (s.countCluster e.die e.cluster 1 1).modWarp e.warp fun w =>
        (w.fillBy e.id (j.put ls new)).modOut e.id fun o => { o with dests := o.dests.filter fun d => d.lane / 8 ≠ g }
      let e := { e with job := { j with next := g + 1 }.bits }
      if (e.matJob.nextGroup w.width).isNone then s.matFinish e else s.modMat e.id fun o => { o with job := e.job }

/-- The operands of the entry that follows are fetched while the current one runs (R311). -/
def State.matAhead (s : State) (die cluster : Nat) : State :=
  match s.matNext die cluster with
  | none => s
  | some e =>
    match s.warp? e.warp with
    | none => s
    | some w =>
      match e.matJob.nextGroup w.width with
      | none => s
      | some g => (s.matFetch e (e.pipe w) g).1

/-- The reply to the page fault on which entries are parked (R316). -/
def State.matReply (s : State) (fault cause : Nat) (declined : Bool) : State :=
  (s.mats.filter fun e => e.parked = some fault).foldl (fun s e =>
    if declined then s.matStop e cProt cause (BitVec.ofNat 64 e.addr)
    else s.modMat e.id fun e => { e with parked := none, granted := false, hot := true }) s

/-! ### Stops (R315) -/

/-- A stopped or withdrawn entry as a record. -/
def State.matRecord (s : State) (o : Out) : Option (BitVec 512) :=
  match o.stop with
  | some st => some st.record
  | none => (s.mats.find? (·.id = o.id)).map fun e => { e.matJob with cause := if e.granted || e.parked.isSome || e.hot then 1 else 4 }.bits

/-- A pre-emption, watchdog or debugger halt stops the warp's entries: each becomes a record, and its uncommitted
accumulators keep their old values. -/
def State.matHalt (s : State) (k : WarpKey) : State :=
  match s.warp? k with
  | none => s
  | some w =>
    let recs := (w.outs.filter (·.kind = .matrix)).filterMap s.matRecord
    let ids := (s.mats.filter fun e => e.warp = k).map (·.id)
    (ids.foldl (fun s id => s.matDrop id) s).setWarp k { w with outs := w.outs.filter (·.kind ≠ .matrix), r := { w.r with mrecs := w.r.mrecs ++ recs } }

/-- Re-execute the records of a warp, oldest first, while there is room (R318). -/
def State.matReplay (s : State) (k : WarpKey) : Nat → State
  | 0 => s
  | n + 1 =>
    match s.warp? k with
    | none => s
    | some w =>
      match w.r.mrecs with
      | [] => s
      | x :: rest =>
        if !s.matRoom k w || 255 ≤ w.counter .km then s
        else
          let j := MatJob.ofBits x
          let w := { w with r := { w.r with mrecs := rest } }
          ((if (j.nextGroup w.width).isNone then s.setWarp k w else s.matPost k w .mma Ext.fixed { j with cause := 0 } 0)).matReplay k n

/-! ### The instructions (R303, R304) -/

/-- The four S registers of a descriptor. -/
def Cx.quad (c : Cx) (x : Sel) : BitVec 128 :=
  match x with
  | .s n => c.w.r.getS c.nS (n.val + 3) ++ c.w.r.getS c.nS (n.val + 2) ++ c.w.r.getS c.nS (n.val + 1) ++ c.w.r.getS c.nS n.val
  | _ => 0

def Cx.job (c : Cx) (code : Nat) : MatJob :=
  ⟨c.quad c.x.a, c.quad c.x.b, c.m, code, (match c.x.d with | .reg n => n.toNat | _ => 0), c.x.mod.toNat, c.x.imm.toNat, 0, 0,
    (if c.x.fzi then 1 else 0) + (if c.x.fzo then 2 else 0)⟩

def matrixOp (code : Nat) (op : Op) (x : Ext) (len : Nat) (s : State) : Res :=
  frame op x s fun c =>
    let j := c.job code
    if c.m = 0 then c.done len c.w.r
    else if c.w.sprout.isSome then c.trapIn cIllegal 0 wholeWarp 0
    else if !c.mayStart .km false then .next (c.s.hold' c.k)
    else match c.s.matCheck c.k c.w j with
      | some (cause, detail, addr) => c.trapIn cause detail wholeWarp addr
      | none => if c.s.matRoom c.k c.w then .next (c.s.matPost c.k c.w op x j len) else .next (c.s.hold' c.k)

/-! ### The instructions -/

/-- Matrix multiply-accumulate of one tile into interval accumulators (R305). -/
def execMma (x : Ext) (s : State) : Res :=
  matrixOp 0xc0 .mma x (extLen x) s

/-- Quantised INT8 by INT4/INT8 grouped matrix multiply (R307). -/
def execMmaq (x : Ext) (s : State) : Res :=
  matrixOp 0xc1 .mmaq x (extLen x) s

/-- Interval-operand matrix multiply (R308). -/
def execMmai (x : Ext) (s : State) : Res :=
  matrixOp 0xc2 .mmai x (extLen x) s

/-- Transposes B columns into the accumulators (R309). -/
def execMtrn (x : Ext) (s : State) : Res :=
  matrixOp 0xc3 .mtrn x (extLen x) s

/-- Permuted placement of B rows (R309). -/
def execMperm (x : Ext) (s : State) : Res :=
  matrixOp 0xc4 .mperm x (extLen x) s

/-- Row reduction of A into one accumulator (R309). -/
def execMred (x : Ext) (s : State) : Res :=
  matrixOp 0xc5 .mred x (extLen x) s

/-! ### Steps of the unit -/

/-- MATRIX_GRANT: the arbiter of a cluster grants an entry (R311). -/
def execMatrixGrant (s : State) : Res := .next (if s.dieDown s.arg.n then s else (s.matGrant s.arg.n s.arg.m).countCluster s.arg.n s.arg.m 3 (Config.counted s.steps (s.arg.n * 320 + s.arg.m) 3))

/-- ROW_GROUP_COMMIT: the running entry of a warp (R314), while the operands of the one that follows are fetched. -/
def execRowGroupCommit (s : State) : Res :=
  match s.warp? s.arg.w with
  | none => .next s
  | some w =>
    match s.matRuns w.die (w.core / 4) with
    | some e => .next (if e.warp ≠ s.arg.w || s.dieDown e.die then s else (s.matStep e w).matAhead e.die e.cluster)
    | none => .next s

end Sys2Proof.Machine
end

