-- ==== Sys2Proof/Machine/Mapped.lean ====
section
/-! DEFINITION. Mapped scratch: SMAP, SUNMAP, SFLUSH and SQRY, opcodes 0x9d to 0xa0 (R131, R138 to R141, R360 to
R363). -/

namespace Sys2Proof.Machine

/-- Vault byte of offset 0 of a team's scratch. -/
def Team.base (t : Team) : Nat := vaultBase t.die t.core + t.scratch

/-- Vault lines of a scratch range. -/
def Team.lines (t : Team) (off len : Nat) : List Nat := (List.range (len / 128)).map fun i => (t.base + off) / 128 + i

def State.modTeam (s : State) (t : TeamKey) (f : Team → Team) : State := { s with teams := s.teams.modify t f }

/-- Remove a map; its words become ordinary scratch (R140). -/
def State.removeMap (s : State) (t : TeamKey) (slot : Nat) : State :=
  match s.team? t with
  | none => s
  | some tm =>
    match tm.maps.find? (·.slot = slot) with
    | none => s
    | some m =>
      let ls := tm.lines m.soff m.slen
      let s := ls.foldl (fun s l => (wordsOf l).foldl (fun s w => s.setWord w 0) { s with mapLines := s.mapLines.put ⟨0, 0⟩ l ⟨0, 0⟩ }) s
      s.modTeam t fun tm => { tm with maps := tm.maps.filter (·.slot ≠ slot) }

/-- The dirty bytes of a vault line. -/
def State.dirtyMask (s : State) (vline : Nat) : BitVec 128 :=
  (wordsOf vline).foldl (fun m w => if s.wordBits w &&& bDirty ≠ 0 then m ||| byteMask (w % 32 * 4) 4 else m) 0

/-- Dirty lines of a part of a map, with their global addresses, ascending (R138). -/
def State.dirtyLines (s : State) (tm : Team) (m : SMap) (off len : Nat) : List (Nat × Nat) :=
  if !m.rw then []
  else ((tm.lines off len).map fun l => (l, m.va + (l * 128 - (tm.base + m.soff)))).filter fun p => s.dirtyMask p.1 ≠ 0

/-- Read a line's dirty words, send them as one StoreReq and make them clean (R138). -/
def State.flushLine (s : State) (die core vline pa : Nat) (u : User) : State :=
  let mask := s.dirtyMask vline
  let data := readBytes s.vault (vline * 128) 128
  let s := (wordsOf vline).foldl (fun s w => s.setWord w (s.wordBits w &&& ~~~bDirty)) s
  (s.l1Drop die core (lineOf pa)).request die core
    { id := 0, ty := .storeReq, src := 0, dst := 0, addr := lineAddr (lineOf pa), mask := mask, data := BitVec.ofNat 1024 data }
    (Req.of (lineOf pa) 0 false [u])

/-- An instruction of this group acts once for the warp; a sprout's is its fault (R339, R360). -/
def onceTeam (op : Op) (x : Ext) (len : Nat) (s : State) (body : Cx → Team → Res) : Res :=
  frame op x s fun c =>
    if c.m = 0 then c.done len c.w.r
    else if c.w.sprout.isSome then c.trapIn cIllegal 0 wholeWarp 0
    else match c.s.team? c.k.teamKey with
      | some tm => body c tm
      | none => .next c.s

/-- A uniform 32-bit operand as an unsigned value, read in the lowest taking-part thread. -/
def Cx.uni32 (c : Cx) (x : Sel) : Nat := (c.i32 (lowest c.m) x).toNat
def Cx.uni64 (c : Cx) (x : Sel) : Nat := (c.i64 (lowest c.m) x).toNat

/-- Maps of all the teams of a core. -/
def State.mapsOnCore (s : State) (die core : Nat) : Nat :=
  s.teams.foldl (fun n p => if p.2.resident && p.2.die = die && p.2.core = core then n + p.2.maps.length else n) 0

def Team.freeMap (t : Team) : Nat := ((List.range 8).find? fun i => !(t.maps.any fun (m : SMap) => m.slot = i)).getD 8

/-- SMAP (R131, R361). -/
def smap (op : Op) (x : Ext) (len : Nat) (s : State) : Res :=
  onceTeam op x len s fun c tm =>
    let off := c.uni32 x.a; let n := c.uni32 x.b; let va := c.uni64 x.c
    let size := ((c.s.grid? c.k.grid).map (·.scratch)).getD 0
    let slot := tm.freeMap
    if off % 128 ≠ 0 || n % 128 ≠ 0 || n < 128 || size < off + n || 8 ≤ slot || 32 ≤ c.s.mapsOnCore tm.die tm.core ||
        tm.maps.any (fun m => m.soff < off + n && off < m.soff + m.slen) then c.trapIn cAlloc 0 wholeWarp (BitVec.ofNat 64 off)
    else if va % 128 ≠ 0 then c.trapIn cMisalign 0 wholeWarp (BitVec.ofNat 64 va)
    else if 2 ^ 56 ≤ va then c.trapIn cProt 6 wholeWarp (BitVec.ofNat 64 va)
    else if !(c.w.settled && !c.w.acquiring) then .next (c.s.hold' c.k)
    else
      let s := c.s.modTeam c.k.teamKey fun tm => { tm with maps := tm.maps ++ [⟨slot, off, n, va, x.m 0 1 = 1, c.s.asidOf c.k, false⟩] }
      s.done c.k c.w c.w.r len

/-- Translate the lines of a flush; the first that is not at hand holds the instruction (R340, R362). -/
def Cx.flushPas (c : Cx) (asid : Nat) (s : State) : List (Nat × Nat) → List (Nat × Nat) → Except Res (State × List (Nat × Nat))
  | [], acc => .ok (s, acc.reverse)
  | (l, va) :: rest, acc =>
    if 2 ^ 56 ≤ va then .error (s.precise c.k c.w cProt 6 0 wholeWarp (BitVec.ofNat 64 va))
    else match s.translate c.w.die c.w.core asid kStore va with
    | (s, .ok pa) => c.flushPas asid s rest ((l, pa) :: acc)
    | (s, .walk id) => .error (.next (s.stall c.k (.walk id wholeWarp (BitVec.ofNat 64 va))))
    | (s, .page id) => .error (.next (s.stall c.k (.page id wholeWarp (BitVec.ofNat 64 va))))
    | (s, .declined id cause) => .error ((s.spent id).precise c.k c.w cProt cause 0 wholeWarp (BitVec.ofNat 64 va))

/-- A flush of part of a map, removing the map where `unmap`. -/
def Cx.flush (c : Cx) (len : Nat) (tm : Team) (m : SMap) (off n : Nat) (unmap : Bool) : Res :=
  let lines := c.s.dirtyLines tm m off n
  if !(c.mayStart .kg false && c.w.vaultReached) then .next (c.s.hold' c.k)
  else match c.flushPas m.asid c.s (lines.map fun p => (p.1, p.2)) [] with
    | .error r => r
    | .ok (s, pas) =>
      if !s.canSend c.k c.w pas.length then .next (s.holdIssue c.k)
      else
        let id := s.nextId
        let (s, as) := pas.foldl (fun (p : State × List (Nat × Bool)) q =>
          (p.1.flushLine c.w.die c.w.core q.1 q.2 (.out c.k id), p.2 ++ [(p.1.nextId, isCompanion q.2)])) ({ s with nextId := id + 1 }, [])
        let s := if unmap then
            (if as = [] then s.removeMap c.k.teamKey m.slot
             else s.modTeam c.k.teamKey fun tm => { tm with maps := tm.maps.map fun o => if o.slot = m.slot then { o with removing := true } else o })
          else s
        if as = [] then
          match s.warp? c.k with
          | some w => s.done c.k w w.r len
          | none => .next s
        else
          let o := { c.newOut s .flush .kg [] [] false false with id := id, acks := as, slot := if unmap then m.slot + 1 else 0 }
          .next (s.addOut c.k o len .none)

/-- SFLUSH (R138, R362). -/
def sflush (op : Op) (x : Ext) (len : Nat) (s : State) : Res :=
  onceTeam op x len s fun c tm =>
    let off := c.uni32 x.a; let n := c.uni32 x.b
    match tm.maps.find? fun m => m.soff ≤ off && off + n ≤ m.soff + m.slen with
    | some m => if off % 128 ≠ 0 || n % 128 ≠ 0 || n = 0 then c.trapIn cAlloc 0 wholeWarp 0 else c.flush len tm m off n false
    | none => c.trapIn cAlloc 0 wholeWarp 0

/-- SUNMAP (R140, R362). -/
def sunmap (op : Op) (x : Ext) (len : Nat) (s : State) : Res :=
  onceTeam op x len s fun c tm =>
    let off := c.uni32 x.a; let n := c.uni32 x.b
    match tm.maps.find? fun m => m.soff = off && m.slen = n with
    | some m => if m.removing then .next (c.s.hold' c.k) else c.flush len tm m off n true
    | none => c.trapIn cAlloc 0 wholeWarp 0

/-- A field of a map (R363). -/
def SMap.field (m : SMap) (f : Nat) : Nat :=
  match f with
  | 0 => m.soff
  | 1 => m.slen
  | 2 => m.va % 2 ^ 32
  | 3 => m.va / 2 ^ 32
  | _ => 1 + (if m.rw then 2 else 0) + m.asid * 256

def Team.query (t : Team) (slot f : Nat) : Nat :=
  match t.maps.find? (·.slot = slot) with
  | some m => m.field f
  | none => 0

/-- SQRY (R363). -/
def sqry (op : Op) (x : Ext) (len : Nat) (s : State) : Res :=
  onceTeam op x len s fun c tm =>
    c.done len (c.putVS 1 (fun _ => BitVec.ofNat 64 (tm.query (c.uni32 x.a) (x.m 0 4))) c.w.r)

/-! ### The instructions -/

/-- Maps a scratch range to a global range (R361). -/
def execSmap (x : Ext) (s : State) : Res :=
  smap .smap x (extLen x) s

/-- Flushes and removes a map (R362). -/
def execSunmap (x : Ext) (s : State) : Res :=
  sunmap .sunmap x (extLen x) s

/-- Writes back the dirty words of a mapped range (R138). -/
def execSflush (x : Ext) (s : State) : Res :=
  sflush .sflush x (extLen x) s

/-- Reads a map-table field (R363). -/
def execSqry (x : Ext) (s : State) : Res :=
  sqry .sqry x (extLen x) s

end Sys2Proof.Machine
end

