-- ==== Sys2Proof/Machine/Engine.lean ====
section
/-! DEFINITION. The copy engines (R107 to R109, R129, R130, R142 to R156, R161): how a copy starts, how its chunks are
cut and sent, how they read and write, and how it arrives on its barrier register. -/

namespace Sys2Proof.Machine

/-! ### Descriptors (R146, R147) -/

def signed32 (n : Nat) : Int := if 2 ^ 31 ≤ n then (n : Int) - 2 ^ 32 else n

/-- The descriptor in 64 bytes. -/
def Desc.ofNat (n : Nat) : Desc :=
  let f (off size : Nat) : Nat := n / 256 ^ off % 256 ^ size
  ⟨f 0 8, f 8 8, f 16 8, f 24 8, signed32 (f 32 4), signed32 (f 36 4), f 40 4, f 44 4, f 48 4, f 52 4, f 56 2, f 58 1, f 59 1, f 60 4⟩

def Desc.lspace (d : Desc) : Bool := d.ctrl / 2 ^ 13 % 2 = 1
def Desc.pt (d : Desc) : Bool := d.ctrl / 2 ^ 12 % 2 = 1
def Desc.fmt (d : Desc) : Nat := d.ctrl / 2 ^ 9 % 8
def Desc.dspace (d : Desc) : Nat := d.ctrl / 2 ^ 6 % 8
def Desc.sspace (d : Desc) : Nat := d.ctrl / 2 ^ 3 % 8
def Desc.die (d : Desc) : Nat := d.target % 128
def Desc.module (d : Desc) : Nat := d.target / 2 ^ 16 % 64

/-- Bytes of a source element (R149). -/
def Desc.elem (d : Desc) : Nat := match d.fmt with | 2 => 8 | 3 | 4 => 2 | _ => 4

/-- Bytes of a destination element. -/
def Desc.delem (d : Desc) (mode : Nat) : Nat := if mode = 2 then (if d.pt then 4 else 8) else 4

/-- Bytes of a destination row. -/
def Desc.drow (d : Desc) (mode : Nat) : Nat := if mode = 2 then d.rowBytes / d.elem * d.delem mode else d.rowBytes

/-- The field rules of R146 and R147; `top` is the end of the highest slice. A field that the mode does not use may hold
anything. -/
def Desc.valid (d : Desc) (mode top : Nat) : Bool :=
  let e := d.elem; let de := d.delem mode
  let small (sp v : Nat) : Bool := sp = 0 || sp = 5 || v < 2 ^ 32
  d.ctrl / 2 ^ 14 = 0 && d.ctrl % 8 = 0 && d.target / 2 ^ 22 = 0 && d.target / 2 ^ 7 % 2 ^ 9 = 0 && d.bar < 16 && d.prio < 4 && d.zero = 0 && d.rows < 2 ^ 24 &&
    4 ≤ d.rowBytes && d.rowBytes ≤ 2 ^ 20 && d.fmt ≤ 4 && (if mode = 2 then d.fmt ≠ 0 else d.fmt = 0 && !d.pt) &&
    (d.sspace ≤ 3 || (d.sspace = 5 && mode = 0)) && d.dspace ≤ 5 && !(d.sspace = 5 && d.dspace = 5) &&
    d.rowBytes % e = 0 && d.src % e = 0 && d.sstride % (e : Int) = 0 && d.dst % de = 0 && d.dstride % (de : Int) = 0 &&
    (mode = 0 || (d.idx % 4 = 0 && (!d.lspace || d.idx < 2 ^ 32))) && (mode ≠ 2 || (d.wgt % 4 = 0 && (!d.lspace || d.wgt < 2 ^ 32))) &&
    small d.sspace d.src && small d.dspace d.dst && top ≤ d.rows

/-! ### Places -/

/-- Vault byte of a `.v` address on a die, within the scratch of a team of the grid (R120, R150). -/
def State.vLoc (s : State) (grid die addr size : Nat) : Option Nat :=
  let c := addr / 2 ^ 19
  let off := addr % 2 ^ 19
  let sc := ((s.grid? grid).map (·.scratch)).getD 0
  if s.teams.any fun p => p.1.grid = grid && teamHolds p.2 sc die c off size then some (vaultBase die c + off) else none

/-- Vault byte of a range in a scratch space (1 `.s`, 2 `.gs`, 3 `.v`, 4 `.v` of another die), as the team reaches it; a die
out of service holds none (R150). -/
def State.copyLoc (s : State) (t : TeamKey) (die space tdie addr size : Nat) : Option Nat :=
  match s.grid? t.grid with
  | none => none
  | some g =>
    let own (k : TeamKey) (off : Nat) : Option Nat :=
      match s.team? k with
      | some tm => if off + size ≤ g.scratch then some (tm.base + off) else none
      | none => none
    match space with
    | 1 => own t addr
    | 2 => if s.gangOf t ≤ addr / 2 ^ 19 then none else own ⟨t.grid, t.team - t.team % s.gangOf t + addr / 2 ^ 19⟩ (addr % 2 ^ 19)
    | 3 => s.vLoc t.grid die addr size
    | _ => if s.dieDown tdie || !s.panel.joined.contains tdie then none else s.vLoc t.grid tdie addr size

/-- A base plus a number of strides. -/
def strideAt (base : Nat) (stride : Int) (n : Nat) (space : Nat) : Nat :=
  (((base : Int) + (n : Int) * stride) % ((2 ^ (if space = 0 || space = 5 then 64 else 32) : Nat) : Int)).toNat

def Copy.isGlobal (space : Nat) : Bool := space = 0

/-- Data the engine has read of a line. -/
def Copy.line (c : Copy) (line : Nat) : Option Piece := c.buf.find? (·.line = line)

def engineAgent (die cluster : Nat) : Nat := agentId 1 die cluster

def State.modCopy (s : State) (id : Nat) (f : Copy → Copy) : State := { s with copies := s.copies.map fun c => if c.id = id then f c else c }

abbrev BarReg.zero : BarReg := ⟨false, false, false, 0, 0, 0⟩
abbrev CopyErr.zero : CopyErr := ⟨0, 0, 0⟩

/-- The first error of a copy stays. -/
def Copy.err (c : Copy) (code addr : Nat) : Copy := if c.cause = 0 then { c with cause := code, addr := addr } else c

/-- A copy that has set its error writes the record of its barrier register, if that is empty (R160). -/
def State.recordErr (s : State) (c : Copy) : State :=
  if c.cause = 0 then s
  else
    let n := c.desc.bar % 16
    { s with teams := s.teams.modify c.team fun tm =>
        if (tm.cerrs.get CopyErr.zero n).cause = 0 then { tm with cerrs := tm.cerrs.put CopyErr.zero n ⟨c.cause, c.doff, if c.cause ∈ [4, 5, 7] then 0 else c.addr⟩ } else tm }

/-- A copy sets its error. -/
def State.copyErr (s : State) (id code addr : Nat) : State :=
  match s.copies.find? (·.id = id) with
  | none => s
  | some c => if c.cause ≠ 0 then s else (s.modCopy id fun c => c.err code addr).recordErr (c.err code addr)

/-! ### The start (R143, R144) -/

/-- Members of a copy's team. -/
def State.copyMembers (s : State) (c : Copy) : List (WarpKey × Warp) :=
  s.warps.filter fun p => p.1.teamKey = c.team && p.2.sprout.isNone && (match c.one with
    | some n => p.1.warp = n
    | none => !p.2.sheller)

/-- Every member has arrived or exited. -/
def State.allArrived (s : State) (c : Copy) : Bool :=
  (s.copyMembers c).all fun p => p.2.r.live = 0 || c.arrivals.any fun a => a.warp = p.1

/-- Vault writes before the arrivals have reached their vaults (R107). -/
def State.arrivalsReached (s : State) (c : Copy) : Bool :=
  c.arrivals.all fun a => (s.warp? a.warp).all fun w =>
    w.outs.all fun o => o.finished || a.before ≤ o.id || !(o.kind = .vstore || o.kind = .vatom)

/-- Union of slices, ascending and disjoint (R143). -/
def addSlice (l : List (Nat × Nat)) (first count : Nat) : List (Nat × Nat) :=
  if count = 0 then l
  else match l with
    | [] => [(first, count)]
    | (f, n) :: rest =>
      if first + count < f then (first, count) :: (f, n) :: rest
      else if f + n < first then (f, n) :: addSlice rest first count
      else
        let lo := min f first
        addSlice rest lo (max (f + n) (first + count) - lo)

def Copy.union (c : Copy) : List (Nat × Nat) := c.arrivals.foldl (fun l a => addSlice l a.first a.count) []

/-- Rows of a list of ranges. -/
def rowsOf (l : List (Nat × Nat)) : List Nat := l.flatMap fun p => (List.range p.2).map (p.1 + ·)

/-- Vault lines of a range of a scratch space, as far as they lie in scratch. -/
def State.spaceLines (s : State) (c : Copy) (sp addr n : Nat) : List Nat :=
  (vlines addr n).filterMap fun l => (s.copyLoc c.team c.die sp c.desc.die (max addr (l * 128)) 1).map (· / 128)

/-- Vault lines that the copy may write (R129). -/
def State.markLines (s : State) (c : Copy) : List Nat :=
  let d := c.desc
  if d.dspace = 0 || d.dspace = 5 then []
  else
    let rows := if c.mode = 2 then List.range d.ilim else rowsOf c.rows
    (rows.flatMap fun r => s.spaceLines c d.dspace (strideAt d.dst d.dstride r d.dspace) (d.drow c.mode)).foldl (fun ls l => if ls.contains l then ls else ls ++ [l]) []

/-- Vault lines of the scratch source. -/
def State.sourceLines (s : State) (c : Copy) : List Nat :=
  let d := c.desc
  if d.sspace = 0 || d.sspace = 5 then []
  else
    let rows := if c.mode = 1 then List.range d.ilim else rowsOf c.rows
    rows.flatMap fun r => s.spaceLines c d.sspace (strideAt d.src d.sstride r d.sspace) d.rowBytes

/-- Space address of the copy's first byte that lies in a mapped range, row by row, the source before the destination
(R130, R160). -/
def State.mappedByte (s : State) (c : Copy) : Nat :=
  let d := c.desc
  let look (sp base : Nat) (stride : Int) (n : Nat) (all : Bool) : Option Nat :=
    (if all then List.range d.ilim else rowsOf c.rows).findSome? fun r =>
      let x := strideAt base stride r sp
      if sp = 0 || sp = 5 then none
      else (s.copyLoc c.team c.die sp d.die x n).bind fun a =>
        ((vlines a n).find? fun l => (s.mapAt (l * 128)).isSome).map fun l => x + (max a (l * 128) - a)
  ((look d.sspace d.src d.sstride d.rowBytes (c.mode = 1)) <|> look d.dspace d.dst d.dstride (d.drow c.mode) (c.mode = 2)).getD 0

def State.mark (s : State) (ls : List Nat) : State :=
  { s with inflight := ls.foldl (fun m l => m.put 0 l (m.get 0 l + 1)) s.inflight }
def State.unmark (s : State) (ls : List Nat) : State :=
  { s with inflight := ls.foldl (fun m l => m.put 0 l (m.get 0 l - 1)) s.inflight }

/-- What the start finds. -/
inductive Start where
  | wait
  | trap (cause addr : Nat)
  | go (s : State)

/-- Start a copy at which every warp has arrived: read and check the descriptor, and mark its lines (R143, R144). -/
def State.startCopy (s : State) (c : Copy) (h : Header) (off mode : Nat) : Start :=
  if !s.arrivalsReached c then .wait
  else match s.grid? c.team.grid, s.team? c.team with
    | some g, some tm =>
      if off % 64 ≠ 0 then .trap cMisalign off
      else if g.scratch < off + 64 then .trap cAlloc off
      else if !s.scratchReady (tm.base + off) 64 then .wait
      else if s.vaultPoison (tm.base + off) 64 then .trap cEcc off
      else
        let d := Desc.ofNat (readBytes s.vault (tm.base + off) 64)
        if h.nB ≤ d.bar % 16 then .trap cAlloc 0
        else if (tm.bars.get BarReg.zero (d.bar % 16)).expected = 0 then .trap cAlloc 0
        else
          let u := c.union
          let top := u.foldl (fun n p => max n (p.1 + p.2)) 0
          let mixed : Bool := c.arrivals.any fun a => a.mode ≠ mode
          let offs : Bool := c.arrivals.any fun a => a.off ≠ off
          let c := { c with order := s.nextId, mode := mode, svc := min (d.prio % 4) c.cls, desc := d, doff := off, rows := u }
          let slices : Bool := d.rows < top
          let c := if !d.valid mode top then { c with rows := [] }.err (if slices && d.valid mode 0 then 4 else 5) 0 else c
          let c := if mixed then c.err 5 0 else if offs then c.err 7 0 else c
          let marks := s.markLines c
          let laps : Bool := (marks ++ s.sourceLines c).any fun l => (wordsOf l).any fun w => (s.mapAt (w * 4)).isSome
          let c := if laps then { c with rows := [] }.err 6 (s.mappedByte c) else c
          let marks := if laps then [] else marks
          let c := { c with marks := marks }
          let s := { s with copies := s.copies.map fun (o : Copy) => if o.id = c.id then c else o, nextId := s.nextId + 1 }
          .go (((s.mark marks).modTeam c.team fun t => { t with bars := t.bars.put BarReg.zero (d.bar % 16) (let b := t.bars.get BarReg.zero (d.bar % 16); { b with pend := b.pend + 1 }) }).recordErr c)
    | _, _ => .wait

/-! ### Chunks (R152) -/

/-- Cut up to `n` bytes of rows. -/
def cutRows (rowBytes : Nat) : Nat → List (Nat × Nat) → Nat → Nat → List (Nat × Nat × Nat) → List (Nat × Nat × Nat) × List (Nat × Nat) × Nat
  | 0, l, cut, _, acc => (acc.reverse, l, cut)
  | _, [], _, _, acc => (acc.reverse, [], 0)
  | fuel + 1, (_, 0) :: rest, cut, n, acc => cutRows rowBytes fuel rest cut n acc
  | fuel + 1, (f, k + 1) :: rest, cut, n, acc =>
    if n = 0 then (acc.reverse, (f, k + 1) :: rest, cut)
    else
      let len := min n (rowBytes - cut)
      if cut + len = rowBytes then cutRows rowBytes fuel ((f + 1, k) :: rest) 0 (n - len) ((f, cut, len) :: acc)
      else cutRows rowBytes fuel ((f, k + 1) :: rest) (cut + len) (n - len) ((f, cut, len) :: acc)

def Copy.nextChunk (c : Copy) : List (Nat × Nat × Nat) × List (Nat × Nat) × Nat := cutRows c.desc.rowBytes 4096 c.rows c.cut 2048 []

def partsSize (l : List (Nat × Nat × Nat)) : Nat := l.foldl (fun n p => n + p.2.2) 0

/-! ### Lists (R148) -/

/-- An entry of a list: its value, or what stands in the way. -/
inductive Entry where
  | val (n : Nat)
  | need (va : Nat)
  | wait
  | bad (code addr : Nat)
deriving DecidableEq, Repr

/-- The address space of a copy. -/
def State.copyAsid (s : State) (c : Copy) : Nat := ((s.grid? c.team.grid).map (·.asid)).getD 0

/-- The physical address of an access of the copy, where its cluster's or its die's cache holds a translation that
permits it (R47, R50). -/
def State.copyPa (s : State) (c : Copy) (kind va : Nat) : Option Nat :=
  let asid := s.copyAsid c
  (s.tlbs.find? fun t => (t.hits 1 c.die c.cluster asid va || t.hits 2 c.die 0 asid va) && permits kind t.w t.x).map fun t => t.pa + va % 2 ^ t.bits

/-- Entry `row` of the index or weight list. -/
def State.listEntry (s : State) (c : Copy) (base row : Nat) : Entry :=
  let a := base + 4 * row
  if c.desc.lspace then
    match s.copyLoc c.team c.die 1 0 a 4 with
    | some v => if !s.scratchReady v 4 then .wait else if s.vaultPoison v 4 then .bad 10 a else .val (readBytes s.vault v 4)
    | none => .bad 11 a
  else if 2 ^ 56 ≤ a then .bad 11 a
  else match s.copyPa c kCopySrc a with
    | none => .need a
    | some p => match c.line (lineOf p) with
      | none => .need a
      | some q => if q.poison ≠ 0 || q.refused then .bad 10 a else .val (lineNat q.data (p % 128) 4)

/-- What a row's list entries give: the index and the weight. An index at or above ILIM and an entry that cannot be read stop the
row. -/
inductive RowEntry where
  | at (i w : Nat)
  | need (va : Nat)
  | wait
  | stop (code addr : Nat)
deriving DecidableEq, Repr

def State.rowEntry (s : State) (c : Copy) (row : Nat) : RowEntry :=
  let d := c.desc
  match s.listEntry c d.idx row with
  | .need va => .need va
  | .wait => .wait
  | .bad code a => .stop code a
  | .val i =>
    if i = 0xffffffff then .at i 0
    else if d.ilim ≤ i then .stop 3 (d.idx + 4 * row)
    else if c.mode ≠ 2 || d.wgt = 0 then .at i 0x3f800000
    else match s.listEntry c d.wgt row with
      | .need va => .need va
      | .wait => .wait
      | .bad code a => .stop code a
      | .val w => .at i w

/-! ### Requests of the engine -/

/-- Read a line of global memory with a single-use read (R107); the copy reads each line once. -/
def State.engineRead (s : State) (c : Copy) (line : Nat) : State :=
  if (s.reqs.any fun q => q.users.contains (.copy c.id) && q.line = line && q.read) || (c.line line).isSome ||
      64 ≤ (s.reqs.filter fun q => q.kind = 1 && q.die = c.die && q.core = c.cluster && q.read).length then s
  else s.sendAs (engineAgent c.die c.cluster) c.die c.cluster (.copy c.id) { id := 0, ty := .readReq, once := true, src := 0, dst := 0, addr := lineAddr line }

def State.holdOf (s : State) (agent line : Nat) : Option Hold := s.holds.find? fun h => h.agent = agent && h.line = line

/-- One hold of an agent: a span port may have two of a line. -/
def Hold.is (h o : Hold) : Bool := h.agent = o.agent && h.line = o.line && h.user = o.user && h.reader.tag = o.reader.tag

def State.dropHold (s : State) (h : Hold) : State := { s with holds := s.holds.filter fun (o : Hold) => !o.is h }

/-- The holder's own bound of the lease has not been reached: it may use its copy (R73). -/
def State.holdLive (s : State) (h : Hold) : Bool := h.st = 1 && s.tcAt h.unit < h.till

/-- Send a Writeback of a held line; the holder's copy ends with RELEASE or FWD, and a Forward's reader gets the line (R74, R75,
R78). -/
def State.sendWriteback (s : State) (h : Hold) (fwd : Bool) (fw : Msg) : State :=
  let tag := s.nextId
  let addr := lineAddr h.line
  let m : Msg := { id := tag, ty := .writeback, fwd := fwd, release := !fwd, tag := tag, src := h.unit, dst := s.homeOf addr, agent := h.agent, inc := h.inc, addr := addr, mask := h.dirty, data := h.data }
  let first := ((List.range 128).find? h.dirty.getLsbD).getD 0
  let s := { s.dropHold h with
    nextId := tag + 1
    net := s.net ++ [m]
    reqs := s.reqs ++ [{ Req.of h.line 0 false [if agentKind h.agent = 7 then .incoming h.user else .copy h.user] with
                         tag := tag, die := h.unit, core := h.agent % 2 ^ 20, kind := agentKind h.agent, first := first }] }
  if fwd then s.post { id := 0, ty := .fwdData, tag := fw.tag, src := h.unit, dst := s.agentDst fw.agent addr, addr := addr, agent := h.agent, inc := h.inc, poison := h.bad, data := h.data } else s

/-- Virtual address of a line's first byte, as far as a translation of the copy leads to it (R160). -/
def State.lineVa (s : State) (c : Copy) (line : Nat) : Nat :=
  ((s.tlbs.find? fun t => t.die = c.die && t.asid = s.copyAsid c && (t.level = 2 || (t.level = 1 && t.unit = c.cluster)) && t.pa ≤ lineAddr line && lineAddr line < t.pa + 2 ^ t.bits).map
    fun t => t.page * 2 ^ t.bits + (lineAddr line - t.pa)).getD 0

/-- The bytes of a line from `first` on are not written: the lease was refused or lost (R156, R160). -/
def State.lineLost (s : State) (id line first : Nat) : State :=
  match s.copies.find? (·.id = id) with
  | none => s
  | some c => s.copyErr id 9 (s.lineVa c line + first)

/-- The holder has lost a line or stops using it: what it has written there is not performed, and its copy reports it (R78, R156). -/
def State.lapse (s : State) (h : Hold) : State :=
  let s := s.dropHold h
  if agentKind h.agent = 1 && h.dirty ≠ 0 then s.lineLost h.user h.line (((List.range 128).find? h.dirty.getLsbD).getD 0) else s

/-! ### What is left of a copy -/

/-- Where a row's parts lie: the addresses of its first source and destination bytes; the index of a row that is not cut yet may
not have been read. -/
inductive RowPlace where
  | at (src dst wgt : Nat)
  | skip
  | unread
  | bad (code addr : Nat)
deriving DecidableEq, Repr

def State.rowPlace (s : State) (c : Copy) (row : Nat) : RowPlace :=
  let d := c.desc
  match if c.mode = 0 then some (row, row, 0) else c.entries.find? (·.1 = row) with
  | none => .unread
  | some (_, i, w) =>
    if c.mode ≠ 0 && i = 0xffffffff then .skip
    else
      let src := strideAt d.src d.sstride (if c.mode = 1 then i else row) d.sspace
      let dst := strideAt d.dst d.dstride (if c.mode = 2 then i else row) d.dspace
      let outside (sp a size : Nat) : Bool :=
        if sp = 0 then 2 ^ 56 < a + size else if sp = 5 then false else (s.copyLoc c.team c.die sp d.die a size).isNone
      -- the first byte that lies outside
      let at' (sp a size : Nat) : Nat :=
        if sp = 0 then max a (2 ^ 56) else a + ((List.range size).find? fun i => (s.copyLoc c.team c.die sp d.die (a + i) 1).isNone).getD 0
      if outside d.sspace src d.rowBytes then .bad 11 (at' d.sspace src d.rowBytes)
      else if outside d.dspace dst (d.drow c.mode) then .bad (if d.dspace = 4 then 8 else 11) (at' d.dspace dst (d.drow c.mode))
      else .at src dst w

/-- Bytes of a destination range that part of a row writes: offset and length. -/
def Copy.dpart (c : Copy) (off len : Nat) : Nat × Nat :=
  if c.mode = 2 then (off / c.desc.elem * c.desc.delem 2, len / c.desc.elem * c.desc.delem 2) else (off, len)

/-- A part that has still to be written has a destination range with the property; `unread` for a row of CPYA whose index has not
been read. -/
def State.partLeft (s : State) (c : Copy) (hit : Nat → Nat → Bool) (unread : Bool) (row off len : Nat) : Bool :=
  let p := c.dpart off len
  match s.rowPlace c row with
  | .at _ dst _ => hit (dst + p.1) p.2
  | .unread => if c.mode = 2 then unread else hit (strideAt c.desc.dst c.desc.dstride row c.desc.dspace + p.1) p.2
  | _ => false

/-- One of the chunks' parts has. -/
def State.chunksLeft (s : State) (c : Copy) (ks : List Chunk) (hit : Nat → Nat → Bool) : Bool :=
  ks.any fun k => k.parts.any fun p => s.partLeft c hit true p.1 p.2.1 p.2.2

/-- One of the chunks' parts or of the rows not cut yet has. -/
def State.someLeft (s : State) (c : Copy) (hit : Nat → Nat → Bool) (unread : Bool) : Bool :=
  s.chunksLeft c c.chunks hit || match c.rows with
    | [] => false
    | (f, n) :: rest =>
      s.partLeft c hit unread f c.cut (c.desc.rowBytes - c.cut) || (rowsOf ((f + 1, n - 1) :: rest)).any fun r => s.partLeft c hit unread r 0 c.desc.rowBytes

/-- A range of global destination bytes touches the line. -/
def State.onLine (s : State) (c : Copy) (line va n : Nat) : Bool :=
  c.desc.dspace = 0 && (vlines va n).any fun v => (s.copyPa c kCopyDst (v * 128)).any fun pa => lineOf pa = line

/-- The copy has still to write to the line (R153). -/
def State.copyNeeds (s : State) (c : Copy) (line : Nat) : Bool := s.someLeft c (s.onLine c line) true

/-- A line of a copy's chunk that is being written: the chunk's write to it is in progress (R75). -/
def State.writing (s : State) (h : Hold) : Bool :=
  match s.copies.find? (·.id = h.user) with
  | none => false
  | some c => s.chunksLeft c (c.chunks.take 1) (s.onLine c h.line)

/-- Lines that the copy has finished go back to their homes, and a reader or a writer that waited for the chunk's write to the line
is answered (R75, R76, R153); a line whose own bound is reached is used no more. -/
def State.releaseLines (s : State) (id : Nat) : State :=
  match s.copies.find? (·.id = id) with
  | none => s
  | some c =>
    (s.holds.filter fun h => h.agent = engineAgent c.die c.cluster && h.user = id && h.st = 1).foldl (fun s h =>
      if !s.holdLive h then s.lapse h
      else if h.asked ≠ 0 then (if s.writing h then s else s.sendWriteback h (h.asked = 1) h.reader)
      else if !s.copyNeeds c h.line then s.sendWriteback h false h.reader
      else s) s

/-- A line that the engine can give up for another: none of its copy's chunks writes it. -/
def State.spareHold (s : State) (agent : Nat) : Option Hold :=
  s.holds.find? fun h => h.agent = agent && s.holdLive h && h.asked = 0 && !((s.copies.find? (·.id = h.user)).any fun c => s.chunksLeft c c.chunks (s.onLine c h.line))

/-- Ask for the exclusive lease of a destination line (R109, R153): an engine that holds 256 gives one up first that no chunk of
its copies writes. A lease that has lapsed is taken again (R161). -/
def State.engineExcl (s : State) (c : Copy) (line : Nat) : State :=
  let a := engineAgent c.die c.cluster
  let s := match s.holdOf a line with
    | some h => if h.st = 1 && !s.holdLive h then s.lapse h else s
    | none => s
  if (s.holdOf a line).isSome then s
  else
    let full (s : State) : Bool := 256 ≤ (s.holds.filter (·.agent = a)).length
    let s := if full s then (match s.spareHold a with
      | some h => s.sendWriteback h false h.reader
      | none => s) else s
    if full s then s
    else
      let tag := s.nextId
      let m : Msg := { id := tag, ty := .exclReq, tag := tag, src := c.die, dst := s.homeOf (lineAddr line), agent := a, inc := s.incOf a, addr := lineAddr line }
      { s with nextId := tag + 1, net := s.net ++ [m], holds := s.holds ++ [⟨a, s.incOf a, c.die, line, 0, 0, s.now, 0, 0, 0, 0, m, c.id⟩] }

/-! ### What a part reads -/

/-- Lines of global memory under a range of virtual addresses that translate. -/
def State.rangeLines (s : State) (c : Copy) (kind va len : Nat) : Option (List Nat) :=
  (vlines va len).foldl (fun acc v => match acc, s.copyPa c kind (v * 128) with
    | some l, some pa => some (l ++ [lineOf pa])
    | _, _ => none) (some [])

/-- The first byte of a range whose line does not translate. -/
def State.firstMiss (s : State) (c : Copy) (kind va len : Nat) : Nat :=
  max va ((((vlines va len).find? fun v => (s.copyPa c kind (v * 128)).isNone).getD 0) * 128)

/-- Key of a line of another module's memory in a copy's buffer, and of a vault line. -/
def spanLine (module line : Nat) : Nat := 2 ^ 60 + module * 2 ^ 52 + line
def vaultLine (vline : Nat) : Nat := 2 ^ 61 + vline

/-- Get a line of another module (R89). -/
def State.spanGet (s : State) (c : Copy) (line : Nat) : State :=
  let va : DWord := BitVec.ofNat 64 (line * 128 % 2 ^ 56 + c.desc.module * 2 ^ 56)
  if (c.line (spanLine c.desc.module line)).isSome || s.spans.any (fun (o : SpanOp) => o.copy = c.id && o.kind = 1 && o.addr = va) then s
  else { s with spans := s.spans ++ [⟨s.nextId, 1, none, c.id, va, 0, 0, 0, 0, s.spanRoute va, s.now⟩], nextId := s.nextId + 1 }

/-- A vault line is read, once: whole as it stood when its chunk was sent or as it stands now; where the copy itself has written,
each byte is either (R107, R155; log 21). `poison` of the piece has a bit for each poisoned granule. -/
def State.vaultTake (s : State) (c : Copy) (k : Chunk) (vline : Nat) : State :=
  if (c.line (vaultLine vline)).isSome then s
  else
    let now : Line := BitVec.ofNat 1024 (readBytes s.vault (vline * 128) 128)
    let old : Line := ((k.snap.find? fun p => p.1 = vline).map (·.2)).getD now
    let whole : Bool := Config.overlapTakesNew (s.steps * 2 ^ 32 + vline * 128 + 128)
    let byte (i : Nat) : Nat :=
      let b := vline * 128 + i
      let own : Bool := c.written.any fun p => p.1 ≤ b && b < p.1 + p.2
      (Line.byte (if (if own then Config.overlapTakesNew (s.steps * 2 ^ 32 + b) else whole) then now else old) i).toNat
    let bad := (List.range 16).foldl (fun n g => if s.eccVault.contains (vline * 16 + g) then n + 2 ^ g else n) 0
    s.modCopy c.id fun c => { c with buf := c.buf ++ [⟨vaultLine vline, 0, onceUpto, bad, false, BitVec.ofNat 1024 ((List.range 128).foldr (fun i n => byte i + 256 * n) 0)⟩] }

/-- What a part's source comes to: its bytes, or the offset of the first byte that cannot be used. -/
inductive Source where
  | got (v : Nat)
  | poison (off : Nat)
  | wait (s : State)
  | page (s : State) (va : Nat)

/-- Bytes of a line that has been read. -/
def pieceBytes (q : Piece) (off n : Nat) : Nat := lineNat q.data off n

/-- A part's source bytes, all of one line. -/
def State.partSource (s : State) (c : Copy) (k : Chunk) (src len : Nat) : Source :=
  let d := c.desc
  let global (q : Piece) : Source := if q.poison ≠ 0 || q.refused then .poison 0 else .got (pieceBytes q (src % 128) len)
  if d.sspace = 5 then
    match c.line (spanLine d.module (src / 128)) with
    | some q => global q
    | none => .wait (s.spanGet c (src / 128))
  else if d.sspace = 0 then
    match s.copyPa c kCopySrc src with
    | none => .page s src
    | some pa => match c.line (lineOf pa) with
      | some q => global q
      | none => .wait (s.engineRead c (lineOf pa))
  else match s.copyLoc c.team c.die d.sspace c.die src len with
    | none => .poison 0
    | some a =>
      if !s.scratchReady a len then .wait s
      else
        let s := s.vaultTake c k (a / 128)
        match (s.copies.find? (·.id = c.id)).bind fun c => c.line (vaultLine (a / 128)) with
        | none => .wait s
        | some q => match (List.range len).find? fun i => q.poison.testBit ((a + i) % 128 / 8) with
          | some i => .poison i
          | none => .got (pieceBytes q (a % 128) len)

/-! ### What a part writes -/

/-- One element of CPYA (R149). -/
def addElem (d : Desc) (x old w : Nat) : Nat :=
  let src : Iv := match d.fmt with
    | 2 => Iv.load .fp32 (x % 2 ^ 32) (x / 2 ^ 32)
    | 3 => Iv.ofPoint .bf16 .fp32 x
    | 4 => Iv.ofPoint .f16 .fp32 x
    | _ => Iv.ofPoint .fp32 .fp32 x
  let wgt : Iv := Iv.ofPoint .fp32 .fp32 w
  let lo (x : Iv) : Pt := (x.write .fp32).lower .fp32
  if d.pt then Fmt.fp32.encode (Pt.fmaP .fp32 (lo wgt) (lo src) (some (Fmt.fp32.decode old)))
  else
    let r := (Iv.fma .fp32 wgt src (Iv.load .fp32 (old % 2 ^ 32) (old / 2 ^ 32))).write .fp32
    r.lo + r.hi * 2 ^ 32

/-- The new bytes of a destination range, given the source bytes and the old ones. -/
def Copy.newBytes (c : Copy) (w len src old : Nat) : Nat :=
  if c.mode = 2 then
    let e := c.desc.elem; let de := c.desc.delem 2
    (List.range (len / e)).foldl (fun n j => n + addElem c.desc (src / 256 ^ (e * j) % 256 ^ e) (old / 256 ^ (de * j) % 256 ^ de) w * 256 ^ (de * j)) 0
  else src

/-- What writing a part comes to. -/
inductive PartDone where
  | wait (s : State)
  | done (s : State)
  | page (s : State) (va kind : Nat)

/-- An earlier-started copy of the engine has still to write a line of the range [va, va + len), whose lines are `ls` (R154). Rows
of a CPYA whose index has not been read may lie anywhere in its destination. -/
def State.owes (s : State) (o : Copy) (same : Bool) (va len : Nat) (ls : List Nat) : Bool :=
  let d := o.desc
  let meets (a n : Nat) : Bool := same && va / 128 * 128 < a + n && a / 128 * 128 < va + len
  let last := strideAt d.dst d.dstride (d.ilim - 1) d.dspace
  d.dspace = 0 && s.someLeft o (fun a n => meets a n || ls.any fun l => s.onLine o l a n) (meets (min d.dst last) (max d.dst last - min d.dst last + d.drow 2))

def State.owedBefore (s : State) (c : Copy) (va len : Nat) (ls : List Nat) : Bool :=
  s.copies.any fun o => o.order ≠ 0 && o.order < c.order && o.die = c.die && o.cluster = c.cluster && s.owes o (s.copyAsid o = s.copyAsid c) va len ls

/-- Write new bytes into the held line. -/
def State.holdWrite (s : State) (h : Hold) (off n v : Nat) : State :=
  { s with holds := s.holds.map fun (o : Hold) =>
      if o.is h then
        let dirty := o.dirty ||| byteMask off n
        { o with data := BitVec.ofNat 1024 (o.data.toNat - lineNat o.data off n * 256 ^ off + v % 256 ^ n * 256 ^ off), dirty := dirty, bad := if dirty = BitVec.allOnes 128 then 0 else o.bad }
      else o }

/-- Copies that have started earlier, of any engine, have no part of the vault line left (R129, R154). -/
def State.lineFree (s : State) (c : Copy) (l : Nat) : Bool := !(s.copies.any fun o => o.order ≠ 0 && o.order < c.order && o.marks.contains l)

/-- Write a part whose source bytes are at hand to its destination, all of one line. A CPYA that finds the old bytes uncorrectable
writes nothing there (R156; DEDUCED, log 76). -/
def State.partWrite (s : State) (c : Copy) (dst n w len v : Nat) : PartDone :=
  let d := c.desc
  if d.dspace = 5 then
    .done { s with
      spans := s.spans ++ [⟨s.nextId, 0, none, c.id, BitVec.ofNat 64 (dst % 2 ^ 56 + d.module * 2 ^ 56), n, c.mode, v, w, s.spanRoute (BitVec.ofNat 64 (dst % 2 ^ 56 + d.module * 2 ^ 56)), s.now⟩]
      nextId := s.nextId + 1 }
  else if d.dspace = 0 then
    match s.copyPa c kCopyDst dst with
    | none => .page s dst kCopyDst
    | some pa =>
      if s.owedBefore c dst n [lineOf pa] then .wait s
      else match (s.holdOf (engineAgent c.die c.cluster) (lineOf pa)).filter fun h => s.holdLive h && h.user = c.id with
        | none => .wait (s.engineExcl c (lineOf pa))
        | some h =>
          if c.mode = 2 && h.bad ≠ 0 then .done (s.copyErr c.id 10 dst)
          else .done (s.holdWrite h (pa % 128) n (c.newBytes w len v (lineNat h.data (pa % 128) n)))
  else match s.copyLoc c.team c.die d.dspace d.die dst n with
    | none => .done (s.copyErr c.id (if d.dspace = 4 then 8 else 11) dst)
    | some a =>
      if !s.lineFree c (a / 128) || !s.scratchReady a n then .wait s
      else if c.mode = 2 && s.vaultPoison a n then .done (s.copyErr c.id 10 dst)
      else
        let far := if d.dspace = 4 then s.tcAt d.die else 0
        .done ({ s with
          vault := writeBytes s.vault a n (c.newBytes w len v (readBytes s.vault a n))
          eccVault := s.eccVault.filter fun g => !(a ≤ g * 8 && g * 8 + 8 ≤ a + n) }.modCopy c.id fun c => { c with written := c.written ++ [(a, n)], latest := max c.latest far })

/-- Write one part of a row: read its source, then its destination. -/
def State.writePart (s : State) (c : Copy) (k : Chunk) (row off len : Nat) : PartDone :=
  match s.rowPlace c row with
  | .skip => .done s
  | .unread => .wait s
  | .bad code a => .done (s.copyErr c.id code a)
  | .at src dst w =>
    let p := c.dpart off len
    match s.partSource c k (src + off) len with
    | .wait s => .wait s
    | .page s va => .page s va kCopySrc
    | .poison i => .done (s.copyErr c.id 10 (src + off + i))
    | .got v => s.partWrite c (dst + p.1) p.2 w len v

/-- Vault lines that the copy has finished lose their marks (R129). -/
def State.clearMarks (s : State) (id : Nat) : State :=
  match s.copies.find? (·.id = id) with
  | none => s
  | some c =>
    let left (l : Nat) : Bool := s.someLeft c (fun a n => (s.spaceLines c c.desc.dspace a n).contains l) true
    let gone := c.marks.filter fun l => !left l
    (s.unmark gone).modCopy id fun c => { c with marks := c.marks.filter left }

/-- A part cut at the lines of its source. -/
def bySource (src : Nat) (p : Nat × Nat × Nat) : List (Nat × Nat × Nat) :=
  (vlines (src + p.2.1) p.2.2).map fun l =>
    let lo := max (src + p.2.1) (l * 128)
    (p.1, lo - src, min (src + p.2.1 + p.2.2) (l * 128 + 128) - lo)

/-- A part cut at the lines of its destination. -/
def Copy.byDest (c : Copy) (dst : Nat) (p : Nat × Nat × Nat) : List (Nat × Nat × Nat) :=
  let q := c.dpart p.2.1 p.2.2
  let back (n : Nat) : Nat := if c.mode = 2 then n / c.desc.delem 2 * c.desc.elem else n
  (vlines (dst + q.1) q.2).map fun l =>
    let lo := back (max (dst + q.1) (l * 128) - dst)
    (p.1, lo, back (min (dst + q.1 + q.2) (l * 128 + 128) - dst) - lo)

/-- A part cut at lines, so that a line with poison or a refused lease stops no bytes but its own (R156). -/
def State.byLine (s : State) (c : Copy) (p : Nat × Nat × Nat) : List (Nat × Nat × Nat) :=
  match s.rowPlace c p.1 with
  | .at src dst _ => (bySource src p).flatMap (c.byDest dst)
  | _ => [p]

/-- Lines of the destination space that a part writes. -/
def State.destLines (s : State) (c : Copy) (p : Nat × Nat × Nat) : List Nat :=
  match s.rowPlace c p.1 with
  | .at _ dst _ => let q := c.dpart p.2.1 p.2.2; vlines (dst + q.1) q.2
  | _ => []

/-- Change the parts left of the chunk that is being written. -/
def State.setParts (s : State) (id : Nat) (ps : List (Nat × Nat × Nat)) : State :=
  s.modCopy id fun c => match c.chunks with
    | [] => c
    | k :: rest => { c with chunks := { k with parts := ps } :: rest }

/-- Ask for the source lines of a chunk, and for the leases of its destination lines (R153). -/
def State.askAhead (s : State) (id : Nat) (parts : List (Nat × Nat × Nat)) : State :=
  match s.copies.find? (·.id = id) with
  | none => s
  | some c => parts.foldl (fun s p =>
      match s.rowPlace c p.1 with
      | .at src dst _ =>
        let q := c.dpart p.2.1 p.2.2
        let s := if c.desc.sspace ≠ 0 then s else ((s.rangeLines c kCopySrc (src + p.2.1) p.2.2).getD []).foldl (fun s l => s.engineRead c l) s
        if c.desc.dspace ≠ 0 then s
        else match s.rangeLines c kCopyDst (dst + q.1) q.2 with
          | some ls => if s.owedBefore c (dst + q.1) q.2 ls then s else ls.foldl (fun s l => s.engineExcl c l) s
          | none => s
      | _ => s) s

/-- Leases are asked for up to 8 chunks ahead of the one that is being written. -/
def State.askWindow (s : State) (id : Nat) : State :=
  match s.copies.find? (·.id = id) with
  | none => s
  | some c => ((c.chunks.drop 8).take 1).foldl (fun s k => s.askAhead id k.parts) s

/-- The copy ends where it stands: what is held goes back with what has been written, and marks are cleared (R161). -/
def State.abandonCopy (s : State) (id : Nat) : State :=
  ((s.modCopy id fun c => { c with rows := [], cut := 0, chunks := [], paused := none }).releaseLines id).clearMarks id

/-- An access of the copy does not translate: it walks, the copy pauses on the page's record, or it ends where the companion has
declined (R161); the flag says that it may go on. -/
def State.copyFault (s : State) (c : Copy) (kind va : Nat) : State × Bool :=
  match s.translateUnit c.die c.cluster (s.copyAsid c) kind va with
  | (s, .ok _) => (s, true)
  | (s, .walk w) => (s.modCopy c.id fun c => { c with paused := some w }, false)
  | (s, .page f) => (s.modCopy c.id fun c => { c with paused := some f }, false)
  | (s, .declined fl _) => (((s.spent fl).copyErr c.id (if kind = kCopyDst then 2 else 1) va).abandonCopy c.id, false)

/-- Go on with the parts of the first chunk in flight, from part n: those before it wait, and lines that they write take no later
part. A line is written as soon as what it needs is there, whatever else of the chunk waits (R75). -/
def State.pumpParts (s : State) (id : Nat) : Nat → Nat → List Nat → State
  | 0, _, _ => s
  | fuel + 1, n, blocked =>
    match s.copies.find? (·.id = id) with
    | none => s
    | some c =>
      if c.paused.isSome then s
      else match c.chunks with
        | [] => s
        | k :: rest =>
          match k.parts.drop n with
          | [] => if n ≠ 0 then s else ((((s.modCopy id fun c => { c with chunks := rest }).askWindow id).releaseLines id).clearMarks id).pumpParts id fuel 0 []
          | p :: ps =>
            let cut := s.byLine c p
            let before := k.parts.take n
            let ls := s.destLines c p
            if 1 < cut.length then (s.setParts id (before ++ cut ++ ps)).pumpParts id fuel n blocked
            else if ls.any blocked.contains then s.pumpParts id fuel (n + 1) (blocked ++ ls)
            else match s.writePart c k p.1 p.2.1 p.2.2 with
              | .wait s => s.pumpParts id fuel (n + 1) (blocked ++ ls)
              | .done s => (((s.setParts id (before ++ ps)).releaseLines id).clearMarks id).pumpParts id fuel n blocked
              | .page s va kind => match s.copyFault c kind va with
                | (s, true) => s.pumpParts id fuel n blocked
                | (s, false) => s

def State.pumpCopy (s : State) (id : Nat) : State :=
  match s.copies.find? (·.id = id) with
  | some c => (s.pumpParts id (c.chunks.foldl (fun n k => n + k.parts.foldl (fun n p => n + p.2.2 + 8) 0) 16) 0 []).releaseLines id
  | none => s

/-- The home refuses the lease of a line: the copy leaves out the bytes that it is about to write to it (R78, R156). A line that has
been asked for ahead is asked for again when the copy comes to it. -/
def State.leaseRefused (s : State) (h : Hold) : State :=
  let s := s.dropHold h
  match s.copies.find? (·.id = h.user) with
  | none => s
  | some c =>
    match c.chunks with
    | [] => s
    | k :: _ =>
      let hits (p : Nat × Nat × Nat) : Bool := (s.byLine c p).length ≤ 1 && s.partLeft c (s.onLine c h.line) false p.1 p.2.1 p.2.2
      match k.parts.find? hits with
      | none => s
      | some p =>
        let first := match s.rowPlace c p.1 with
          | .at _ dst _ => dst + (c.dpart p.2.1 p.2.2).1
          | _ => 0
        ((s.copyErr c.id 9 first).setParts c.id (k.parts.filter fun p => !hits p)).pumpCopy c.id

/-! ### Deficit round-robin (R152) -/

/-- The copy that queue q serves: the first started one with bytes left to send, or paused. -/
def State.served (s : State) (die cluster q : Nat) : Option Copy :=
  (s.copies.filter fun c => c.die = die && c.cluster = cluster && c.order ≠ 0 && c.svc = q && (c.rows ≠ [] || c.paused.isSome)).foldl (fun b c => match b with
    | none => some c
    | some (o : Copy) => if c.order < o.order then some c else some o) none

/-- Read the list entries of the rows of a chunk, each once (R148); the flag says that all have been. -/
def State.readLists (s : State) (id : Nat) : List Nat → State × Bool
  | [] => (s, true)
  | row :: rest =>
    match s.copies.find? (·.id = id) with
    | none => (s, false)
    | some c =>
      let keep (s : State) (i w : Nat) : State := s.modCopy id fun c => { c with entries := c.entries ++ [(row, i, w)] }
      if c.mode = 0 || c.entries.any (·.1 = row) then s.readLists id rest
      else match s.rowEntry c row with
        | .at i w => (keep s i w).readLists id rest
        | .stop code a => (keep (s.copyErr id code a) 0xffffffff 0).readLists id rest
        | .wait => (s, false)
        | .need va => match s.copyPa c kCopySrc va with
          | some pa => let r := (s.engineRead c (lineOf pa)).readLists id rest; (r.1, false)
          | none => ((s.copyFault c kCopySrc va).1, false)

/-- Send a chunk of a copy. -/
def State.sendChunk (s : State) (c : Copy) : State :=
  let (parts, rows, cut) := c.nextChunk
  let snap := if c.desc.sspace = 0 || c.desc.sspace = 5 then [] else
    (parts.flatMap fun p => match s.rowPlace c p.1 with
      | .at src _ _ => (match s.copyLoc c.team c.die c.desc.sspace c.die (src + p.2.1) p.2.2 with
          | some a => vlines a p.2.2
          | none => [])
      | _ => []).map fun l => (l, BitVec.ofNat 1024 (readBytes s.vault (l * 128) 128))
  let s := (s.countCluster c.die c.cluster 2 (partsSize parts)).modCopy c.id fun c => { c with chunks := c.chunks ++ [⟨parts, snap⟩], rows := rows, cut := cut }
  (if c.chunks.length < 9 then s.askAhead c.id parts else s).pumpCopy c.id

def Engine.next (e : Engine) : Engine := { e with turn := if e.turn = 0 then 3 else e.turn - 1, fresh := true }
def Engine.setDeficit (e : Engine) (n : Nat) : Engine := { e with deficit := e.deficit.set e.turn n }

/-- Visit queues until a chunk is sent. -/
def State.drr (s : State) (e : Engine) : Nat → State × Engine
  | 0 => (s, e)
  | fuel + 1 =>
    match s.served e.die e.cluster e.turn with
    | none => s.drr ((e.setDeficit 0).next) fuel
    | some c =>
      let e := if e.fresh then { (e.setDeficit ((e.deficit[e.turn]?).getD 0 + 1024 * 2 ^ e.turn)) with fresh := false } else e
      let size := partsSize c.nextChunk.1
      if c.paused.isNone && size ≤ (e.deficit[e.turn]?).getD 0 then
        match s.readLists c.id (c.nextChunk.1.map (·.1)) with
        | (s, true) => (s.sendChunk ((s.copies.find? (·.id = c.id)).getD c), e.setDeficit ((e.deficit[e.turn]?).getD 0 - size))
        | (s, false) => s.drr e.next fuel
      else s.drr e.next fuel

def State.engineOf (s : State) (die cluster : Nat) : Engine :=
  (s.engines.find? fun e => e.die = die && e.cluster = cluster).getD ⟨die, cluster, [0, 0, 0, 0], 3, true, [0, 0, 0, 0]⟩

def State.setEngine (s : State) (e : Engine) : State :=
  { s with engines := (s.engines.filter fun o => !(o.die = e.die && o.cluster = e.cluster)) ++ [e] }

/-- A write of a copy has performed: the latest GWCT of its queue, and of the copy (R64, R108, R151). -/
def State.copyPerformed (s : State) (id g : Nat) : State :=
  match s.copies.find? (·.id = id) with
  | none => s
  | some c =>
    let e := s.engineOf c.die c.cluster
    (s.setEngine { e with gwct := e.gwct.set c.cls (max ((e.gwct[c.cls]?).getD 0) g) }).modCopy id fun c => { c with latest := max c.latest g }

/-- Started copies of an engine go on, in order of start. -/
def State.pumpEngine (s : State) (die cluster : Nat) : State :=
  (s.copies.filter fun c => c.die = die && c.cluster = cluster && c.order ≠ 0).foldl (fun s c => s.pumpCopy c.id) s

/-- The engine of a cluster picks and sends the next chunk, and goes on with what it has sent. -/
def State.engineStep (s : State) (die cluster : Nat) : State :=
  let (s, e) := s.drr (s.engineOf die cluster) 24
  (s.setEngine { e with gwct := (s.engineOf die cluster).gwct }).pumpEngine die cluster

/-! ### Arrival (R108, R158) -/

/-- An arrival acts on a barrier register (R158); `copy` carries whether its error is set. -/
def BarReg.arrive (b : BarReg) (count : Nat) (copy : Option Bool) : BarReg :=
  let b := { b with arrived := b.arrived + count, pend := if copy.isSome then b.pend - 1 else b.pend, err := b.err || copy = some true }
  if b.expected ≤ b.arrived then { b with arrived := b.arrived - b.expected, lastErr := b.err, err := false, phase := !b.phase } else b

/-- The word of R157. -/
def BarReg.word (b : BarReg) : Nat :=
  b.arrived % 2 ^ 10 + b.expected % 2 ^ 10 * 2 ^ 10 + b.pend % 2 ^ 7 * 2 ^ 20 + (if b.phase then 2 ^ 29 else 0) + (if b.lastErr then 2 ^ 30 else 0) + (if b.err then 2 ^ 31 else 0)

def State.bar (s : State) (t : TeamKey) (n : Nat) : BarReg := ((s.team? t).map fun tm => tm.bars.get BarReg.zero n).getD BarReg.zero
def State.setBar (s : State) (t : TeamKey) (n : Nat) (b : BarReg) : State := s.modTeam t fun tm => { tm with bars := tm.bars.put BarReg.zero n b }

/-- All of the copy's bytes have been sent, written and performed. -/
def State.copyOver (s : State) (c : Copy) : Bool :=
  c.order ≠ 0 && c.rows = [] && c.chunks = [] && !(s.holds.any fun h => h.user = c.id && h.agent = engineAgent c.die c.cluster) &&
    !(s.reqs.any fun q => q.users.contains (.copy c.id)) && !(s.spans.any fun (o : SpanOp) => o.copy = c.id)

/-- The copy arrives on its barrier register and leaves its queue. -/
def State.copyArrive (s : State) (c : Copy) : State :=
  let s := { (s.unmark c.marks) with copies := s.copies.filter (·.id ≠ c.id) }
  let n := c.desc.bar % 16
  s.setBar c.team n ((s.bar c.team n).arrive 1 (some (c.cause ≠ 0)))

end Sys2Proof.Machine
end

