-- ==== Sys2Proof/Machine/Area.lean ====
section
/-! DEFINITION. What a core has room for: registers and warps (R167), and areas of its vault (R117); and the time that
cycles of a die's clock take (R3, R422, R490). -/

namespace Sys2Proof.Machine

/-! ### Time -/

/-- A die's clock in MHz: 1,000 in reduced service in either class (R490). -/
def State.mhz (s : State) (die : Nat) : Nat := if s.panel.reduced then 1000 else s.panel.clock.get 1700 die

/-- ns that n cycles of a die take, rounded up. -/
def State.cyclesNs (s : State) (die n : Nat) : Nat := (n * 1000 + s.mhz die - 1) / s.mhz die

/-! ### Vault areas (R117) -/

def roundUpTo (unit n : Nat) : Nat := (n + unit - 1) / unit * unit

abbrev vaultSize : Nat := 524288

/-- Bytes of a team's spill area. -/
def spillBytes (g : Grid) : Nat := roundUpTo 1024 (g.teamWarps * g.header.spill * 32)

/-- Areas allocated in a core's vault, as (offset, bytes). -/
def State.areas (s : State) (die core : Nat) : List (Nat × Nat) :=
  let teams := s.teams.filter fun p => p.2.resident && p.2.die = die && p.2.core = core
  let pods := s.pods.filter fun p => p.die = die && p.core = core
  (teams.flatMap fun p =>
    match s.grid? p.1.grid with
    | some g => [(p.2.scratch, roundUpTo 1024 g.scratch), (p.2.spillAt, spillBytes g)]
    | none => []) ++ pods.map fun p => (p.base, p.slots * 128)

def areaFree (l : List (Nat × Nat)) (base size : Nat) : Bool :=
  base + size ≤ vaultSize && l.all fun p => p.2 = 0 || p.1 + p.2 ≤ base || base + size ≤ p.1

/-- First fit from offset 0 upwards. -/
def fitUp (l : List (Nat × Nat)) (size : Nat) : Option Nat :=
  if size = 0 then some 0
  else ((0 :: l.map fun p => p.1 + p.2).filter fun b => areaFree l b size).foldl (fun o b => match o with
    | none => some b
    | some c => some (min b c)) none

/-- First fit from the top downwards. -/
def fitDown (l : List (Nat × Nat)) (size : Nat) : Option Nat :=
  if size = 0 then some 0
  else ((vaultSize :: l.map (·.1)).filter fun e => size ≤ e && areaFree l (e - size) size).foldl (fun o e => match o with
    | none => some (e - size)
    | some c => some (max (e - size) c)) none

/-! ### Registers and warps (R167) -/

/-- V words, F entries, S words, threads and warps. -/
structure Load where
  v : Nat
  f : Nat
  sw : Nat
  threads : Nat
  warps : Nat
deriving DecidableEq, Repr

def Load.add (a b : Load) : Load := ⟨a.v + b.v, a.f + b.f, a.sw + b.sw, a.threads + b.threads, a.warps + b.warps⟩

def Load.fits (a : Load) : Bool := a.v ≤ 16384 && a.f ≤ 16384 && a.sw ≤ 6144 && a.threads ≤ 512 && a.warps ≤ 16

/-- What n warps of a kernel take. -/
def Header.load (h : Header) (n : Nat) : Load := ⟨n * h.width * h.nV, n * h.width * h.nF, n * h.nS, n * h.width, n⟩

/-- What the teams of a core take, and free warp slots that sprouts hold (R445). -/
def State.coreLoad (s : State) (die core : Nat) : Load :=
  let teams := s.teams.foldl (fun l p =>
    if p.2.resident && p.2.die = die && p.2.core = core then
      (match s.grid? p.1.grid with
        | some g => l.add (g.header.load p.2.warps)
        | none => l)
    else l) (⟨0, 0, 0, 0, 0⟩ : Load)
  s.warps.foldl (fun l p =>
    if p.2.die = die && p.2.core = core && p.2.r.live ≠ 0 && p.2.sprout.any (fun (q : Sprout) => q.host.isNone) then l.add ((s.header p.1).load 1) else l) teams

/-- Warp slots that no team of a core holds, ascending (R180). -/
def State.freeSlots (s : State) (die core : Nat) : List Nat :=
  let used := s.teams.flatMap fun p => if p.2.resident && p.2.die = die && p.2.core = core then p.2.slots else []
  (List.range 16).filter fun n => !used.contains n

/-- Places of a team's areas: scratch, spill area, and the Pod where the team is the first of a pool grid there. -/
structure Areas where
  scratch : Nat
  spill : Nat
  pod : Option Nat
deriving DecidableEq, Repr

def Grid.podBytes (g : Grid) : Nat := if g.l.podBytes = 0 then 32768 else g.l.podBytes

def State.podOf (s : State) (die core grid : Nat) : Option Pod := s.pods.find? fun p => p.die = die && p.core = core && p.grid = grid

/-- Areas for one more team of a grid on a core; none where they do not fit. -/
def State.fitAreas (s : State) (die core grid : Nat) (g : Grid) : Option Areas :=
  let l := s.areas die core
  match fitUp l (roundUpTo 1024 g.scratch) with
  | none => none
  | some sc =>
    let l := (sc, roundUpTo 1024 g.scratch) :: l
    match fitDown l (spillBytes g) with
    | none => none
    | some sp =>
      let l := (sp, spillBytes g) :: l
      if g.pool && (s.podOf die core grid).isNone then
        (match fitDown l g.podBytes with
          | some pd => some ⟨sc, sp, some pd⟩
          | none => none)
      else some ⟨sc, sp, none⟩

/-- One more team of the grid fits the core (R413). -/
def State.teamFits (s : State) (die core grid : Nat) (g : Grid) : Bool :=
  core < s.coresPerDie && ((s.coreLoad die core).add (g.header.load g.teamWarps)).fits && (s.fitAreas die core grid g).isSome

end Sys2Proof.Machine
end

