-- ==== Sys2Proof/Machine/Pool.lean ====
section
/-! DEFINITION. Work items, Pods and the overflow area, the Sheller and steals (R424 to R435), and SPLIT, SPAWN and
POOLQ, opcodes 0x11 to 0x13 (R436 to R440). -/

namespace Sys2Proof.Machine

/-! ### Items (R424, R425) -/

/-- A field of an item. -/
def itemField (it : Line) (off n : Nat) : Nat := lineNat it off n

def itemPcoff (it : Line) : Nat := itemField it 0 4
def itemVoid (it : Line) : Bool := itemField it 8 2 / 2 ^ 15 % 2 = 1

/-- The slot that holds no item. -/
def voidItem : Line := BitVec.ofNat 1024 (2 ^ 15 * 256 ^ 8)

/-- The item a thread pushes: start, kind, register and value of its half. -/
def itemOf (g : Grid) (gid : Nat) (r : Regs) (lane : Nat) (target : DWord) (kind xreg : Nat) (xval : Raw) : Line :=
  let h := g.header
  let put (off v : Nat) : Nat := v * 256 ^ off
  let decs := (h.carryF.zipIdx).foldl (fun n p => n + (r.getF p.1 lane).dec.toNat * 4 ^ p.2) 0
  let flags := decs + (if kind = 1 then xval.dec.toNat * 2 ^ 12 else 0) + kind * 2 ^ 14
  let vs := (h.carryV.zipIdx).foldl (fun n p => n + put (0x10 + 4 * p.2) (r.getV p.1 lane).toNat) 0
  let fs := (h.carryF.zipIdx).foldl (fun n p => n + put (0x10 + 4 * h.carryV.length + 8 * p.2) (r.getF p.1 lane).bits.toNat) 0
  BitVec.ofNat 1024 (put 0 ((loWord (target - g.entry)).toNat) + put 4 gid + put 8 flags + put 0xa (min 65535 ((r.item.get 0 lane).toNat % 65536 + 1)) + put 0xc xreg +
    vs + fs + (if kind = 1 then put 0x70 xval.lo + put 0x74 xval.hi else 0) + put 0x78 (r.floorOf lane % 2 ^ 64))

/-- Registers of a thread that runs an item. -/
def Regs.takeItem (r : Regs) (h : Header) (lane : Nat) (it : Line) : Regs :=
  let flags := itemField it 8 2
  let dec (n : Nat) : Dec := BitVec.ofNat 2 (flags / 4 ^ n)
  let r := (h.carryV.zipIdx).foldl (fun r p => r.setV p.1 lane (BitVec.ofNat 32 (itemField it (0x10 + 4 * p.2) 4))) r
  let r := (h.carryF.zipIdx).foldl (fun r p => r.setF p.1 lane ⟨BitVec.ofNat 64 (itemField it (0x10 + 4 * h.carryV.length + 8 * p.2) 8), dec p.2⟩) r
  let r := if flags / 2 ^ 14 % 2 = 1 then r.setF (itemField it 0xc 1 % 128) lane ⟨BitVec.ofNat 64 (itemField it 0x70 8), dec 6⟩ else r
  { r with
    floor := r.floor.put 0 lane (itemField it 0x78 8)
    item := r.item.put 0 lane (BitVec.ofNat 32 (2 ^ 31 + itemField it 0xa 2)) }

/-- S0 to S15 hold the launch's arguments (R169). -/
def Regs.setArgs (r : Regs) (h : Header) (args : BitVec 512) : Regs :=
  (List.range 16).foldl (fun r i => r.setS h.nS i (args.extractLsb' (32 * i) 32)) r

/-! ### Pods (R426) -/

def State.modPod (s : State) (die core grid : Nat) (f : Pod → Pod) : State :=
  { s with pods := s.pods.map fun p => if p.die = die && p.core = core && p.grid = grid then f p else p }

/-- Die group of the grid that lies on a die. -/
def Grid.groupOn (g : Grid) (die : Nat) : Nat := (g.l.dies.findIdx? (· = some die)).getD 0

/-- The overflow queue of a die group (R427): its counts are 0 from admission on. -/
def State.overOf (s : State) (grid group : Nat) : OverQ := (s.overs.find? fun q => q.grid = grid && q.group = group).getD ⟨grid, group, 0, 0, none⟩

def State.setOver (s : State) (q : OverQ) : State :=
  { s with overs := (s.overs.filter fun (o : OverQ) => !(o.grid = q.grid && o.group = q.group)) ++ [q] }

/-- QTAIL − QHEAD. -/
def OverQ.queued (q : OverQ) : Nat := (q.tail + 2 ^ 32 - q.head) % 2 ^ 32

/-- Slots of a Pod that a queue operation holds: those of a batch that is being spilled, and those a refill will fill (R428). -/
def State.opSlots (s : State) (p : Pod) : Nat :=
  s.overs.foldl (fun n q =>
    let here : Bool := q.grid = p.grid && ((s.grid? p.grid).bind fun g => (g.l.dies[q.group]?).bind id) = some p.die
    match q.op with
    | some o => if !here || o.core ≠ p.core then n else if o.what = 1 then n + o.items.length else if o.what = 2 then n + 32 else n
    | none => n) 0

/-- Slots of a Pod that hold nothing and are not kept for a steal's reply or a queue operation. -/
def State.podRoom (s : State) (p : Pod) : Nat :=
  let kept := s.steals.foldl (fun n t => if t.die = p.die && t.core = p.core && t.grid = p.grid && t.waiting then n + t.asked else n) 0
  p.slots - p.items.length - kept - s.opSlots p

/-- Poison lies in the Pod's area (R119, R458). -/
def State.podPoisoned (s : State) (p : Pod) : Bool :=
  s.eccVault.any fun g => (p.die * 1280 + p.core) * 2 ^ 19 + p.base ≤ g * 8 && g * 8 < (p.die * 1280 + p.core) * 2 ^ 19 + p.base + p.slots * 128

/-- OUTSTANDING counts the item: it may leave its Pod and start (R434). -/
def PodItem.counted (it : PodItem) : Bool := it.tag = some 0

/-- The oldest items that may leave the Pod. -/
def Pod.free (p : Pod) : List PodItem := p.items.takeWhile PodItem.counted

/-- Items that come from another Pod or a queue are counted already. -/
def State.receive (s : State) (die core grid : Nat) (items : List Line) : State :=
  s.modPod die core grid fun p => { p with items := p.items ++ items.map fun it => ⟨it, s.now, some 0⟩ }

/-! ### OUTSTANDING (R434) -/

/-- The header page of a grid's overflow area as a unit of the die reaches it. -/
def State.overflowPage (s : State) (die gid : Nat) (g : Grid) (kind : Nat) : State × Reach :=
  s.unitReach die g.asid kind g.l.overflow.toNat (.pool gid)

/-- Send the increments of a Pod's items as one atomic add, once the page is reached. -/
def State.countIn (s : State) (p : Pod) : State :=
  match s.grid? p.grid with
  | none => s
  | some g =>
    let n := (p.items.filter fun it => it.tag.isNone).length
    if n = 0 || g.ending.isSome then s
    else match s.overflowPage p.die p.grid g kAtomic with
      | (s, .wait) => s
      | (s, .declined) => s.endGrid p.grid 17
      | (s, .at page) =>
        let tag := s.nextId
        (s.unitAdd (.dispatcher p.die) (.unit (.pool p.grid)) page (n : Int)).modPod p.die p.core p.grid fun p =>
          { p with items := p.items.map fun it => if it.tag.isNone then { it with tag := some tag } else it }

/-- An add to OUTSTANDING has performed; one that the home refuses ends the grid. -/
def State.counted (s : State) (grid tag : Nat) (refused : Bool) : State :=
  if refused then s.endGrid grid 17
  else { s with pods := s.pods.map fun (p : Pod) =>
    if p.grid = grid then { p with items := p.items.map fun it => if it.tag = some tag then { it with tag := some 0 } else it } else p }

/-! ### The overflow queue (R427, R428) -/

/-- Words of the header page of a grid: OUTSTANDING, and the counts of a die group's queue. -/
def overflowHead (g : Nat) : Nat := 0x800 + 16 * g
def overflowTail (g : Nat) : Nat := 0x804 + 16 * g

/-- Where batch b of a group's queue lies. -/
def batchAddr (g : Grid) (group b : Nat) : Nat := g.l.overflow.toNat + 4096 * (1 + group * g.l.nbatch + b % g.l.nbatch)

/-- The queue's operation ends: a spill's batch is in the queue, and a refill's items go to the Pod or into the reply. -/
def State.overEnd (s : State) (die : Nat) (q : OverQ) (o : OverOp) : State :=
  let items := o.items.filter fun it => !itemVoid it
  if o.what = 1 then s.setOver { q with tail := (q.tail + 1) % 2 ^ 32, op := none }
  else
    let s := s.setOver { q with head := (q.head + 1) % 2 ^ 32, op := none }
    match o.ask with
    | some m => s.post { id := 0, ty := .stealReply, src := m.dst, dst := m.src, agent := m.agent, t1 := m.t1, t2 := m.t2, items := items }
    | none => { s.receive die o.core q.grid items with
                steals := s.steals.filter fun (t : Steal) => !(t.die = die && t.core = o.core && t.grid = q.grid && !t.waiting) }

/-- Carry the operation on a group's queue on: the batch is written with stores or read with single-use reads, and the queue's word
is stored once the batch has performed (R428). What is declined, refused or poisoned ends the grid with code 17 (R434, R458). -/
def State.overGo (s : State) (grid group : Nat) : State :=
  let q := s.overOf grid group
  match s.grid? grid, q.op with
  | some g, some o =>
    match (g.l.dies[group]?).bind id with
    | none => s
    | some die =>
      let port := Port.dispatcher die
      let spill : Bool := o.what = 1
      if o.left ≠ [] || g.ending.isSome || s.dieDown die then s
      else match o.step with
        | 0 =>
          (match s.unitReach die g.asid (if spill then kStore else kLoad) (batchAddr g group (if spill then q.tail else q.head)) (.pool grid) with
          | (s, .wait) => s
          | (s, .declined) => s.endGrid grid 17
          | (s, .at pa) =>
            let slots := o.items ++ List.replicate (32 - o.items.length) voidItem
            let tags := (List.range 32).map (s.nextId + ·)
            let s := if spill then (slots.zipIdx).foldl (fun s p => s.unitStore port (.over grid group) (pa + 128 * p.2) 128 p.1.toNat) s
              else (List.range 32).foldl (fun s i => s.unitSend port (.over grid group) { id := 0, ty := .readReq, once := true, src := 0, dst := 0, addr := pa + 128 * i }) s
            s.setOver { q with op := some { o with step := 1, left := tags } })
        | 1 =>
          if o.got.any fun p => p.refused || p.poison ≠ 0 then s.endGrid grid 17
          else (match s.unitReach die g.asid kStore (g.l.overflow.toNat + (if spill then overflowTail group else overflowHead group)) (.pool grid) with
          | (s, .wait) => s
          | (s, .declined) => s.endGrid grid 17
          | (s, .at pa) =>
            let items := if spill then o.items else (o.got.foldl (fun (l : List Piece) p => (l.takeWhile (·.line < p.line)) ++ p :: l.dropWhile (·.line < p.line)) []).map (·.data)
            let s := s.setOver { q with op := some { o with step := 2, left := [s.nextId], items := items } }
            s.unitStore port (.over grid group) pa 4 (((if spill then q.tail else q.head) + 1) % 2 ^ 32))
        | _ => s.overEnd die q o
  | _, _ => s

/-- A store or a read of the queue's operation is answered. -/
def State.overGot (s : State) (grid group tag : Nat) (refused : Bool) (p : Option Piece) : State :=
  let q := s.overOf grid group
  match q.op with
  | none => s
  | some o =>
    if !o.left.contains tag then s
    else if refused then s.endGrid grid 17
    else
      let got := o.got ++ p.toList
      (s.setOver { q with op := some { o with left := o.left.filter (· ≠ tag), got := got } }).overGo grid group

/-- Start a spill of a core's 32 oldest items; only what OUTSTANDING counts leaves the Pod. -/
def State.startSpill (s : State) (p : Pod) (g : Grid) : State :=
  let group := g.groupOn p.die
  let q := s.overOf p.grid group
  let out := p.free.take 32
  if q.op.isSome || g.l.nbatch ≤ q.queued || out = [] || (out.length < 32 && out.length < p.items.length) then s
  else if s.podPoisoned p then s.endGrid p.grid 17
  else ((s.modPod p.die p.core p.grid fun p => { p with items := p.items.drop out.length }).setOver
    { q with op := some ⟨1, p.core, none, out.map (·.item), [], [], 0⟩ }).overGo p.grid group

/-- Start a refill from a group's queue, for a core's Pod or for a steal request. -/
def State.startRefill (s : State) (die core grid : Nat) (g : Grid) (ask : Option Msg) : State :=
  let group := g.groupOn die
  let q := s.overOf grid group
  (s.setOver { q with op := some ⟨if ask.isNone then 2 else 3, core, ask, [], [], [], 0⟩ }).overGo grid group

/-! ### Pushing (R437) -/

/-- How a push ends. -/
inductive Pushed where
  | done (s : State) (taken : Bool)
  | wait (s : State)

/-- An item in the Pod ends the core's round of searching: idle again, it starts with its partners (R432). -/
def State.restartSteal (s : State) (die core grid : Nat) : State :=
  { s with steals := s.steals.filter fun (t : Steal) => !(t.die = die && t.core = core && t.grid = grid && !t.waiting) }

/-- Push one item: a full Pod spills first where its queue has room, else the push is refused. -/
def State.push (s : State) (die core gid : Nat) (g : Grid) (it : Line) : Pushed :=
  match s.podOf die core gid with
  | none => .done s false
  | some p =>
    let q := s.overOf gid (g.groupOn die)
    let mine : Bool := q.op.any fun o => o.what = 1 && o.core = core
    if 0 < s.podRoom p then .done ((s.modPod die core gid fun p => { p with items := p.items ++ [⟨it, s.now, none⟩] }).restartSteal die core gid) true
    else if g.l.nbatch ≤ q.queued && !mine then .done s false
    else .wait (s.startSpill p g)

/-! ### SPLIT, SPAWN, POOLQ (R436 to R440) -/

/-- Push for the threads of a list in ascending order: each gives an item, or none where it pushes nothing. The flag says that
the last of them waits for a spill. -/
def State.pushAll (s : State) (die core gid : Nat) (g : Grid) : List (Nat × Option Line) → List (Nat × Bool) → State × List (Nat × Bool) × Bool
  | [], acc => (s, acc, false)
  | (l, none) :: rest, acc => s.pushAll die core gid g rest (acc ++ [(l, false)])
  | (l, some it) :: rest, acc =>
    match s.push die core gid g it with
    | .done s b => s.pushAll die core gid g rest (acc ++ [(l, b)])
    | .wait s => (s, acc, true)

/-- Threads that have pushed already, where the instruction waits for a spill. -/
def Wait.pushed : Wait → List (Nat × Bool)
  | .push l => l
  | _ => []

/-- Poison in a carry register of the thread (R458). -/
def carryBad (h : Header) (r : Regs) (lane : Nat) : Bool :=
  h.carryV.any (fun n => r.bad.contains ⟨.v, n, lane⟩) || h.carryF.any fun n => r.bad.contains ⟨.f, n, lane⟩

/-- SPLIT and SPAWN: `item` gives a thread's item, and `write` its destinations. During a spill the warp waits with what its
lower threads have pushed (R428). -/
def Cx.pushing (c : Cx) (len : Nat) (item : Grid → Nat → Option Line) (write : Nat → Bool → Regs → Regs) : Res :=
  if c.m = 0 then c.done len c.w.r
  else match c.s.grid? c.k.grid with
  | none => c.trapIn cIllegal 0 wholeWarp 0
  | some g =>
    if !g.pool || c.w.sprout.isSome then c.trapIn cIllegal 0 wholeWarp 0
    else if !(c.w.settled && !c.w.acquiring) then .next (c.s.hold' c.k)
    else
      let past := c.w.wait.pushed
      let todo := ((lanesOf c.m).filter fun l => !past.any (·.1 = l)).map fun l => (l, item g l)
      match todo.find? fun p => p.2.isSome && carryBad g.header c.w.r p.1 with
      | some p => c.trapIn cEcc 0 p.1 0
      | none =>
      let (s, bs, waits) := c.s.pushAll c.w.die c.w.core c.k.grid g todo past
      let s := match s.podOf c.w.die c.w.core c.k.grid with
        | some p => s.countIn p
        | none => s
      if (s.warp? c.k).isNone then .next s
      else if waits then .next (s.stall c.k (.push bs))
      else s.done c.k { c.w with wait := .none } ((bs.foldl (fun r b => write b.1 b.2 r) c.w.r).written c.m c.op c.x) len

/-- The label of a literal (R227). -/
def Cx.label (c : Cx) : DWord := c.w.r.pc + (loWord c.lit).signExtend 64 * 4

def split (op : Op) (x : Ext) (len : Nat) (s : State) : Res :=
  frame op x s fun c =>
    let hi : Bool := c.x.m 0 1 = 1
    let xreg : Nat := match c.x.d with
      | .reg n => n.toNat
      | _ => 0
    let out (v : Iv) : Raw := (v.flush .fp32 c.x.fzo).write .fp32
    c.pushing len
      (fun g l =>
        let give := Iv.bisect .fp32 (!hi) (c.iv l c.x.a)
        if give.2 then some (itemOf g c.k.grid c.w.r l c.label 1 xreg (out give.1)) else none)
      (fun l pushed r =>
        let x := c.iv l c.x.a
        let v := if pushed then out (Iv.bisect .fp32 hi x).1 else x.write .fp32
        putE l c.x.e (Tri.ofBool pushed) (putF l c.x.d v r))

def spawn (op : Op) (x : Ext) (len : Nat) (s : State) : Res :=
  frame op x s fun c =>
    c.pushing len (fun g l => some (itemOf g c.k.grid c.w.r l c.label 0 0 ⟨0, 0, 0⟩)) fun l pushed r => putE l c.x.e (Tri.ofBool pushed) r

/-- The value of a POOLQ code; `queued` is QTAIL − QHEAD. -/
def State.poolValue (s : State) (die core gid : Nat) (g : Grid) (queued code : Nat) : Word :=
  let pod := s.podOf die core gid
  if !g.pool then (if code ≤ 3 then 0 else BitVec.allOnes 32)
  else match code with
    | 0 => BitVec.ofNat 32 ((pod.map (·.items.length)).getD 0)
    | 1 => BitVec.ofNat 32 ((pod.map (·.slots)).getD 0)
    | 2 => BitVec.ofNat 32 queued
    | 3 => BitVec.ofNat 32 g.l.nbatch
    | _ => BitVec.allOnes 32

def poolq (op : Op) (x : Ext) (len : Nat) (s : State) : Res :=
  frame op x s fun c =>
    match c.s.grid? c.k.grid with
    | none => .next c.s
    | some g =>
      let out (s : State) (queued : Nat) : Res :=
        s.done c.k c.w ((c.putVS 1 (fun l => (s.poolValue c.w.die c.w.core c.k.grid g queued (c.i32 l c.x.a).toNat).zeroExtend 64) c.w.r).written c.m op x) len
      if c.w.sprout.isSome && c.m ≠ 0 then c.trapIn cIllegal 0 wholeWarp 0
      else out c.s (c.s.overOf c.k.grid (((c.s.team? c.k.teamKey).map (·.group)).getD 0)).queued

/-- Cuts an interval and pushes one half as a work item (R438). -/
def execSplit (x : Ext) (s : State) : Res :=
  split .split x (extLen x) s

/-- Pushes a work item that starts at the label (R439). -/
def execSpawn (x : Ext) (s : State) : Res :=
  spawn .spawn x (extLen x) s

/-- Reads a pool value (R440). -/
def execPoolq (a d : BitVec 7) (s : State) : Res :=
  poolq .poolq (Ext.base .poolq false 0 a d) 4 s

/-- Extended-form POOLQ (R440). -/
def execPoolqX (x : Ext) (s : State) : Res :=
  poolq .poolq x (extLen x) s

end Sys2Proof.Machine
end

