-- ==== Sys2Proof/Machine/Sheller.lean ====
section
/-! DEFINITION. The Sheller, steals, and the end of a Pod and of a pool grid (R429 to R435). -/

namespace Sys2Proof.Machine

/-! ### The Sheller (R430, R431) -/

/-- The team is being pre-empted: a PREEMPT is pending, taken or done in a warp of it. -/
def State.leaving (s : State) (t : TeamKey) : Bool :=
  s.warps.any fun p => p.1.teamKey = t &&
    (p.2.parked || p.2.pending.preempt || p.2.trapping.any (·.cause = 14) || (p.2.r.tmode && p.2.r.fcause.toNat % 256 = 14))

/-- A warp whose slot is free: it has ended, nothing of it is on its way, and no sprouts run in its storage. -/
def State.slotFree (s : State) (p : WarpKey × Warp) : Bool :=
  p.2.r.live = 0 && p.2.sprout.isNone && p.2.quiet && p.2.trapping.isNone && p.2.release = 0 && p.2.r.recr.state = 0 &&
    !(s.warps.any fun q => q.2.r.live ≠ 0 && q.2.sprout.any fun (h : Sprout) => h.host = some p.1) &&
    ((s.team? p.1.teamKey).any fun (t : Team) => t.resident && t.args.isSome) && !s.leaving p.1.teamKey

/-- The order of warps in teams. -/
def WarpKey.before (a b : WarpKey) : Bool := a.team < b.team || (a.team = b.team && a.warp < b.warp)

/-- The first free warp slot of a grid's teams on a core. -/
def State.freeWarp (s : State) (die core grid : Nat) : Option (WarpKey × Warp) :=
  (s.warps.filter fun p => p.1.grid = grid && p.2.die = die && p.2.core = core && s.slotFree p).foldl (fun b p => match b with
    | none => some p
    | some (o : WarpKey × Warp) => if p.1.before o.1 then some p else some o) none

/-- Warps of a core in its active set (R392). -/
def State.activeCount (s : State) (die core : Nat) : Nat :=
  (s.warps.filter fun p => p.2.die = die && p.2.core = core && p.2.active).length

/-- A free warp slot starts a warp on items of one PCOFF. -/
def State.startItems (s : State) (k : WarpKey) (o : Warp) (g : Grid) (items : List Line) : State :=
  let live := maskOf (List.range items.length)
  let args := ((s.team? k.teamKey).bind (·.args)).getD 0
  let r := (Regs.start (g.entry + (BitVec.ofNat 32 ((items.head?.map itemPcoff).getD 0)).signExtend 64) live).setArgs g.header args
  let r := ((items.zipIdx).foldl (fun r p => r.takeItem g.header p.2 p.1) r).retag g.header
  let w := Warp.start r g.header.width o.die o.core o.slot s.nextId (s.activeCount o.die o.core < 8)
  { s with nextId := s.nextId + 1 }.setWarp k { w with gwct := o.gwct, gwctC := o.gwctC, sheller := true, lastIssue := s.now }

/-- Items of one PCOFF. -/
def sameStart (items : List PodItem) (pc : Nat) : List PodItem := items.filter fun p => itemPcoff p.item = pc

/-- The oldest item whose PCOFF a warp can be started for: `full` w items of it are there, else it has waited 256
cycles. -/
def State.ripe (s : State) (p : Pod) (width : Nat) (full : Bool) : Option Nat :=
  (p.items.find? fun it =>
    let n := (sameStart p.items (itemPcoff it.item)).length
    if full then width ≤ n else n < width && it.at' + s.cyclesNs p.die 256 ≤ s.now).map fun it => itemPcoff it.item

/-- The Sheller of a core starts a warp, whole or partial. -/
def State.shell (s : State) (die core grid : Nat) (full : Bool) : State :=
  match s.grid? grid, s.podOf die core grid, s.freeWarp die core grid with
  | some g, some p, some (k, o) =>
    if !g.pool || g.ending.isSome then s
    else match s.ripe p g.header.width full with
      | none => s
      | some pc =>
        if s.podPoisoned p then s.endGrid grid 17
        else
          let took := (sameStart p.items pc).take g.header.width
          if !took.all PodItem.counted then s
          else (s.modPod die core grid fun p => { p with items := p.items.filter fun it => !took.contains it }).startItems k o g (took.map (·.item))
  | _, _, _ => s

/-! ### A Pod whose teams have left (R429) -/

/-- A team of the grid is resident on the core. -/
def State.gridOn (s : State) (die core grid : Nat) : Bool :=
  s.teams.any fun p => p.1.grid = grid && p.2.resident && p.2.die = die && p.2.core = core

/-- A Pod with no items, nothing to send, and no steal or queue operation under way is freed (R117, R434). -/
def State.freePods (s : State) : State :=
  { s with pods := s.pods.filter fun (p : Pod) =>
      s.opSlots p ≠ 0 || s.gridOn p.die p.core p.grid || p.items ≠ [] || p.owed ≠ 0 || s.steals.any fun t => t.die = p.die && t.core = p.core && t.grid = p.grid && t.waiting }

/-- Pods whose teams have left spill, for as long as the queue has room, and are freed. -/
def State.sweepPods (s : State) : State :=
  ((s.pods.filter fun p => !s.gridOn p.die p.core p.grid && p.items ≠ []).foldl (fun s p =>
    match s.grid? p.grid with
    | none => s
    | some g => if g.l.nbatch = 0 then s else s.startSpill p g) s).freePods

/-- The pool state of a grid goes on: increments are sent, and queue operations are carried on (R434). -/
def State.poolGo (s : State) (grid : Nat) : State :=
  let s := (s.pods.filter (·.grid = grid)).foldl (fun s p => s.countIn p) s
  ((s.overs.filter (·.grid = grid)).foldl (fun s q => s.overGo grid q.group) s).sweepPods

/-! ### Steals (R12, R432, R433) -/

/-- Compute dies in service: they have joined, and are neither retired nor failed (R27, R490). -/
def Panel.inService (p : Panel) (die : Nat) : Bool := p.joined.contains die && !p.retired.contains die && !p.outUnits.contains die

/-- The die at a distance on the steal ring, counting dies in service only. -/
def Panel.ringAt (p : Panel) (die : Nat) (d : Int) : Option Nat :=
  let l := (List.range 128).filter fun n => n = die || p.inService n
  match l.findIdx? (· = die) with
  | some i => l[(((i : Int) + d) % (l.length : Int)).toNat]?
  | none => none

/-- Ring step i: +1, −1, +2, −2 and so on. -/
def ringStep (i : Nat) : Int := if i % 2 = 0 then ((i / 2 + 1 : Nat) : Int) else -((i / 2 + 1 : Nat) : Int)

def State.setSteal (s : State) (t : Steal) : State :=
  { s with
    panel := { s.panel with idleSince := s.panel.idleSince.put 0 t.die 0 }
    steals := (s.steals.filter fun (o : Steal) => !(o.die = t.die && o.core = t.core && o.grid = t.grid)) ++ [t] }

def State.dropSteal (s : State) (die core grid : Nat) : State :=
  { s with steals := s.steals.filter fun (o : Steal) => !(o.die = die && o.core = core && o.grid = grid) }

/-- The next ring steps from i: ask the first die that holds a group of the grid. -/
def State.stealRing (s : State) (die core grid : Nat) (g : Grid) (p : Pod) (i : Nat) : State :=
  let target (j : Nat) : Option Nat := (s.panel.ringAt die (ringStep j)).filter fun d => d ≠ die && g.l.dies.contains (some d)
  match (List.range 16).find? fun j => i ≤ j && (target j).isSome with
  | none => s.setSteal ⟨die, core, grid, 0, false, 0, s.now + 10000⟩
  | some j =>
    let asked := min 64 (s.podRoom p)
    (((s.setSteal ⟨die, core, grid, j, true, asked, 0⟩).countDie die 3 1).post
      { id := 0, ty := .stealReq, src := die, dst := (target j).getD 0, agent := agentId 5 die 0, t1 := grid, t2 := core, op := asked })

/-- The start of a round: a cluster partner, then the group's queue, then the ring. -/
def State.stealRound (s : State) (die core grid : Nat) (g : Grid) (p : Pod) : State :=
  let partner := ((List.range 4).map (core / 4 * 4 + ·)).findSome? fun c =>
    if c = core then none else (s.podOf die c grid).filter fun q => q.items ≠ []
  match partner with
  | some q =>
    if s.podPoisoned q then s.endGrid grid 17
    else
      let took := q.free.take (min ((q.items.length + 1) / 2) (s.podRoom p))
      if took = [] then s
      else ((s.modPod die q.core grid fun r => { r with items := r.items.drop took.length }).receive die core grid (took.map (·.item))).dropSteal die core grid
  | none =>
    let q := s.overOf grid (g.groupOn die)
    if q.queued = 0 then s.stealRing die core grid g p 0
    else if q.op.isSome || s.podRoom p < 32 then s
    else s.startRefill die core grid g none

/-- A core that is idle for a grid looks for items. -/
def State.stealSearch (s : State) (die core grid : Nat) : State :=
  match s.grid? grid, s.podOf die core grid, s.freeWarp die core grid with
  | some g, some p, some _ =>
    if !g.pool || g.ending.isSome || p.items ≠ [] || s.opSlots p ≠ 0 then s
    else match s.steals.find? fun t => t.die = die && t.core = core && t.grid = grid with
      | none => s.stealRound die core grid g p
      | some t =>
        if t.waiting || s.now < t.till then s
        else if t.till ≠ 0 then (s.dropSteal die core grid).stealRound die core grid g p
        else s.stealRing die core grid g p t.ring
  | _, _, _ => s

/-- The fullest Pod of a grid on a die. -/
def State.fullestPod (s : State) (die grid : Nat) : Option Pod :=
  (s.pods.filter fun p => p.die = die && p.grid = grid).foldl (fun (b : Option Pod) p => match b with
    | none => some p
    | some o => if o.items.length < p.items.length then some p else some o) none

/-- The answer to a steal request: a batch of the grid's queue on the die, else half of the grid's fullest Pod; a gated die's
Stalk answers that it holds none (R30). A request that finds the queue at work waits for it. -/
def State.stealAnswer (s : State) (m : Msg) : State :=
  let send (s : State) (items : List Line) : State :=
    s.post { id := 0, ty := .stealReply, src := m.dst, dst := m.src, agent := m.agent, t1 := m.t1, t2 := m.t2, items := items }
  match s.grid? m.t1 with
  | none => send s []
  | some g =>
    let q := s.overOf m.t1 (g.groupOn m.dst)
    if 2 ≤ s.panel.gating.get 0 m.dst || g.ending.isSome then send s []
    else if q.queued ≠ 0 then (if q.op.isSome then { s with net := s.net ++ [m] } else s.startRefill m.dst 0 m.t1 g (some m))
    else match s.fullestPod m.dst m.t1 with
      | none => send s []
      | some p =>
        if s.podPoisoned p then send (s.endGrid m.t1 17) []
        else
          let took := p.free.take (min m.op (p.items.length / 2))
          (send (s.modPod m.dst p.core m.t1 fun r => { r with items := r.items.drop took.length }) (took.map (·.item))).freePods

/-- The items of a reply go into the thief's Pod; after an empty reply it asks on, unless items have come
meanwhile. -/
def State.stealTake (s : State) (m : Msg) : State :=
  match s.steals.find? fun t => t.die = m.dst && t.core = m.t2 && t.grid = m.t1 with
  | none => s
  | some t =>
    if m.items = [] && (s.podOf m.dst m.t2 m.t1).any (·.items ≠ []) then s.dropSteal m.dst m.t2 m.t1
    else if m.items = [] then s.setSteal { t with waiting := false, asked := 0, ring := t.ring + 1 }
    else ((s.countDie m.dst 4 m.items.length).receive m.dst m.t2 m.t1 m.items).dropSteal m.dst m.t2 m.t1

/-! ### Counting items out, and termination (R434, R435) -/

/-- A core's deferred decrements leave as one atomic add. -/
def State.sendOwed (s : State) (die core grid : Nat) : State :=
  match s.grid? grid, s.podOf die core grid with
  | some g, some p =>
    if p.owed = 0 then s
    else match s.overflowPage die grid g kAtomic with
      | (s, .wait) => s
      | (s, .declined) => s.endGrid grid 17
      | (s, .at page) =>
        ((s.unitAdd (.dispatcher die) (.unit (.pool grid)) page (-(p.owed : Int))).modPod die core grid fun r => { r with owed := 0 }).sweepPods
  | _, _ => s

/-- Every team of a grid has been placed at least once. -/
def Grid.allPlaced (g : Grid) : Bool := (List.range g.ndie).all fun n => (g.l.next[n]?).any (g.groupStart (n + 1) ≤ ·)

/-- A pool grid ends when nothing of it is left to run, and OUTSTANDING, as it has performed at its home, is 0 (R435). -/
def State.poolEnd (s : State) (grid : Nat) : State :=
  match s.grid? grid with
  | none => s
  | some g =>
    if !g.pool || g.ending.isSome || !g.allPlaced then s
    else if (s.pods.any fun p => p.grid = grid && (p.owed ≠ 0 || p.items.any (!·.counted))) || (s.steals.any fun t => t.grid = grid && t.waiting) ||
        (s.net.any fun m => (m.ty = .stealReq || m.ty = .stealReply) && m.t1 = grid) ||
        (s.warps.any fun p => p.1.grid = grid && (p.2.r.live ≠ 0 || p.2.parked)) then s
    else
      let die := ((g.l.dies.head?).bind id).getD 0
      match s.overflowPage die grid g kLoad with
      | (s, .wait) => s
      | (s, .declined) => s.endGrid grid 17
      | (s, .at page) =>
        if s.poisoned page 128 then s.endGrid grid 17
        else if readBytes s.mem page 8 ≠ 0 then s
        else { s with grids := s.grids.modify grid fun x => { x with ending := some 0 } }

end Sys2Proof.Machine
end

