-- ==== Sys2Proof/Machine/Place.lean ====
section
/-! DEFINITION. What the end of a warp's threads brings: items counted out, recruitments released, barriers passed,
copies started, and teams that leave their cores (R141, R145, R379, R422, R434, R452, R465). -/

namespace Sys2Proof.Machine

/-- The wait is over, or the warp looks at it again when it executes. -/
def Wait.ready : Wait → Bool
  | .none | .waitmGot _ _ _ _ _ | .waitmAgain _ | .inval 0 | .rgnclr [] _ | .hjoin _ | .push _ => true
  | _ => false

/-- Threads exit: those that ran items are counted out later (R434), and a recruiter's recruitment ends (R452). -/
def State.threadsExit (s : State) (k : WarpKey) (w : Warp) (m : Mask) : State :=
  let n := ((lanesOf m).filter fun l => (w.r.item.get 0 l).getLsbD 31).length
  let s := s.recruiterExit k m
  { s with pods := s.pods.map fun (p : Pod) => if p.die = w.die && p.core = w.core && p.grid = k.grid then { p with owed := p.owed + n } else p }

/-! ### Power class and idleness of a die (R29, R422) -/

/-- Teams of a grid that are resident on a die. -/
def State.teamsOn (s : State) (die grid : Nat) : Nat := (s.teams.filter fun p => p.1.grid = grid && p.2.resident && p.2.die = die).length

/-- The power class that a die's teams give it: that of the launch with most of them, matrix-bound at a tie. -/
def State.dieClass (s : State) (die : Nat) : Nat :=
  let ns := s.grids.map fun g => (s.teamsOn die g.1, g.2.l.power)
  let most := ns.foldl (fun n p => max n p.1) 0
  if most ≠ 0 && (ns.filter (·.1 = most)).length = 1 && ns.any (fun p => p.1 = most && p.2) then 1 else 0

/-- The clock of a power class, in MHz. A memory-bound die runs at the most that the rule allows it (R3, R422; DESIGN CHOICE,
log 77). -/
def classClock (c : Nat) : Nat := if c = 1 then 1400 else 1700

/-- The class is found again; in full service a change of clock starts. -/
def State.reclass (s : State) (die : Nat) : State :=
  let c := s.dieClass die
  if s.panel.power.get 0 die = c then s
  else { s with panel := { s.panel with
      power := s.panel.power.put 0 die c
      clockTo := if s.panel.reduced then s.panel.clockTo else s.panel.clockTo.put 0 die (classClock c)
      clockAt := if s.panel.reduced then s.panel.clockAt else s.panel.clockAt.put 0 die (s.now + 1) } }

/-- The overflow queues of a grid that a die's dispatcher carries out are empty, and no operation on one is under way. -/
def State.overflowEmpty (s : State) (die gid : Nat) (g : Grid) : Bool :=
  (List.range g.l.dies.length).all fun n => g.l.dies[n]? ≠ some (some die) || let q := s.overOf gid n; q.queued = 0 && q.op.isNone

/-- The condition of R29 for gating a die. -/
def State.dieIdle (s : State) (die : Nat) : Bool :=
  (s.grids.all fun p => !p.2.pool || s.overflowEmpty die p.1 p.2) &&
  !(s.teams.any fun p => p.2.resident && p.2.die = die) && !(s.pods.any fun p => p.die = die && p.items ≠ []) &&
    !(s.copies.any (·.die = die)) && !(s.holds.any fun h => h.unit = die && agentKind h.agent = 1) &&
    !(s.mats.any (·.die = die)) && !(s.steals.any fun t => t.die = die && t.waiting) && !(s.reqs.any (·.die = die))

/-- The count of a die's idle time starts anew. -/
def State.noteIdle (s : State) (die : Nat) : State := { s with panel := { s.panel with idleSince := s.panel.idleSince.put 0 die 0 } }

/-! ### Changes of link width and of clock (R19, R489) -/

/-- Links are numbered by the site at their north or west end, p = 16·y + x: 2·p to the site in the east, 2·p + 1 to the
site in the south, and 512 + 2·b + i from bridge b to its edge sites (log 43). -/
def linkOk (n : Nat) : Bool := n < 528 && (512 ≤ n || if n % 2 = 0 then n / 2 % 16 < 15 else n < 480)

/-- Links of a die. -/
def dieLinks (die : Nat) : List Nat :=
  let p := (dieAt die).2 * 16 + (dieAt die).1
  [2 * p, 2 * p + 1] ++ (if (dieAt die).1 = 0 then [] else [2 * p - 2]) ++ (if (dieAt die).2 = 0 then [] else [2 * p - 31])

/-- A clock change waits for the width changes of the die's links that started no later. -/
def State.clockWaits (s : State) (die : Nat) : Bool :=
  (dieLinks die).any fun n => s.panel.widthAt.get 0 n ≠ 0 && s.panel.widthAt.get 0 n ≤ s.panel.clockAt.get 0 die

/-- The die's clock is being changed: it issues nothing. -/
def State.clockMoves (s : State) (die : Nat) : Bool := s.panel.clockTo.get 0 die ≠ 0 && !s.clockWaits die

/-- A width change waits for the clock changes of dies at its ends that started earlier. -/
def State.widthWaits (s : State) (link : Nat) : Bool :=
  (List.range 128).any fun d => (dieLinks d).contains link && s.panel.clockTo.get 0 d ≠ 0 && s.panel.clockAt.get 0 d < s.panel.widthAt.get 0 link

/-! ### Copies that no warp can arrive at any more (R145) -/

/-- A waiting copy whose last members have exited is started, or, where the start fails, dropped. -/
def State.startExited (s : State) (t : TeamKey) : State :=
  match s.grid? t.grid with
  | none => s
  | some g =>
    (s.copies.filter fun c => c.team = t && c.order = 0).foldl (fun s c =>
      let drop : State := { s with copies := s.copies.filter fun (o : Copy) => o.id ≠ c.id }
      if c.refused then (if (s.copyMembers c).all fun p => p.2.r.live = 0 || c.seq < p.2.r.copySeq then drop else s)
      else if !s.allArrived c then s
      else match c.arrivals.getLast? with
        | none => drop
        | some a => match s.startCopy c g.header a.off a.mode with
          | .wait => s
          | .trap _ _ => drop
          | .go s => s) s

/-! ### Unmapping (R141) -/

/-- A line's store of a leaving team is out. -/
def State.unmapping (s : State) (t : TeamKey) (slot : Nat) : Bool := s.reqs.any fun q => q.users.contains (.unmap t slot)

/-- Send the dirty lines of a map that can be sent; a declined line is not written, and the grid ends with code 17. -/
def State.unmapLines (s : State) (t : TeamKey) (tm : Team) (m : SMap) : State :=
  (s.dirtyLines tm m m.soff m.slen).foldl (fun s p =>
    match s.unitReach tm.die m.asid kStore p.2 (.flush t m.slot p.2) with
    | (s, .at pa) => if s.roomFor tm.die tm.core 1 then s.flushLine tm.die tm.core p.1 pa (.unmap t m.slot) else s
    | (s, .wait) => s
    | (s, .declined) => ((wordsOf p.1).foldl (fun s w => s.setWord w (s.wordBits w &&& ~~~bDirty)) s).endGrid t.grid 17) s

/-- Unmap each map of a team; what is still on its way is looked at again later. -/
def State.unmapAll (s : State) (t : TeamKey) : State :=
  match s.team? t with
  | none => s
  | some tm => tm.maps.foldl (fun s m =>
      let s := s.modTeam t fun tm => { tm with maps := tm.maps.map fun o => if o.slot = m.slot then { o with removing := true } else o }
      let s := s.unmapLines t tm m
      if s.unmapping t m.slot || s.dirtyLines tm m m.soff m.slen ≠ [] then s else s.removeMap t m.slot) s

/-! ### Leaving a core (R145, R421, R465) -/

/-- Warps that a team's launch or the Sheller started. -/
def State.ownWarps (s : State) (t : TeamKey) : List (WarpKey × Warp) := s.warps.filter fun p => p.1.teamKey = t && p.1.ctx = 0

/-- A copy of the team that has started is in flight. -/
def State.copying (s : State) (t : TeamKey) : Bool := s.copies.any fun c => c.team = t && c.order ≠ 0

/-- The cluster whose engine holds a pending copy of the team. -/
def State.pendingCluster (s : State) (t : TeamKey) : Option Nat := (s.copies.find? fun c => c.team = t && c.order = 0).map (·.cluster)

/-- Every warp has exited, and nothing of them is on its way. -/
def State.teamOver (s : State) (t : TeamKey) : Bool :=
  (s.ownWarps t).all fun p => p.2.r.live = 0 && !p.2.parked && p.2.quiet && p.2.trapping.isNone && p.2.release = 0 && p.2.r.recr.state = 0

/-- Every warp has parked or exited, one at least having parked. -/
def State.teamParked (s : State) (t : TeamKey) : Bool :=
  (s.ownWarps t).any (·.2.parked) && (s.ownWarps t).all fun p => p.2.quiet && (p.2.parked || p.2.r.live = 0)

/-- A team of an ended pool grid, or of a grid without a pool, whose warps have exited leaves its core. -/
def State.leaveTeam (s : State) (t : TeamKey) (tm : Team) : State :=
  let s := s.dropWarps fun k _ => k.teamKey = t
  ({ s with teams := s.teams.erase t, copies := s.copies.filter fun (c : Copy) => c.team ≠ t }.sweepPods.reclass tm.die).noteIdle tm.die

/-- A parked team frees its areas and joins its die's resume list. -/
def State.parkTeam (s : State) (t : TeamKey) (tm : Team) : State :=
  let home := s.pendingCluster t
  ((s.modTeam t fun tm => { tm with resident := false, slots := [], outAt := s.now, home := home }).sweepPods.reclass tm.die).noteIdle tm.die

/-- A copy whose members have exited starts, as soon as the vault writes before the arrivals have reached their vaults (R143), and
the team leaves or parks if it can. -/
def State.tryLeave (s : State) (t : TeamKey) : State :=
  match s.team? t, s.grid? t.grid with
  | some tm, some g =>
    let down : Bool := s.dieDown tm.die
    let s := if tm.resident && !down then s.startExited t else s
    let ended : Bool := s.teamOver t && (!g.pool || g.ending.isSome)
    let park : Bool := s.teamParked t && g.ending.isNone
    if !tm.resident || down then (if g.ending.isSome then s.leaveTeam t tm else s)
    else if !(ended || park) then s
    else
      let s := s.unmapAll t
      match s.team? t with
      | none => s
      | some tm =>
        if tm.maps ≠ [] || s.copying t then s
        else if ended then (if (s.pendingCluster t).isSome then s else s.leaveTeam t tm)
        else s.parkTeam t tm
  | _, _ => s

/-- Every team that can leave or park does. -/
def State.leaveAll (s : State) : State := (s.teams.map (·.1)).foldl (fun s t => s.tryLeave t) s

/-- A warp has ended. -/
def State.warpEnded (s : State) (k : WarpKey) : State :=
  if k.ctx ≠ 0 then s else ((s.barAll k).startExited k.teamKey).tryLeave k.teamKey

end Sys2Proof.Machine
end

