-- ==== Sys2Proof/Machine/Stream.lean ====
section
/-! DEFINITION. The stream unit and the stream instructions, opcodes 0xd0 to 0xd9 (R319 to R335). -/

namespace Sys2Proof.Machine

/-! ### What an evaluation may meet -/

/-- Why an instruction cannot be carried out with what has been read: bytes still to be read, malformed data (R333),
or a failed access. `who` is the X register whose array it is, 8 for a descriptor or a value. -/
inductive SErr where
  | need (who sp addr size : Nat)
  | mal (code addr : Nat)
  | trap (cause detail addr : Nat)
deriving DecidableEq, Repr

abbrev SM (α : Type) : Type := Except SErr α

/-- Reads: X register, space, address, size. -/
abbrev Rd : Type := Nat → Nat → Nat → Nat → SM Nat

def Warp.streamPipe (w : Warp) (k : WarpKey) (who : Nat) : Pipe := ⟨.stream k who, k, w, kStream, agentId 3 w.die w.core, w.core / 4⟩

def State.streamRd (s : State) (k : WarpKey) (w : Warp) : Rd := fun who sp addr size =>
  match s.pipeRead (w.streamPipe k who) sp addr size with
  | .val n => .ok n
  | .need => .error (.need who sp addr size)
  | .bad c d => .error (.trap c d addr)

/-- Address arithmetic of a space. -/
def spAddr (sp n : Nat) : Nat := n % 2 ^ (if sp = 0 then 64 else 32)

/-! ### Elements (R321, R328, R333) -/

/-- An element: coordinate, position, where its entry lies, and CUR past it. -/
structure Elem where
  c : Nat
  q : Nat
  loc : Nat
  nxt : Nat
deriving DecidableEq, Repr

abbrev noPos : Nat := 0xffffffff

/-- Meeting an element checks its coordinate. -/
def XReg.meet (x : XReg) (e : Elem) : SM (Option Elem) :=
  if x.lastc ≠ noPos && e.c ≤ x.lastc then .error (.mal 2 e.loc)
  else if (x.kind = 1 || x.kind = 3) && x.size ≤ e.c then .error (.mal 3 e.loc)
  else .ok (some e)

/-- Read a bitmap word, with the check of its last word (code 4). -/
def XReg.bitWord (x : XReg) (rd : Rd) (who i : Nat) : SM Nat := do
  let a := spAddr x.space (x.arr0 + 8 * i)
  let w ← rd who x.space a 8
  if i = (x.endx - 1) / 64 && x.endx % 64 ≠ 0 && w / 2 ^ (x.endx % 64) ≠ 0 then .error (.mal 4 a) else .ok w

/-- Lowest set bit at or above `from'` in a 64-bit word. -/
def lowBit (w from' : Nat) : Option Nat := (List.range 64).find? fun i => from' ≤ i && w.testBit i

def popBelow (w n : Nat) : Nat := ((List.range n).filter fun i => w.testBit i).length

/-- The first set bit at or beyond bit index `cur`, as word and bit. -/
def XReg.nextBit (x : XReg) (rd : Rd) (who : Nat) : Nat → Nat → SM (Option (Nat × Nat × Nat))
  | 0, _ => .ok none
  | fuel + 1, cur =>
    if x.endx ≤ cur then .ok none
    else do
      let w ← x.bitWord rd who (cur / 64)
      match lowBit w (cur % 64) with
      | some b => .ok (some (cur / 64, b, w))
      | none => x.nextBit rd who fuel ((cur / 64 + 1) * 64)

def XReg.words (x : XReg) : Nat := (x.endx - x.cur) / 64 + 2

/-- Bytes of a value (R321), and its format as LDF has it. -/
def vfmtBytes (f : Nat) : Nat := match f with | 1 => 4 | 2 => 8 | 3 | 4 => 2 | 8 => 4 | _ => 1
def vfmtLdf (f : Nat) : Nat := match f with | 1 => 1 | 2 => 0 | 3 => 2 | 4 => 3 | 5 => 5 | 6 => 4 | 7 => 6 | _ => 8

/-- Where the value at a position lies (R321). -/
def XReg.valueAt (x : XReg) (q : Nat) : Nat := spAddr x.space (if x.vfmt = 7 then x.values + q / 2 else x.values + q * vfmtBytes x.vfmt)

/-- The element of a dense level at coordinate `c`; it has no entry in an array, and its value's place stands for it (log 75). -/
def XReg.dense (x : XReg) (c : Nat) : Elem :=
  let q := (x.parent * x.size + c) % 2 ^ 32
  ⟨c, q, x.valueAt q, c + 1⟩

/-- The next unconsumed element, met. -/
def XReg.peek (x : XReg) (rd : Rd) (who : Nat) : SM (Option Elem) :=
  if x.endx ≤ x.cur then .ok none
  else match x.kind with
    | 0 => x.meet (x.dense x.cur)
    | 1 => do
      let a := spAddr x.space (x.arr1 + 4 * x.cur)
      let c ← rd who x.space a 4
      x.meet ⟨c, x.cur, a, x.cur + 1⟩
    | 2 => do
      match ← x.nextBit rd who x.words x.cur with
      | none => .ok none
      | some (i, b, w) => do
        let pre ← rd who x.space (spAddr x.space (x.arr1 + 4 * i)) 4
        x.meet ⟨i * 64 + b - x.beg, (pre + popBelow w b) % 2 ^ 32, spAddr x.space (x.arr0 + 8 * i), i * 64 + b + 1⟩
    | _ => do
      let a := spAddr x.space (x.arr0 + 4 * x.parent)
      let c ← rd who x.space a 4
      x.meet ⟨c, x.parent, a, x.cur + 1⟩

/-- An element is left, found without meeting it. -/
def XReg.left (x : XReg) (rd : Rd) (who : Nat) : SM Bool :=
  if x.endx ≤ x.cur then .ok false
  else if x.kind ≠ 2 then .ok true
  else (fun o => o.isSome) <$> x.nextBit rd who x.words x.cur

/-- Consume an element (R322). -/
def XReg.eat (x : XReg) (e : Elem) : XReg := { x with cur := e.nxt, lastc := e.c }

/-- The value at a position, as a stored pair. -/
def XReg.value (x : XReg) (rd : Rd) (e : Elem) : SM Raw :=
  let a := x.valueAt e.q
  if x.nnz ≤ e.q then .error (.mal 5 e.loc)
  else if 8 < x.vfmt then
    let v := (Config.streamValue x.vfmt e.q).toNat
    .ok ((Iv.load .fp32 (v % 2 ^ 32) (v / 2 ^ 32)).write .fp32)
  else do
    let v ← rd 8 x.space a (vfmtBytes x.vfmt)
    .ok (ldfRaw (vfmtLdf x.vfmt) (if x.vfmt = 7 then (if e.q % 2 = 1 then v / 16 else v % 16) else v))

/-! ### XNEXT and XNEXT2 (R328, R329) -/

/-- What a lane receives: words from Vd on, values from Fv on, and E. -/
structure Given where
  lane : Nat
  vs : List Nat
  fs : List Raw
  ok : Bool
deriving DecidableEq, Repr

def Raw.emptySet : Raw := Iv.empty.write .fp32
def Raw.zero : Raw := Iv.zero.write .fp32

/-- The elements of an OPEN stream for the lanes, ascending. -/
def nextElems (rd : Rd) (who : Nat) (val : Bool) : List Nat → XReg → List Given → SM (XReg × List Given)
  | [], x, acc => .ok (x, acc)
  | l :: rest, x, acc => do
    match ← x.peek rd who with
    | none => nextElems rd who val rest x.setEnd (acc ++ [⟨l, [noPos, noPos], if val then [Raw.emptySet] else [], false⟩])
    | some e => do
      let f ← if val then (fun v => [v]) <$> x.value rd e else .ok []
      nextElems rd who val rest { x.eat e with done := (x.done + 1) % 2 ^ 32 } (acc ++ [⟨l, [e.c, e.q], f, true⟩])

/-- The operands of a combined stream as the merge leaves them, and the element it found. -/
structure Merged where
  a : XReg
  b : XReg
  ea : Option Elem
  eb : Option Elem
deriving DecidableEq, Repr

/-- Merge until an element of the combination is found; neither element at the end. With `keep`, what is found stays
unconsumed. -/
def merge (rd : Rd) (na nb : Nat) (union keep : Bool) : Nat → XReg → XReg → SM Merged
  | 0, a, b => .ok ⟨a, b, none, none⟩
  | fuel + 1, a, b => do
    let la ← if union then .ok true else a.left rd na
    let lb ← if union || !la then .ok true else b.left rd nb
    if !(la && lb) then .ok ⟨a, b, none, none⟩
    else do
      let ea ← a.peek rd na
      let eb ← b.peek rd nb
      let onlyA (e : Elem) : SM Merged := if union then .ok ⟨if keep then a else a.eat e, b, some e, none⟩ else merge rd na nb union keep fuel (a.eat e) b
      let onlyB (e : Elem) : SM Merged := if union then .ok ⟨a, if keep then b else b.eat e, none, some e⟩ else merge rd na nb union keep fuel a (b.eat e)
      match ea, eb with
      | none, none => .ok ⟨a, b, none, none⟩
      | some e, none => onlyA e
      | none, some e => onlyB e
      | some e, some f =>
        if e.c < f.c then onlyA e
        else if f.c < e.c then onlyB f
        else .ok ⟨if keep then a else a.eat e, if keep then b else b.eat f, some e, some f⟩

def mergeFuel (a b : XReg) : Nat := (a.endx - a.cur) + (b.endx - b.cur) + 1

/-- The elements of a combined stream for the lanes. -/
def nextPairs (rd : Rd) (na nb : Nat) (val : Bool) : List Nat → XReg → XReg → XReg → List Given → SM (XReg × XReg × XReg × List Given)
  | [], x, a, b, acc => .ok (x, a, b, acc)
  | l :: rest, x, a, b, acc => do
    let m ← merge rd na nb (x.st = 3) false (mergeFuel a b) a b
    let one (y : XReg) (e : Option Elem) : SM Raw := match e with
      | some e => y.value rd e
      | none => .ok Raw.zero
    match m.ea <|> m.eb with
    | none => nextPairs rd na nb val rest x.setEnd m.a m.b (acc ++ [⟨l, [noPos, noPos, noPos], if val then [Raw.emptySet, Raw.emptySet] else [], false⟩])
    | some e => do
      let fs ← if val then (one a m.ea >>= fun u => (fun v => [u, v]) <$> one b m.eb) else .ok []
      let pos (e : Option Elem) : Nat := (e.map (·.q)).getD noPos
      nextPairs rd na nb val rest { x with lastc := e.c, done := (x.done + 1) % 2 ^ 32 } m.a m.b (acc ++ [⟨l, [e.c, pos m.ea, pos m.eb], fs, true⟩])

/-- Write what the lanes receive. -/
def putGiven (x : Ext) (gs : List Given) (r : Regs) : Regs :=
  gs.foldl (fun r g =>
    let r := match x.d with
      | .reg n => g.vs.zipIdx.foldl (fun r p => r.setV (n.toNat + p.2) g.lane (BitVec.ofNat 32 p.1)) r
      | _ => r
    let r := g.fs.zipIdx.foldl (fun r p => r.setF (x.imm.toNat + p.2) g.lane (FReg.ofRaw p.1)) r
    putE g.lane x.e (Tri.ofBool g.ok) r) r

/-- Evaluate an outstanding XNEXT or XNEXT2 on the registers as they stand: what it does to them. -/
def streamRun (rd : Rd) (o : Out) (r : Regs) : SM (Regs → Regs) :=
  let n := xNum o.x.a
  let val : Bool := o.x.m 0 1 = 1
  let x := r.getX n
  if x.comb then do
    let (x, a, b, gs) ← nextPairs rd x.opa x.opb val (lanesOf o.mask) x (r.getX x.opa) (r.getX x.opb) []
    .ok fun r => putGiven o.x gs (((r.setX n x.bits).setX x.opa a.bits).setX x.opb b.bits)
  else do
    let (x, gs) ← nextElems rd n val (lanesOf o.mask) x []
    .ok fun r => putGiven o.x gs (r.setX n x.bits)

/-! ### Outstanding stream instructions -/

def Warp.streaming (w : Warp) : Bool := w.outs.any fun o => o.kind = .stream && !o.finished

/-- A warp's stream reads are forgotten. -/
def State.dropStreams (s : State) (k : WarpKey) : State :=
  let mine (r : Reader) : Bool := match r with
    | .stream j _ => j = k
    | _ => false
  { s with looks := s.looks.filter fun (l : Look) => !mine l.reader, unitFills := s.unitFills.filter fun (f : UnitFill) => !mine f.reader }

/-- A stream instruction in PAGE-WAIT is abandoned with what follows it (R335): it executes again, and is what %lpc names. -/
def Warp.abandonStream (w : Warp) : Warp :=
  match w.outs.find? fun o => o.kind = .stream && !o.finished && o.slot ≠ 0 with
  | some o =>
    let r := o.back.getD w.r
    { w with outs := w.outs.filter (·.id < o.id), r := if w.halted && !w.r.tmode then { r with ipc := r.pc, imask := r.mask } else r
             trapping := w.trapping.map fun t => { t with lpc := r.pc } }
  | none => w

/-- A PREEMPT, WATCHDOG or debugger halt has reached the warp and waits for what is outstanding. -/
def Warp.abandons (w : Warp) : Bool := w.halted || (w.trapping.any fun t => t.cause = cPreempt || t.cause = cWatchdog)

/-- The oldest read of the warp, when it is a stream instruction, completes or asks for what it lacks. -/
def State.streamPump (s : State) (k : WarpKey) : Nat → State
  | 0 => s
  | fuel + 1 =>
    match s.warp? k with
    | none => s
    | some w =>
      match w.outs.find? fun o => o.reads && !o.finished with
      | none => s
      | some o =>
        if o.kind ≠ .stream then s
        else match streamRun (s.streamRd k w) o w.r with
          | .ok f =>
            let w := (w.fill o f).modOut o.id fun o => { o with finished := true, dests := [] }
            let wt := match w.wait with
              | .page fl _ _ => if o.slot = fl + 1 then Wait.none else w.wait
              | wt => wt
            (((s.setWarp k { w.prune with wait := wt }).dropLooks (.stream k 8)).commitAll k).streamPump k fuel
          | .error (.mal code a) => (s.dropStreams k).trapOut k o.id cMalformed code (xNum o.x.a) (lowest o.mask) (BitVec.ofNat 64 a)
          | .error (.trap c d a) => (s.dropStreams k).trapOut k o.id c d 0 (lowest o.mask) (BitVec.ofNat 64 a)
          | .error (.need who sp a size) =>
            match s.pipeAsk (w.streamPipe k who) sp a size with
            | (s, .page fl) =>
              if w.abandons then (s.modWarp k fun w => (w.modOut o.id fun o => { o with slot := fl + 1 }).abandonStream).dropStreams k
              else
                let at' : LaneAcc := ⟨lowest o.mask, a, a, BitVec.ofNat 64 a, size, 0, 0, false, 0, false, false, fl⟩
                s.modWarp k fun w => { (w.modOut o.id fun o => { o with slot := fl + 1, lanes := [at'] }) with wait := if w.wait = .none || w.wait = .acks then .page fl (lowest o.mask) (BitVec.ofNat 64 a) else w.wait }
            | (s, .bad c d fl) => ((s.spent fl).dropStreams k).trapOut k o.id c d 0 (lowest o.mask) (BitVec.ofNat 64 a)
            | (s, _) => s

def State.streamGo (s : State) (k : WarpKey) : State :=
  match s.warp? k with
  | some w => if w.streaming then s.streamPump k (w.outs.length + 1) else s
  | none => s

/-- Every warp whose stream instructions wait. -/
def State.streamsGo (s : State) : State := (s.warps.map (·.1)).foldl (fun s k => s.streamGo k) s

/-! ### The frame of the stream instructions (R323 to R325) -/

/-- A stream instruction of a sprout is its fault. -/
def streamFrame (op : Op) (x : Ext) (len : Nat) (s : State) (body : Cx → Res) : Res :=
  frame op x s fun c =>
    if c.m = 0 then c.done len c.w.r
    else if c.w.sprout.isSome then c.trapIn cIllegal 0 wholeWarp 0
    else body c

def Cx.illegal (c : Cx) : Res := c.trapIn cIllegal 0 wholeWarp 0

/-- An instruction that acts once and in order waits for the stream instructions before it. -/
def streamOnce (op : Op) (x : Ext) (len : Nat) (s : State) (body : Cx → Res) : Res :=
  streamFrame op x len s fun c => if c.w.streaming then .next (c.s.hold' c.k) else body c

/-- Both operands of a combined stream hold MEMBER state. -/
def Regs.membersOk (r : Regs) (x : XReg) : Bool := (r.getX x.opa).st = 4 && (r.getX x.opb).st = 4

/-- XNEXT and XNEXT2 (R328, R329). -/
def xnext (two : Bool) (op : Op) (x : Ext) (len : Nat) (s : State) : Res :=
  streamFrame op x len s fun c =>
    let v := c.w.r.getX (xNum x.a)
    let valOk (y : XReg) : Bool := x.m 0 1 = 0 || (y.last && y.vfmt ≠ 0)
    let ok : Bool := if two then v.comb && c.w.r.membersOk v && valOk (c.w.r.getX v.opa) && valOk (c.w.r.getX v.opb) else v.st = 1 && valOk v
    if !ok then c.illegal
    else if !c.mayStart .kx true then .next (c.s.hold' c.k)
    else
      -- P15 is always full (R170)
      let ds := (lanesOf c.m).flatMap fun l => ((writesOf op x).filter (· ≠ (.p, 15))).map fun p => (⟨p.1, p.2, l⟩ : Dest)
      let o := c.newOut c.s .stream .kx [] ds false true
      .next ((c.s.addOut c.k o len .none).streamGo c.k)

/-- The end of an instruction that reads before it acts: it acts, waits for bytes, or traps with nothing performed. -/
def Cx.settle {α : Type} (c : Cx) (m : SM α) (act : α → Res) : Res :=
  match m with
  | .ok a => act a
  | .error (.mal code a) => (c.s.dropStreams c.k).precise c.k c.w cMalformed code (if c.op = .xopen then xNum c.x.d else xNum c.x.a) wholeWarp (BitVec.ofNat 64 a)
  | .error (.trap cause d a) => (c.s.dropStreams c.k).precise c.k c.w cause d 0 (lowest c.m) (BitVec.ofNat 64 a)
  | .error (.need who sp a size) =>
    match c.s.pipeAsk (c.w.streamPipe c.k who) sp a size with
    | (s, .going) => .next (s.hold' c.k)
    | (s, .walk id) => .next (s.stall c.k (.walk id (lowest c.m) (BitVec.ofNat 64 a)))
    | (s, .page fl) => .next (s.stall c.k (.page fl (lowest c.m) (BitVec.ofNat 64 a)))
    | (s, .bad cause d fl) => ((s.spent fl).dropStreams c.k).precise c.k c.w cause d 0 (lowest c.m) (BitVec.ofNat 64 a)

/-! ### XOPEN (R319, R320, R326) -/

/-- Bytes [off, off + n) of a number. -/
def field (v off n : Nat) : Nat := v / 256 ^ off % 256 ^ n

/-- Offset of the first byte that breaks the rules of a header (code 6). -/
def headerBad (h lvl : Nat) : Option Nat :=
  let asp := field h 2 1
  if field h 0 1 = 0 || 4 < field h 0 1 || field h 0 1 ≤ lvl then some 0
  else if 8 < field h 1 1 then some 1
  else if 4 ≤ asp then some 2
  else if field h 3 1 ≠ 0 then some 3
  else if asp ≠ 0 && field h 0xc 4 ≠ 0 then (List.range 4).findSome? fun i => if field h (0xc + i) 1 ≠ 0 then some (0xc + i) else none
  else if asp ≠ 0 && field h 0x14 4 ≠ 0 then (List.range 4).findSome? fun i => if field h (0x14 + i) 1 ≠ 0 then some (0x14 + i) else none
  else (List.range 40).findSome? fun i => if field h (0x18 + i) 1 ≠ 0 then some (0x18 + i) else none

/-- The same of a level record. -/
def levelBad (r : Nat) : Option Nat :=
  let k := field r 0 1
  let zeros (off n : Nat) : Option Nat := (List.range n).findSome? fun i => if field r (off + i) 1 ≠ 0 then some (off + i) else none
  if 3 < k then some 0
  else match zeros 1 3 with
    | some i => some i
    | none =>
      if field r 4 4 = 0 || field r 4 4 = noPos then some 4
      else match if k = 0 then zeros 8 4 else none with
        | some i => some i
        | none => if k = 0 || k = 3 then zeros 12 4 else none

/-- The part of a level that its parent position needs: `pos`[p] and `pos`[p + 1] of a C level (R326). -/
def openPos (rd : Rd) (asp kind pos p : Nat) : SM (Nat × Nat) :=
  if kind ≠ 1 then .ok (0, 0)
  else do
    let b ← rd 8 asp (spAddr asp (pos + 4 * p)) 4
    let e ← rd 8 asp (spAddr asp (pos + 4 * (p + 1))) 4
    .ok (b, e)

/-- What a level gives the register opened at it, or why it cannot: code 7 at `rec`, its record, and code 1. -/
def openLevel (x : XReg) (lvl kind size p rec : Nat) (pos : Nat × Nat) : SM XReg :=
  let big : SM XReg := .error (.mal 7 rec)
  let words := (size + 63) / 64
  if lvl = 0 && p ≠ 0 then big
  else match kind with
    | 0 => if 2 ^ 32 - 2 < p * size + size - 1 then big else .ok { x with endx := size }
    | 1 => if pos.2 < pos.1 then .error (.mal 1 (spAddr x.space (x.arr0 + 4 * (p + 1)))) else .ok { x with beg := pos.1, endx := pos.2, cur := pos.1 }
    | 2 => if 2 ^ 32 - 1 < 64 * p * words + size then big else .ok { x with beg := 64 * p * words, endx := 64 * p * words + size, cur := 64 * p * words }
    | _ => .ok { x with endx := 1 }

/-- The stream that a descriptor gives at a level under a parent position: the descriptor and what the position needs are read,
and then the checks apply (R326). A descriptor whose RANK, ASPACE or level says nowhere to read fails at once. -/
def openStream (rd : Rd) (sp a lvl p : Nat) : SM XReg := do
  let h ← rd 8 sp a 64
  let rank := field h 0 1
  let asp := field h 2 1
  let bad (i : Option Nat) (go : SM XReg) : SM XReg := match i with
    | some i => .error (.mal 6 (a + i))
    | none => go
  if rank = 0 || 4 < rank || rank ≤ lvl || 4 ≤ asp then bad (headerBad h lvl) (.error (.mal 6 a))
  else do
    let recs ← rd 8 sp (a + 0x40) (16 * rank)
    let r := field recs (16 * lvl) 16
    let kind := field r 0 1
    let arr (off : Nat) : Nat := spAddr asp (field h 8 8 + 16 * off)
    let pos ← openPos rd asp kind (arr (field r 8 4)) p
    bad (headerBad h lvl) (bad ((List.range rank).findSome? fun i => (levelBad (field recs (16 * i) 16)).map (0x40 + 16 * i + ·))
      (openLevel ⟨field h 0x10 8, 1, asp + kind * 4 + lvl * 16, field h 1 1, if lvl + 1 = rank then 2 else 0, field h 4 4, p, 0, 0, 0, field r 4 4, noPos,
        arr (field r 8 4), arr (field r 12 4), 0, 0⟩ lvl kind (field r 4 4) p (a + 0x40 + 16 * lvl) pos))

/-- The uniform address operand of a space (R324). -/
def Cx.spaceAddr (c : Cx) (sp : Nat) : Nat := if sp = 0 then (c.i64 (lowest c.m) c.x.a).toNat else (c.i32 (lowest c.m) c.x.a).toNat

/-- XOPEN (R326). -/
def xopen (op : Op) (x : Ext) (len : Nat) (s : State) : Res :=
  streamOnce op x len s fun c =>
    let d := xNum x.d
    let a := c.spaceAddr (x.m 0 2)
    if 2 ≤ (c.w.r.getX d).st then c.illegal
    else if a % 64 ≠ 0 then c.trapIn cMisalign 0 (lowest c.m) (BitVec.ofNat 64 a)
    else if c.w.acquiring then .next (c.s.hold' c.k)
    else c.settle (openStream (c.s.streamRd c.k c.w) (x.m 0 2) a (x.imm.toNat % 4) (c.i32 (lowest c.m) x.b).toNat) fun v =>
      ((c.s.dropLooks (.stream c.k 8)).dropLooks (.stream c.k d)).done c.k c.w (c.w.r.setX d v.bits) len

/-- XISECT and XUNION (R327). -/
def xcombine (st : Nat) (op : Op) (x : Ext) (len : Nat) (s : State) : Res :=
  streamOnce op x len s fun c =>
    let d := xNum x.d; let a := xNum x.a; let b := xNum x.b
    let r := c.w.r
    if (r.getX d).st ≠ 0 || (r.getX a).st ≠ 1 || (r.getX b).st ≠ 1 then c.illegal
    else
      let v : XReg := { XReg.ofBits 0 with st := st, info := a + b * 8, lastc := noPos }
      c.done len (((r.setX d v.bits).setX a { r.getX a with st := 4 }.bits).setX b { r.getX b with st := 4 }.bits)

/-- XCLOSE (R327). -/
def xclose (op : Op) (x : Ext) (len : Nat) (s : State) : Res :=
  streamOnce op x len s fun c =>
    let d := xNum x.d
    let v := c.w.r.getX d
    let free (n : Nat) (r : Regs) : Regs := if (r.getX n).st = 4 then r.setX n { r.getX n with st := 1 }.bits else r
    if v.st = 4 then c.illegal
    else (c.s.dropLooks (.stream c.k d)).done c.k c.w ((if v.comb then free v.opb (free v.opa c.w.r) else c.w.r).setX d 0) len

/-! ### XSKIP (R330) -/

/-- Consume every element below c; whether one is left. -/
def skipTo (rd : Rd) (who c : Nat) : Nat → XReg → SM (XReg × Bool)
  | 0, x => .ok (x, false)
  | fuel + 1, x =>
    do
      let n := max x.cur (min c x.size)
      match ← x.peek rd who with
      | none => .ok (if x.kind = 0 then { x with cur := n } else x, false)
      | some e =>
        -- the elements that a dense level passes have ascending coordinates: the first one met stands for all
        if x.kind = 0 then .ok (if x.cur < n then { x with cur := n, lastc := min n x.endx - 1 } else x, n < x.endx)
        else if e.c < c then skipTo rd who c fuel (x.eat e)
        else .ok (x, true)

def XReg.skip (x : XReg) (rd : Rd) (who c : Nat) : SM (XReg × Bool) := skipTo rd who c (x.endx - x.cur + 1) x

/-- The streams after a skip: the named one, and the operands of a combined one; and whether an element remains. -/
def skipAll (rd : Rd) (who c : Nat) (r : Regs) : SM ((Regs → Regs) × Bool) :=
  let x := r.getX who
  if x.comb then do
    let (a, la) ← (r.getX x.opa).skip rd x.opa c
    let (b, lb) ← (r.getX x.opb).skip rd x.opb c
    let (a, b, ok) ← if x.st = 3 then .ok (a, b, la || lb)
      else (fun m => (m.a, m.b, m.ea.isSome)) <$> merge rd x.opa x.opb false true (mergeFuel a b) a b
    .ok (fun r => ((r.setX who (if ok then x else x.setEnd).bits).setX x.opa a.bits).setX x.opb b.bits, ok)
  else do
    let (y, ok) ← x.skip rd who c
    .ok (fun r => r.setX who (if ok then y else y.setEnd).bits, ok)

def xskip (op : Op) (x : Ext) (len : Nat) (s : State) : Res :=
  streamOnce op x len s fun c =>
    let v := c.w.r.getX (xNum x.a)
    if !(v.st = 1 || (v.comb && c.w.r.membersOk v)) then c.illegal
    else if c.w.acquiring then .next (c.s.hold' c.k)
    else c.settle (skipAll (c.s.streamRd c.k c.w) (xNum x.a) (c.i32 (lowest c.m) x.b).toNat c.w.r) fun p =>
      c.done len ((lanesOf c.m).foldl (fun r l => putE l x.e (Tri.ofBool p.2) r) (p.1 c.w.r))

/-! ### XSAVE, XLOAD and XPOS (R331, R332) -/

/-- The warp waits for the access that it has just sent. -/
def Cx.thenWait (c : Cx) (r : Res) : Res :=
  match r with
  | .next s => .next (s.modWarp c.k fun w =>
      if (w.outs.getLast?).any fun o => c.s.nextId ≤ o.id && !o.finished then { w with wait := .acks, active := false } else w)
  | r => r

def xsave (op : Op) (x : Ext) (len : Nat) (s : State) : Res :=
  streamOnce op x len s fun c =>
    let sp := x.m 0 2
    if !c.mayStart (if sp = 0 then .kg else .ks) false then .next (c.s.hold' c.k)
    else match c.checks ⟨sp, 64, 64, kStore, false⟩ [lowest c.m] fun _ => BitVec.ofNat 64 (c.spaceAddr sp) with
      | .stop r => r
      | .go s spots =>
        let v := (c.w.r.x.get 0 (xNum x.b)).toNat
        c.thenWait (if sp = 0 then c.globalStore len s spots 64 (fun _ => v) else c.scratchStore len s spots 64 (fun _ => v))

def xload (op : Op) (x : Ext) (len : Nat) (s : State) : Res :=
  streamOnce op x len s fun c =>
    let sp := x.m 0 2
    if !c.mayStart .kx true then .next (c.s.hold' c.k)
    else match c.checks ⟨sp, 64, 64, kLoad, false⟩ [lowest c.m] fun _ => BitVec.ofNat 64 (c.spaceAddr sp) with
      | .stop r => r
      | .go s spots =>
        let s := s.dropLooks (.stream c.k (xNum x.d))
        c.thenWait (if sp = 0 then c.globalLoad len s spots 64 false false else c.scratchLoad len s spots 64 false)

/-- XPOS's fields. -/
def XReg.pos (x : XReg) (f : Nat) : Nat :=
  if x.comb && f ∈ [1, 2, 3, 4, 7, 8] then 0
  else match f with
    | 0 => x.st
    | 1 => x.cur
    | 2 => x.beg
    | 3 => x.endx
    | 4 => x.endx - x.cur
    | 5 => x.lastc
    | 6 => x.done
    | 7 => x.parent
    | 8 => x.size
    | _ => x.flags % 2

def xpos (op : Op) (x : Ext) (len : Nat) (s : State) : Res :=
  streamOnce op x len s fun c => c.done len (c.putVS 1 (fun _ => BitVec.ofNat 64 ((c.w.r.getX (xNum x.a)).pos (x.m 0 4))) c.w.r)

/-! ### The look-ahead (R334) -/

/-- Ranges of the arrays that up to 256 elements ahead lie in: address and size. -/
def XReg.ahead (x : XReg) : List (Nat × Nat) :=
  if x.endx ≤ x.cur then []
  else match x.kind with
    | 0 => []
    | 1 => [(spAddr x.space (x.arr1 + 4 * x.cur), 4 * min 256 (x.endx - x.cur))]
    | 2 =>
      let i := x.cur / 64
      let n := min 4 ((x.endx - 1) / 64 - i + 1)
      [(spAddr x.space (x.arr0 + 8 * i), 8 * n), (spAddr x.space (x.arr1 + 4 * i), 4 * n)]
    | _ => [(spAddr x.space (x.arr0 + 4 * x.parent), 4)]

/-- The unit asks for what it lacks of the elements ahead. -/
def State.lookAhead (s : State) (k : WarpKey) (n : Nat) : State :=
  match s.warp? k with
  | none => s
  | some w =>
    let x := w.r.getX n
    if w.parked || w.wait = .acks || !(x.st = 1 || x.st = 4) then s
    else x.ahead.foldl (fun s r => if s.pipeRead (w.streamPipe k n) x.space r.1 r.2 = .need then (s.pipeAsk (w.streamPipe k n) x.space r.1 r.2).1 else s) s

/-! ### The instructions -/

/-- Opens a fibre of a sparse tensor into an X register (R326). -/
def execXopen (x : Ext) (s : State) : Res :=
  xopen .xopen x (extLen x) s

/-- Delivers the next elements of an open stream to the lanes (R328). -/
def execXnext (x : Ext) (s : State) : Res :=
  xnext false .xnext x (extLen x) s

/-- Delivers the elements of an intersection or union stream (R329). -/
def execXnext2 (x : Ext) (s : State) : Res :=
  xnext true .xnext2 x (extLen x) s

/-- Combines two streams as an intersection (R327). -/
def execXisect (x : Ext) (s : State) : Res :=
  xcombine 2 .xisect x (extLen x) s

/-- Combines two streams as a union (R327). -/
def execXunion (x : Ext) (s : State) : Res :=
  xcombine 3 .xunion x (extLen x) s

/-- Consumes the elements below a coordinate (R330). -/
def execXskip (x : Ext) (s : State) : Res :=
  xskip .xskip x (extLen x) s

/-- Closes a stream, returning combined operands to OPEN (R327). -/
def execXclose (x : Ext) (s : State) : Res :=
  xclose .xclose x (extLen x) s

/-- Stores 64 bytes of stream state (R331). -/
def execXsave (x : Ext) (s : State) : Res :=
  xsave .xsave x (extLen x) s

/-- Loads and checks a saved stream state (R331). -/
def execXload (x : Ext) (s : State) : Res :=
  xload .xload x (extLen x) s

/-- Reads one field of a stream (R332). -/
def execXpos (x : Ext) (s : State) : Res :=
  xpos .xpos x (extLen x) s

/-- LOOKAHEAD_READ: the stream unit reads ahead of a stream's cursor (R334). -/
def execLookaheadRead (s : State) : Res :=
  .next (if (s.warp? s.arg.w).any fun (w : Warp) => s.dieDown w.die then s else s.lookAhead s.arg.w s.arg.n)

end Sys2Proof.Machine
end

