-- ==== Sys2Proof/Machine/Boundary.lean ====
section
/-! DEFINITION. Causes taken at an instruction boundary (R462, R463), the entry that TRAP_ENTRY makes, and whether a
warp may issue. -/

namespace Sys2Proof.Machine

/-- What a delivery makes of the warp's wait (R463): abandoned and executed again, completed, or still to complete
first. -/
inductive Delivery where
  | now (r : Regs)
  | later
deriving DecidableEq, Repr

def Warp.delivery (w : Warp) : Delivery :=
  match w.wait with
  | .sleep _ len => .now { w.r with pc := w.r.pc + BitVec.ofNat 64 len }
  | .fence sc => if 4 ≤ sc then .now w.r else .later
  | .acks | .hjoin _ | .push _ | .inval _ | .rgnclr _ _ => .later
  | _ => .now w.r

/-- The instruction that a page or a walk holds in the middle of a mapped access is withdrawn: its registers are
full with their old values and its counter falls (R463, R179). -/
def Warp.withdraw (w : Warp) : Warp :=
  let open' (o : Out) : Bool := (o.kind = .vload || o.kind = .vatom || o.kind = .vstore) && !o.finished && !o.lanes.any (·.done)
  match w.wait with
  | .page _ _ _ => (match w.outs.getLast? with
      | some o => if open' o then { w with outs := w.outs.filter (·.id ≠ o.id), r := o.back.getD w.r } else w
      | none => w)
  | _ => w

/-- The first cause pending (R462): a debugger halt, then WATCHDOG, then PREEMPT. -/
def Boundary.first (b : Boundary) : Option Nat :=
  if b.halt then some 0 else if b.watchdog then some 13 else if b.preempt then some 14 else none

def Boundary.drop (b : Boundary) (c : Nat) : Boundary :=
  if c = 13 then { b with watchdog := false } else if c = 14 then { b with preempt := false } else { b with halt := false }

/-- The cause that is due at a boundary of the warp: in trap mode only a debugger halt, since WATCHDOG and PREEMPT are held there
(R462). -/
def Warp.due (w : Warp) : Option Nat := if w.r.tmode then (if w.pending.halt then some 0 else none) else w.pending.first

/-- The warp goes on after a debugger halt, and matrix entries that the halt stopped are to be posted again (R315, R318, R476). -/
def Warp.replays (w : Warp) : Bool := w.r.mrecs ≠ [] && !w.r.tmode && !w.parked && !w.halted && w.trapping.isNone

/-- The warp takes a cause that is pending at this boundary; its recruitment is released (R452) and it enters when
TRAP_ENTRY finds the waits of R464 over. A sprout takes none. -/
def State.takeBoundary (s : State) (k : WarpKey) (w : Warp) : State :=
  if w.trapping.isSome || w.sprout.isSome || w.parked || w.halted || w.r.live = 0 then s
  else match w.due with
    | none => s
    | some c =>
      let s := s.releaseOf k false
      match w.delivery with
      | .later => s
      | .now r =>
        let w := { w with r := r }.withdraw
        let w := { w.abandonStream with wait := .none, active := false, pending := w.pending.drop c, release := if w.r.recr.state = 1 then max w.release 1 else w.release }
        let s := if c = 0 then s.setWarp k { w with halted := true, r := if w.r.tmode then w.r else { w.r with ipc := w.r.pc, imask := w.r.mask } }
          else s.setWarp k { w with trapping := some ⟨c, 0, 0, wholeWarp, 0, w.r.pc, false, true, false⟩ }
        (s.matHalt k).dropStreams k

/-- The waits of R464: R164 and R179; for WATCHDOG, PREEMPT and a resume also R98 `.dev`, and R452. -/
def State.entryReady (s : State) (w : Warp) (t : Trap) : Bool :=
  w.quiet && (!t.async || (s.fenceHolds w 3 && w.release = 0 && w.r.recr.state ≠ 1))

/-- RECRUIT's status registers that are due by TC `t` of the die are filled (R444); all of them where no time is given: they may
be filled at any time before (R176). -/
def Warp.fillStatus (w : Warp) (nS : Nat) (t : Option Nat) : Warp :=
  (w.outs.filter fun o => o.kind = .sprouts && t.all fun t => o.slot ≤ t + 1).foldl (fun w o =>
    let w := w.fill o fun r => o.lanes.foldl (fun r l => putWords nS 1 l.lane o.x.d l.val r) r
    { w with outs := w.outs.filter (·.id ≠ o.id) }) w

/-- The same, of a warp of the state. -/
def State.fillStatus (s : State) (k : WarpKey) (t : Option Nat) : State := s.modWarp k fun w => w.fillStatus (s.header k).nS t

/-- The warp may issue: it runs, it is in the active set, and nothing holds it. A memory site that has failed takes the module
out of service, and no warp issues (R27). Records that a debugger halt left are posted first (R318). -/
def State.mayIssue (s : State) (k : WarpKey) (w : Warp) : Bool :=
  w.r.live ≠ 0 && w.active && !w.parked && !w.halted && w.trapping.isNone && !w.replays && !s.clockMoves w.die && !s.dieDown w.die && s.panel.sitesOut = [] &&
    match w.sprout with
    | some p => (s.warp? p.owner).any fun (o : Warp) => o.release = 0
    | none => !(s.team? k.teamKey).any fun (t : Team) => !t.resident || t.args.isNone

end Sys2Proof.Machine
end

