-- ==== Sys2Proof/Machine/Context.lean ====
section
/-! DEFINITION. The images of the context area (R466 to R469, R472): what CSAVE and the core's own save write, what CLOAD
and the core's own restore read, and resuming a parked warp (R473). -/

namespace Sys2Proof.Machine

/-! ### Packing -/

/-- Numbers of n bytes each, the first lowest. -/
def packBytes (n : Nat) (l : List Nat) : Nat := l.foldr (fun v acc => v % 256 ^ n + acc * 256 ^ n) 0

/-- Bytes [off, off + n) of an image. -/
def imageField (img off n : Nat) : Nat := img / 256 ^ off % 256 ^ n

/-- Register and thread of every entry of a range, register by register. -/
def rangeOf (width first count : Nat) : List (Nat × Nat) :=
  (List.range count).flatMap fun j => (List.range width).map fun t => (first + j, t)

/-! ### Register images (R472) -/

def Regs.imageV (r : Regs) (width first count : Nat) : Nat := packBytes 4 ((rangeOf width first count).map fun p => (r.getV p.1 p.2).toNat)

def Regs.imageF (r : Regs) (width first count : Nat) : Nat :=
  let l := rangeOf width first count
  packBytes 8 (l.map fun p => (r.getF p.1 p.2).bits.toNat) + (l.foldr (fun p acc => (r.getF p.1 p.2).dec.toNat + acc * 4) 0) * 256 ^ (8 * count * width)

def Regs.imageS (r : Regs) (nS first count : Nat) : Nat := packBytes 4 ((List.range count).map fun j => (r.getS nS (first + j)).toNat)

/-- P0 to P15 of a thread as PMOV packs them (R259). -/
def Regs.packP (r : Regs) (lane : Nat) : Nat := (List.range 16).foldr (fun i acc => (r.getP i lane).toNat + acc * 4) 0

def Regs.imageP (r : Regs) (width : Nat) : Nat := packBytes 4 ((List.range width).map r.packP)

def Regs.loadV (r : Regs) (width first count img : Nat) : Regs :=
  ((rangeOf width first count).zipIdx).foldl (fun r p => r.setV p.1.1 p.1.2 (BitVec.ofNat 32 (imageField img (4 * p.2) 4))) r

def Regs.loadF (r : Regs) (width first count img : Nat) : Regs :=
  ((rangeOf width first count).zipIdx).foldl (fun r p =>
    r.setF p.1.1 p.1.2 ⟨BitVec.ofNat 64 (imageField img (8 * p.2) 8), BitVec.ofNat 2 (imageField img (8 * count * width + p.2 / 4) 1 / 4 ^ (p.2 % 4))⟩) r

def Regs.loadS (r : Regs) (nS first count img : Nat) : Regs :=
  (List.range count).foldl (fun r j => r.setS nS (first + j) (BitVec.ofNat 32 (imageField img (4 * j) 4))) r

/-- A code of 11 is read as UNDECIDED (R259). -/
def triOf (n : Nat) : Tri := if n % 4 = 3 then Tri.und else BitVec.ofNat 2 n

def Regs.loadP (r : Regs) (width img : Nat) : Regs :=
  (List.range width).foldl (fun r t => (List.range 15).foldl (fun r i => r.setP i t (triOf (imageField img (4 * t) 4 / 4 ^ i))) r) r

/-! ### The hidden state (R371, R450, R469) -/

/-- Bits [1:0] of the addresses are zero, as an instruction address keeps them (R215; log 78). -/
def SEntry.unpack (n : Nat) : SEntry :=
  ⟨BitVec.ofNat 128 n, pcOf (BitVec.ofNat 64 (n / 2 ^ 128 % 2 ^ 56)), pcOf (BitVec.ofNat 64 (n / 2 ^ 192 % 2 ^ 56)), n / 2 ^ 248 % 4⟩

def b2n (b : Bool) : Nat := if b then 1 else 0

/-- The recruitment record's 128 bytes. -/
def Recr.pack (c : Recr) : Nat :=
  (c.state + c.rop * 4 + b2n c.fl * 2 ^ 5 + b2n c.sgn * 2 ^ 6 + c.g * 2 ^ 7 + c.lane * 2 ^ 16) + c.done.toNat * 256 ^ 8 +
    (if c.accFlag then c.acc.toNat * 256 ^ 0x48 + c.accDec.toNat * 256 ^ 0x50 + 256 ^ 0x51 else 0) + c.fault.toNat * 256 ^ 0x58 + c.faddr.toNat * 256 ^ 0x60

def Recr.unpack (n : Nat) : Recr :=
  let h := n % 2 ^ 32
  let flag : Bool := imageField n 0x51 1 % 2 = 1
  ⟨h % 4, h / 4 % 8, h / 2 ^ 5 % 2 = 1, h / 2 ^ 6 % 2 = 1, h / 2 ^ 7 % 2 ^ 9, h / 2 ^ 16 % 2 ^ 7, BitVec.ofNat 512 (imageField n 8 64),
    if flag then BitVec.ofNat 64 (imageField n 0x48 8) else 0, if flag then BitVec.ofNat 2 (imageField n 0x50 1) else 0, flag,
    BitVec.ofNat 32 (imageField n 0x58 4), BitVec.ofNat 64 (imageField n 0x60 8)⟩

/-- Entries held in hardware, bottom first. -/
def hwEntries (l : List SEntry) : List SEntry := (l.take 32).reverse

def Warp.imageHw (w : Warp) : Nat :=
  let r := w.r
  let at' (off v : Nat) : Nat := v * 256 ^ off
  r.ipc.toNat + at' 8 (r.copySeq % 2 ^ 32) + at' 0xc w.mrp.toNat + at' 0x10 (hwEntries r.stack).length + at' 0x12 (spilledEntries r.stack).length +
    at' 0x18 r.spanRef.toNat + at' 0x20 r.live.toNat + at' 0x30 r.imask.toNat + at' 0x100 r.recr.pack +
    at' 0x200 (packBytes 64 ((r.mrecs.take 4).map (·.toNat))) + at' 0x300 (packBytes 32 ((hwEntries r.stack).map SEntry.pack)) +
    at' 0x700 (packBytes 8 ((List.range w.width).map r.floorOf)) + at' 0xb00 (packBytes 4 ((List.range w.width).map fun t => (r.item.get 0 t).toNat)) +
    at' 0x1000 (packBytes 32 ((spilledEntries r.stack).map SEntry.pack))

/-- Stack entries of an image, top first. -/
def imageStack (img : Nat) : List SEntry :=
  let hw := (List.range (imageField img 0x10 2)).map fun i => SEntry.unpack (imageField img (0x300 + 32 * i) 32)
  let sp := (List.range (imageField img 0x12 2)).map fun i => SEntry.unpack (imageField img (0x1000 + 32 * i) 32)
  (sp ++ hw).reverse

/-- What R472 refuses of a hidden-state image. -/
def hwBad (h : Header) (img : Nat) : Bool :=
  2 ^ h.width ≤ imageField img 0x20 16 || 2 ^ h.width ≤ imageField img 0x30 16 || 32 < imageField img 0x10 2 || h.spill < imageField img 0x12 2 ||
    4 < imageField img 0xc 4 / 2 ^ 8 % 8 || (imageStack img).any (fun e => e.kind = 3 || 2 ^ h.width ≤ e.mask.toNat) ||
    (List.range (imageField img 0xc 4 / 2 ^ 8 % 8)).any fun i => 2 ^ h.width ≤ imageField img (0x220 + 64 * i) 16

/-- Every field of R469 restored; floors become the larger of the current and the saved value. -/
def Regs.loadHw (r : Regs) (width img : Nat) : Regs :=
  let ipc := BitVec.ofNat 64 (imageField img 0 8)
  { r with
    ipc := ipc, lpc := ipc
    copySeq := imageField img 8 4
    spanRef := BitVec.ofNat 64 (imageField img 0x18 8)
    live := BitVec.ofNat 128 (imageField img 0x20 16)
    imask := BitVec.ofNat 128 (imageField img 0x30 16)
    recr := Recr.unpack (imageField img 0x100 128)
    mrecs := (List.range (imageField img 0xc 4 / 2 ^ 8 % 8)).map fun i => BitVec.ofNat 512 (imageField img (0x200 + 64 * i) 64)
    stack := imageStack img
    floor := (List.range width).foldl (fun f t => f.put 0 t (max (f.get 0 t) (imageField img (0x700 + 8 * t) 8))) r.floor
    item := (List.range width).foldl (fun f t => f.put 0 t (BitVec.ofNat 32 (imageField img (0xb00 + 4 * t) 4))) r.item }

/-! ### Barrier registers and maps (R157, R160, R468) -/

def CopyErr.pack (e : CopyErr) : Nat := e.cause + e.doff % 2 ^ 32 * 2 ^ 32 + e.addr % 2 ^ 64 * 2 ^ 64

def Team.imageBar (t : Team) : Nat :=
  packBytes 4 ((List.range 16).map fun k => (t.bars.get BarReg.zero k).word) + packBytes 16 ((List.range 16).map fun k => (t.cerrs.get CopyErr.zero k).pack) * 256 ^ 0x40

/-- A register's word read back; PEND is 0. -/
def BarReg.ofWord (n : Nat) : BarReg := ⟨n / 2 ^ 31 % 2 = 1, n / 2 ^ 30 % 2 = 1, n / 2 ^ 29 % 2 = 1, 0, n / 2 ^ 10 % 2 ^ 10, n % 2 ^ 10⟩

def Team.loadBar (t : Team) (img : Nat) : Team :=
  { t with
    bars := (List.range 16).foldl (fun b k => b.put BarReg.zero k (BarReg.ofWord (imageField img (4 * k) 4))) t.bars
    cerrs := (List.range 16).foldl (fun b k =>
      let e : CopyErr := ⟨imageField img (0x40 + 16 * k) 4, imageField img (0x44 + 16 * k) 4, imageField img (0x48 + 16 * k) 8⟩
      b.put CopyErr.zero k (if e.cause = 0 then CopyErr.zero else e)) t.cerrs }

/-- The map table: SQRY fields 0 to 4 of each slot as words. -/
def Team.imageMaps (t : Team) : Nat := packBytes 32 ((List.range 8).map fun k => packBytes 4 ((List.range 5).map (t.query k)))

/-- The map that a slot's words name, if its VALID bit stands. -/
def mapOfWords (k : Nat) (f : Nat → Nat) : Option SMap :=
  if f 4 % 2 = 1 then some ⟨k, f 0, f 1, f 2 + f 3 * 2 ^ 32, f 4 / 2 % 2 = 1, f 4 / 256 % 256, false⟩ else none

def Team.loadMaps (t : Team) (img : Nat) : Team :=
  { t with maps := (List.range 8).filterMap fun k => mapOfWords k fun i => imageField img (32 * k + 4 * i) 4 }

/-! ### The images a CSAVE or CLOAD names -/

/-- Bytes of an image of R472. -/
def imageSize (h : Header) (kind count : Nat) : Nat :=
  match kind with
  | 0 => 4 * count * h.width
  | 1 => 8 * count * h.width + count * h.width / 4
  | 2 => 4 * count
  | 3 => 4 * h.width
  | 4 => 4096 + 32 * h.spill
  | _ => 0x140

def Warp.image (w : Warp) (h : Header) (t : Team) (kind first count : Nat) : Nat :=
  match kind with
  | 0 => w.r.imageV w.width first count
  | 1 => w.r.imageF w.width first count
  | 2 => w.r.imageS h.nS first count
  | 3 => w.r.imageP w.width
  | 4 => w.imageHw
  | _ => t.imageBar

/-- Poison in what an image of V, F or S registers, or the spilled entries of a hidden state, would take (R458). -/
def State.imageBad (s : State) (k : WarpKey) (w : Warp) (kind first count : Nat) : Bool :=
  let h := s.header k
  match kind with
  | 0 => w.r.bad.any fun d => d.file = .v && first ≤ d.reg && d.reg < first + count
  | 1 => w.r.bad.any fun d => d.file = .f && first ≤ d.reg && d.reg < first + count
  | 2 => (List.range count).any fun j => w.r.bad.contains ⟨.s, sWord h.nS (first + j), 0⟩
  | 4 => s.spillBad k w 0 (w.r.stack.length - 32)
  | _ => false

/-- The registers that an image other than `.bar` leaves. -/
def Regs.loadImage (r : Regs) (h : Header) (kind first count img : Nat) : Regs :=
  match kind with
  | 0 => r.loadV h.width first count img
  | 1 => r.loadF h.width first count img
  | 2 => r.loadS h.nS first count img
  | 3 => r.loadP h.width img
  | 4 => r.loadHw h.width img
  | _ => r

/-! ### The whole slot (R467) -/

/-- Offset of each image in a slot: V, F, P, S and X follow the hidden state. -/
def Header.slotV (h : Header) : Nat := 4096 + 32 * h.spill
def Header.slotF (h : Header) : Nat := h.slotV + 4 * h.width * h.nV
def Header.slotP (h : Header) : Nat := h.slotF + 8 * h.width * h.nF + h.width * h.nF / 4
def Header.slotS (h : Header) : Nat := h.slotP + 4 * h.width
def Header.slotX (h : Header) : Nat := h.slotS + 4 * h.nS

/-- The S image covers S0 to S(nS − 9) and the trap block, as they stand in storage (R168). -/
def Regs.imageSAll (r : Regs) (nS : Nat) : Nat := packBytes 4 ((List.range nS).map fun j => (r.s.get 0 j).toNat)

def Warp.slotImage (w : Warp) (h : Header) : Nat :=
  w.imageHw + w.r.imageV w.width 0 h.nV * 256 ^ h.slotV + w.r.imageF w.width 0 h.nF * 256 ^ h.slotF + w.r.imageP w.width * 256 ^ h.slotP +
    w.r.imageSAll h.nS * 256 ^ h.slotS + packBytes 64 ((List.range 8).map fun k => (w.r.x.get 0 k).toNat) * 256 ^ h.slotX

def Regs.loadSlot (r : Regs) (h : Header) (img : Nat) : Regs :=
  let r := (List.range 8).foldl (fun r k => r.setX k (XReg.image (BitVec.ofNat 512 (imageField img (h.slotX + 64 * k) 64)))) r
  let r := { r with s := (List.range h.nS).foldl (fun m j => m.put 0 j (BitVec.ofNat 32 (imageField img (h.slotS + 4 * j) 4))) r.s, bad := [] }
  let r := r.loadP h.width (imageField img h.slotP (4 * h.width))
  let r := r.loadF h.width 0 h.nF (imageField img h.slotF (8 * h.width * h.nF + h.width * h.nF / 4))
  let r := r.loadV h.width 0 h.nV (imageField img h.slotV (4 * h.width * h.nV))
  r.loadHw h.width (img % 256 ^ h.slotV)

/-! ### The default sequence (R458, R468, R474; log 38)

The core writes the context area with stores and reads it with single-use reads, as agent KIND 0. `Warp.saving` counts the parts
that are done, and `Warp.saved` the lines of the next part that have been sent. -/

/-- Live warps of a team. -/
def State.liveWarps (s : State) (t : TeamKey) : List (WarpKey × Warp) := (s.ownWarps t).filter fun p => p.2.r.live ≠ 0

/-- Offset of the scratch image in a team block. -/
def Grid.scratchImage (g : Grid) : Nat := 0x400 + g.teamWarps * g.header.wsize

/-- Send lines of an image of n bytes from line number i on, as long as requests can leave: how many have been sent. -/
def State.saveLines (s : State) (k : WarpKey) (w : Warp) (va n v : Nat) : Nat → Nat → Pooled Nat
  | 0, i => .ok s i
  | fuel + 1, i =>
    let port := Port.core' w.die w.core
    match (vlines va n)[i]? with
    | none => .ok s i
    | some l =>
      if !s.portFree port then .ok s i
      else
        let lo := max va (l * 128)
        let len := min (va + n) (l * 128 + 128) - lo
        match s.unitReach w.die (s.asidOf k) kStore lo (.context k) with
        | (s, .wait) => .ok s i
        | (s, .declined) => .dead s
        | (s, .at pa) => ((s.l1Drop w.die w.core (lineOf pa)).unitStore port (.unit (.context k)) pa len (imageField v (lo - va) len)).saveLines k w va n v fuel (i + 1)

/-- The sequence of a warp stands at part `ph`, of which n lines have been sent. -/
def State.savePart (s : State) (k : WarpKey) (ph n : Nat) : State := s.modWarp k fun w => { w with saving := ph, saved := n }

/-- Go on with the part that writes an image. -/
def State.saveImage (s : State) (k : WarpKey) (w : Warp) (va n v : Nat) : State :=
  match s.saveLines k w va n v (n / 128 + 2) w.saved with
  | .ok s i => if (vlines va n).length ≤ i then s.savePart k (w.saving + 1) 0 else s.savePart k w.saving i
  | .wait s => s
  | .dead s => s.endGrid k.grid 17

/-- PREEMPT in a kernel without a handler: 0 the warp's own images; 1 their acknowledgements, after which a warp that is not the
team's last one parks; 2 the barrier registers and maps, once the team's copies have landed (R472); 3 the unmapping; 4 the
scratch; 5 acknowledgements and R98 `.dev`. -/
def State.defaultSave (s : State) (k : WarpKey) (w : Warp) (t : Trap) : State :=
  match s.grid? k.grid, s.team? k.teamKey with
  | some g, some tm =>
    let block := (g.teamBlock k).toNat
    let w := { w with r := { w.r with ipc := t.lpc, imask := w.r.mask } }
    let s := s.setWarp k w
    let sent : Bool := !s.unitBusy (.unit (.context k)) && s.fenceHolds w 3
    let park : State := (s.setWarp k { w with parked := true, trapping := none, active := false, saving := 0, saved := 0 }).tryLeave k.teamKey
    (match w.saving with
      | 0 => if w.r.bad ≠ [] || s.imageBad k w 4 0 0 then s.endGrid k.grid 17 else s.saveImage k w (g.warpSlot k).toNat g.header.wsize (w.slotImage g.header)
      | 1 => if !sent then s else if (s.liveWarps k.teamKey).all fun p => p.1 = k || p.2.parked then s.savePart k 2 0 else park
      | 2 => if s.copying k.teamKey then s else s.saveImage k w block 0x400 (tm.imageBar + tm.imageMaps * 256 ^ 0x200)
      | 3 =>
        let s := s.unmapAll k.teamKey
        if (s.team? k.teamKey).any (·.maps ≠ []) then s else s.savePart k 4 0
      | 4 => s.saveImage k w (block + g.scratchImage) g.scratch (readBytes s.vault tm.base g.scratch)
      | _ => if sent then park else s)
  | _, _ => s

/-- The end of a trap's sequence: the warp goes on at %lpc with its interrupted mask. -/
def Regs.leaveTrap (r : Regs) : Regs :=
  { r with mask := r.imask &&& r.live, pc := r.lpc, tstat := r.tstat &&& ~~~0x101, hstack := [] }

/-- The warp goes on at %lpc (R471). -/
def State.leaveTrap (s : State) (k : WarpKey) (w : Warp) : State :=
  let r := w.r.leaveTrap
  let w := { w with r := r, wait := .none }
  if r.pc.toNat % 4 ≠ 0 then s.trap k w ⟨cMisalign, 0, 0, wholeWarp, r.pc, r.pc, false, false, false⟩
  else if r.mask = 0 then s.resume k w r
  else s.setWarp k w

/-- The team's scratch, maps and barrier registers are restored, and the floors of the warp that read them rise. -/
def State.restoreTeam (s : State) (k : WarpKey) (w : Warp) (g : Grid) (tm : Team) : Pooled Unit :=
  let block := (g.teamBlock k).toNat
  let read (s : State) (va n : Nat) : Pooled UnitRead := s.unitBytes (.core' w.die w.core) (s.asidOf k) va n (.context k)
  (read s (block + g.scratchImage) g.scratch).then' fun s scr =>
  (read s block 0x400).then' fun s img =>
    if scr.poison || img.poison then .dead s
    else
      let s := { s with vault := writeBytes s.vault tm.base g.scratch scr.val }
      let s := s.modTeam k.teamKey fun t => { (t.loadBar img.val).loadMaps (img.val / 256 ^ 0x200) with cleared := roundUpTo 1024 g.scratch }
      .ok (s.modWarp k fun w => { w with r := w.r.raiseAll (fullMask w.width) (max scr.w img.w) }) ()

/-- A warp's own images are restored. -/
def State.restoreWarp (s : State) (k : WarpKey) (w : Warp) (g : Grid) : Pooled Unit :=
  (s.unitBytes (.core' w.die w.core) (s.asidOf k) (g.warpSlot k).toNat g.header.wsize (.context k)).then' fun s img =>
    if img.poison || hwBad g.header img.val then .dead s
    else
      let r := ((w.r.raiseAll (fullMask w.width) img.w).loadSlot g.header img.val).retag g.header
      .ok (((s.dropLooks (.unit (.context k))).spillOut k w 0 r.stack).setWarp k { w with r := r }) ()

/-- A part of the restore ends. -/
def Pooled.restored (p : Pooled Unit) (k : WarpKey) (ph : Nat) : State :=
  match p with
  | .ok s _ => s.savePart k ph 0
  | .wait s => s
  | .dead s => s.endGrid k.grid 17

/-- RESUME in a kernel without a handler: 0 the first warp restores what is its team's; 1 the warp's own images; 2 its matrix
records are executed again while the reservation table has room, and then it goes on (R318). -/
def State.defaultRestore (s : State) (k : WarpKey) (w : Warp) : State :=
  match s.grid? k.grid, s.team? k.teamKey with
  | some g, some tm =>
    (match w.saving with
      | 0 => if (s.liveWarps k.teamKey).all fun p => p.2.trapping.any (·.cause = cResume) then (s.restoreTeam k w g tm).restored k 1 else s.savePart k 1 0
      | 1 => (s.restoreWarp k w g).restored k 2
      | _ =>
        let s := s.matReplay k 4
        match s.warp? k with
        | none => s
        | some w => if w.r.mrecs ≠ [] then s else s.leaveTrap k { w with trapping := none, saving := 0 })
  | _, _ => s

/-! ### Resuming (R473) -/

/-- Registers of a warp that resumes: what is not restored is free (log 39), streams are closed, and the live threads
are those it parked with. -/
def Regs.resumed (r : Regs) (h : Header) (seed : Nat) : Regs :=
  let r' := Regs.start 0 r.live
  let word (n : Nat) : Word := Config.resumedWord seed n
  let r' := (rangeOf h.width 0 h.nV).foldl (fun q p => q.setV p.1 p.2 (word (p.1 * 128 + p.2))) r'
  let r' := (rangeOf h.width 0 h.nF).foldl (fun q p =>
    let n := 2 ^ 16 + 4 * (p.1 * 128 + p.2)
    q.setF p.1 p.2 ⟨pair (word n) (word (n + 1)), (word (n + 2)).extractLsb' 0 2⟩) r'
  let r' := (List.range h.nS).foldl (fun q j => { q with s := q.s.put 0 j (word (2 ^ 20 + j)) }) r'
  (rangeOf h.width 0 15).foldl (fun q p => q.setP p.1 p.2 (triOf (word (2 ^ 21 + p.1 * 128 + p.2)).toNat)) r'

/-! ### Invalidations of translations (R52) -/

/-- Units that hold translations: the dies in service and bridge BN1. -/
def State.tlbUnits (s : State) : List Nat := ((List.range 128).filter s.panel.inService) ++ [257]

/-- Start an invalidation from a unit: one message to each unit that holds translations. -/
def State.startInval (s : State) (warp : Option WarpKey) (src agent asid mode va size : Nat) : State × Nat :=
  let id := s.nextId
  let us := s.tlbUnits
  let s := { s with nextId := id + 1, invals := s.invals ++ [⟨id, warp, us, asid, mode, va, size⟩] }
  (us.foldl (fun s u => s.post { id := 0, ty := .tlbInv, tag := id, src := src, dst := u, agent := agent, addr := va, t2 := size, op := mode, inc := asid }) s, id)

end Sys2Proof.Machine
end

