-- ==== Sys2Proof/Machine/Notice.lean ====
section
/-! DEFINITION. Registers of service space that the device itself changes, and notices to the companion (R478, R479,
R482, R484). -/

namespace Sys2Proof.Machine

abbrev rModuleId : Nat := 0x8
abbrev rSvcErr : Nat := 0x10
abbrev rNrBase : Nat := 0x39040
abbrev rNrLog : Nat := 0x39048
abbrev rNrTail : Nat := 0x39050
abbrev rNrHead : Nat := 0x39058
abbrev rNrDropped : Nat := 0x39060

/-- One more discarded service access or unknown reply (R479). -/
def State.svcErr (s : State) : State := s.setReg rSvcErr ((s.reg rSvcErr + 1) % 2 ^ 32)

/-- A notice as its 32 bytes. -/
def Notice.bytes (n : Notice) : Nat :=
  n.type % 256 + n.cause % 256 * 256 + n.source % 2 ^ 16 * 2 ^ 16 + n.agent % 2 ^ 32 * 2 ^ 32 + n.addr % 2 ^ 64 * 2 ^ 64 +
    n.tc % 2 ^ 64 * 2 ^ 128 + n.detail % 2 ^ 64 * 2 ^ 192

/-- Send a notice to the ring if it has room, as a store of bridge BN1; notices go there one at a time (DESIGN CHOICE, log 25). -/
def State.sendNotice (s : State) (id : Nat) : State :=
  match s.notices.find? (·.id = id) with
  | none => s
  | some n =>
    if (s.notices.any (·.tag ≠ 0)) || !s.ringFree rNrTail rNrHead rNrLog then s
    else
      let pa := s.reg rNrBase + 32 * (s.reg rNrTail % 2 ^ s.reg rNrLog)
      { s with notices := s.notices.map fun (o : Notice) => if o.id = id then { o with tag := s.nextId } else o }.sendAs (agentId 9 1 0) bn1 0 (.notice id) (storeMsg pa 32 n.bytes)

/-- Report an event: a full ring drops and counts type 6, and holds the others. -/
def State.notice (s : State) (type cause source agent addr detail : Nat) : State :=
  if type = 6 && !s.ringFree rNrTail rNrHead rNrLog then s.setReg rNrDropped (s.reg rNrDropped + 1)
  else
    let id := s.nextId
    { s with notices := s.notices ++ [(⟨id, type, cause, source, agent, addr, s.tcAt 257, detail, 0⟩ : Notice)], nextId := id + 1 }.sendNotice id

/-- A notice has performed in the ring: NR_TAIL rises (R480, R482), and the oldest that is held follows. A refused store is tried
again. -/
def State.noticePut (s : State) (id : Nat) (refused : Bool) : State :=
  if refused then { s with notices := s.notices.map fun (o : Notice) => if o.id = id then { o with tag := 0 } else o }
  else
    let s := { s with notices := s.notices.filter fun (o : Notice) => o.id ≠ id }.setReg rNrTail (s.reg rNrTail + 1)
    match s.notices.head? with
    | some n => s.sendNotice n.id
    | none => s

end Sys2Proof.Machine
end

