-- ==== Sys2Proof/Machine/Dist.lean ====
section
/-! DEFINITION. The distributor as an agent: its reads and writes, kernel headers and launch records, and what it records
of a queue (R244, R245, R394 to R402, R407). -/

namespace Sys2Proof.Machine

/-! ### Reads and writes of the distributor (R397, R407) -/

/-- The unit number of bridge BN1, and the distributor's agent. -/
abbrev bn1Unit : Nat := 257
abbrev distAgent : Nat := agentId 9 1 0

/-- Bytes of an address space as the distributor reads them; `dead` where a fault is declined or nothing backs them. -/
def State.distBytes (s : State) (asid va n : Nat) (u : UnitUse) : Pooled UnitRead := s.unitBytes .dist asid va n u

/-- A store of the distributor. -/
def State.distStore (s : State) (u : UnitUse) (pa n v : Nat) : State := s.unitStore .dist (.unit u) pa n v

/-- The reads of a queue's head are forgotten. -/
def State.dropHead (s : State) (n : Nat) : State :=
  [UnitUse.ring n, .header n, .waitAddr n, .overflow n].foldl (fun s u => s.dropLooks (.unit u)) s

/-- A WATCH of the distributor on a word, unless one stands; its tag says what it is for. -/
def State.distWatch (s : State) (pa w tag : Nat) : State :=
  let mine (m : Msg) : Bool := m.tag = tag && ((m.ty = .watchSet && m.agent = distAgent) || (m.ty = .watchFire && m.dst = bn1Unit))
  if s.net.any mine || s.watches.any (fun x => mine x.msg) || s.lineq.any (fun q => q.q.any mine) || s.kelvia.any mine then s
  else s.post { id := 0, ty := .watchSet, tag := tag, src := bn1Unit, dst := s.homeOf pa, agent := distAgent, inc := s.incOf distAgent, addr := pa,
                t1 := w, mask := byteMask (pa % 128) 8 }

/-! ### Kernel headers (R242, R244, R245) -/

/-- The used entries of a carry list: the unused ones, 0xff, come after. -/
def carryList (l : List Nat) : Option (List Nat) :=
  let used := l.takeWhile (· ≠ 0xff)
  if (l.drop used.length).all (· = 0xff) then some used else none

/-- Lend ranges with their checks: they lie below n and hold at most 16 registers. -/
def lendRanges (n : Nat) (l : List Nat) : Option (List (Nat × Nat)) :=
  let ps := l.map fun x => (x % 256, x / 256)
  if ps.all (fun p => if p.2 = 0 then p.1 = 0 else p.1 + p.2 ≤ n) && ps.foldl (fun t p => t + p.2) 0 ≤ 16 then some (ps.filter (·.2 ≠ 0)) else none

/-- Width in threads of a WARP code. -/
def widthOf (code : Nat) : Nat := 32 * 2 ^ code

/-- The header that 64 bytes hold, where it is valid, its handler's label on an instruction word (R242); the register counts are a test of their own (R401; log 42). -/
def Header.parse (n : Nat) : Option Header :=
  let f (off size : Nat) : Nat := imageField n off size
  let nV := f 4 1
  let nF := f 5 1
  match carryList ((List.range 12).map fun i => f (0x10 + i) 1), carryList ((List.range 6).map fun i => f (0x1c + i) 1),
      lendRanges nV [f 0x22 2, f 0x24 2], lendRanges nF [f 0x26 2, f 0x28 2] with
  | some cv, some cf, some lv, some lf =>
    if f 0 2 = 0x4b5a && f 2 1 = 1 && f 3 1 < 3 && f 8 1 ≤ 16 && f 9 1 ≤ 1 && f 0xa 2 ≤ 4095 && f 0xc 4 ≤ 458752 && cv.all (· < nV) && cf.all (· < nF) &&
        f 0x2a 2 ≤ 511 && (f 0x2a 2 = 0 ↔ f 0x2c 4 = 0) && (if f 9 1 = 1 then f 0x30 4 % 4 = 0 else f 0x30 4 = 0) && f 0x38 8 = 0 then
      some ⟨widthOf (f 3 1), nV, nF, f 6 2, f 8 1, f 9 1 = 1, f 0xa 2, f 0xc 4, cv, cf, lv, lf, f 0x2a 2, f 0x2c 4, signed32 (f 0x30 4)⟩
    else Option.none
  | _, _, _, _ => Option.none

/-- The counts of R166. -/
def Header.countsOk (h : Header) : Bool :=
  h.nV % 8 = 0 && h.nV ≤ 128 && h.nF % 8 = 0 && h.nF ≤ 128 && h.nS % 32 = 0 && 32 ≤ h.nS && h.nS ≤ 384

/-! ### Launch records (R399, R400) -/

def recField (r : Line) (off n : Nat) : Nat := lineNat r off n

/-- Threads of a team along x, y and z. -/
def recTeam (r : Line) : Nat × Nat × Nat :=
  let t := recField r 0x1c 4
  (t % 2 ^ 10, t / 2 ^ 10 % 2 ^ 10, t / 2 ^ 20 % 2 ^ 10)

def recTeams (r : Line) : Nat := recField r 0x10 4 * recField r 0x14 4 * recField r 0x18 4

/-- The rows of R400 that come before the header is read. -/
def recordCode0 (r : Line) : Nat :=
  if recField r 0 8 % 64 ≠ 0 || recField r 8 4 < 64 then 9 else if recField r 8 4 % 64 ≠ 0 then 2 else 0

/-- The first row of R400 that fails, 0 where none does; no header where its fault was declined. -/
def recordCode (r : Line) (h : Option (Option Header)) (asid : Nat) : Nat :=
  let f (off n : Nat) : Nat := recField r off n
  let flags := f 0xc 4
  let hd : Option Header := h.bind id
  let t := recTeam r
  let threads := t.1 * t.2.1 * t.2.2
  let pool : Bool := flags / 2 % 2 = 1
  let gang (n : Nat) : Bool := n = 1 || n = 2 || n = 4
  if recordCode0 r ≠ 0 then recordCode0 r
  else if h = some none then 2
  else if flags / 2 ^ 9 ≠ 0 || flags / 2 ^ 5 % 8 ≠ 0 then 1
  else if hd.any fun h => widthOf (flags / 8 % 4) ≠ h.width || (flags / 2 ^ 8 % 2 = 1 && h.hlimit = 0) then 2
  else if recTeams r = 0 || 2 ^ 32 ≤ recTeams r then 4
  else if f 0x1c 4 / 2 ^ 30 ≠ 0 then 1
  else if threads = 0 || 512 < threads then 4
  else if !gang (f 0x20 1) || !gang (f 0x21 1) || f 0x20 1 < f 0x21 1 then 5
  else if 128 < f 0x22 2 then 4
  else if 458752 < f 0x24 4 || hd.any (fun h => f 0x24 4 < h.scratch) then 3
  else if (if pool then f 0x28 4 % 4096 ≠ 0 || 131072 < f 0x28 4 else f 0x28 4 ≠ 0) then 3
  else if f 0x30 8 % 4 ≠ 0 then 9
  else if f 0x38 8 = 0 || f 0x38 8 % 64 ≠ 0 then 9
  else if (if pool then f 0x40 8 = 0 || f 0x40 8 % 4096 ≠ 0 else f 0x40 8 ≠ 0) then 9
  else if f 0x48 8 % 8 ≠ 0 || f 0x58 8 % 8 ≠ 0 then 9
  else if f 0x64 2 ≠ asid then 6
  else if f 0x2c 4 ≠ 0 || f 0x66 26 ≠ 0 then 1
  else 0

/-- Number of die groups (R410), but for a cooperative launch that leaves the choice to the distributor. -/
def groupCount (r : Line) (service : Nat) : Nat :=
  let b := (recTeams r + recField r 0x20 1 - 1) / recField r 0x20 1
  if recField r 0x22 2 = 0 then min service b else min (recField r 0x22 2) b

/-- The grid that a record describes, before its groups are bound. -/
def gridOf (q : Queue) (r : Line) (h : Header) (d nbatch : Nat) (now : Nat) : Grid :=
  let f (off n : Nat) : Nat := recField r off n
  let flags := f 0xc 4
  let l : Launch := { Launch.none with
    queue := q.num, index := q.head, cls := q.cls, eligible := q.eligible.getD now, power := flags / 4 % 2 = 1, pref := f 0x20 1, fall := f 0x21 1
    podBytes := f 0x28 4, args := BitVec.ofNat 64 (f 0x30 8), overflow := BitVec.ofNat 64 (f 0x40 8), nbatch := nbatch, signal := BitVec.ofNat 64 (f 0x58 8)
    watchdog := f 0x60 4, floor := q.waitW.getD 0, inSet := true, since := now }
  let g : Grid := ⟨h, BitVec.ofNat 64 (f 0 8 + f 8 4), recTeam r, recTeams r, d, flags % 2 = 1, flags / 2 % 2 = 1, flags / 2 ^ 8 % 2 = 1, f 0x64 2, f 0x24 4,
    BitVec.ofNat 64 (f 0x38 8), none, 0, 0, l⟩
  { g with l := { g.l with dies := List.replicate d none, next := (List.range d).map g.groupStart } }

/-! ### Queues (R394, R398, R402) -/

def State.queue? (s : State) (n : Nat) : Option Queue := s.queues.find? (·.num = n)
def State.modQueue (s : State) (n : Nat) (f : Queue → Queue) : State := { s with queues := s.queues.map fun q => if q.num = n then f q else q }

/-- The queue reads and dispatches. -/
def Queue.live (q : Queue) : Bool := q.enable && !q.stopped

/-- The control block as a unit of BN1 reaches it. -/
def State.ctlReach (s : State) (q : Queue) (kind : Nat) : State × Reach := s.unitReach bn1 q.asid kind q.ctl (.ring q.num)

/-- Record an error in a queue's control block, with its notice; type 3 of a launch, 4 of the queue. -/
def State.recordError (s : State) (q : Queue) (type idx code : Nat) : Pooled Unit :=
  let n := (q.errcnt + 1) % 2 ^ 32
  let detail := q.num + (if type = 3 then idx % 2 ^ 48 * 2 ^ 16 else 0)
  let out (s : State) : State := (s.modQueue q.num fun q => { q with errcnt := n }).notice type code 1 distAgent 0 detail
  match s.ctlReach q kStore with
  | (s, .wait) => .wait s
  | (s, .declined) => .dead (out s)
  | (s, .at pa) =>
    let v := n + code * 256 ^ 4 + (if type = 4 then 256 ^ 5 else 0) + idx % 2 ^ 64 * 256 ^ 8
    .ok (out (s.distStore (.ring q.num) (pa + 0x10) 16 v)) ()

/-- Stop a queue (R398): what cannot be written is left out. -/
def State.stopQueue (s : State) (n code : Nat) : State :=
  match s.queue? n with
  | none => s
  | some q =>
    let s := s.modQueue n fun q => { q with stopped := true, record := none, waitW := none, eligible := none, kept := [], zeroed := none }
    match (s.dropHead n).recordError q 4 q.head code with
    | .ok s _ => s
    | .dead s => s
    | .wait s => (s.modQueue n fun q => { q with errcnt := (q.errcnt + 1) % 2 ^ 32 }).notice 4 code 1 distAgent 0 n

/-- The head record is consumed: HEAD is written and the next record is the head. -/
def State.consume (s : State) (q : Queue) (pa : Nat) : State :=
  ((s.dropHead q.num).distStore (.ring q.num) (pa + 8) 8 (q.head + 1)).modQueue q.num fun q =>
    { q with head := q.head + 1, record := none, waitW := none, eligible := none, declined := [], kept := [], zeroed := none }

/-- Raise SIGNAL_ADDR: done, or still to be done, or declined. -/
def State.signal (s : State) (asid va : Nat) (u : UnitUse) : Pooled Unit :=
  if va = 0 then .ok s ()
  else match s.unitReach bn1 asid kAtomic va u with
    | (s, .wait) => .wait s
    | (s, .declined) => .dead s
    | (s, .at pa) => .ok (s.unitAdd .dist (.unit u) pa 1) ()

end Sys2Proof.Machine
end

