-- ==== Sys2Proof/Machine/Seat.lean ====
section
/-! DEFINITION. Seating teams: the core a team or gang goes to, the die a group is bound to, placing, resuming and
pre-empting (R117, R406, R408, R411 to R417, R465, R473). -/

namespace Sys2Proof.Machine

/-! ### Order of launches (R406) -/

/-- Effective priority of a class eligible since e. -/
def prioAt (cls e now : Nat) : Nat := min (cls + (now - e) / 200000) 4

/-- (class, e) of the first comes before that of the second. -/
def takenBefore (now : Nat) (a b : Nat × Nat) : Bool :=
  prioAt b.1 b.2 now < prioAt a.1 a.2 now || (prioAt a.1 a.2 now = prioAt b.1 b.2 now && a.2 < b.2)

/-- TC of bridge BN1, by which the distributor orders launches (R407). -/
def State.tcDist (s : State) : Nat := s.tcAt bn1Unit

def Launch.age (l : Launch) : Nat × Nat := (l.cls, l.eligible)

def State.launchBefore (s : State) (a b : Grid) : Bool := takenBefore s.tcDist a.l.age b.l.age

/-! ### One team on one core (R117, R167, R413) -/

/-- The record of a team not yet seated. -/
def Team.fresh (group warps now : Nat) : Team := ⟨0, 0, group, 0, warps, false, 0, [], [], [], [], now, 0, [], none, 1, 0, none⟩

/-- Seat a team on a core, with its areas and warp slots; the first team of a pool grid there brings the Pod. -/
def State.seat (s : State) (t : TeamKey) (g : Grid) (tm : Team) (die core gang : Nat) : Option State :=
  if !s.teamFits die core t.grid g then none
  else match s.fitAreas die core t.grid g with
    | none => none
    | some a =>
      let tm := { tm with die := die, core := core, scratch := a.scratch, spillAt := a.spill, resident := true, cleared := 0, maps := [], bars := [], cerrs := [],
                          slots := (s.freeSlots die core).take tm.warps, placedAt := s.now, gangsize := gang, home := none }
      let pods := match a.pod with
        | some b => s.pods ++ [⟨die, core, t.grid, b, g.podBytes / 128, [], 0⟩]
        | none => s.pods
      some { s with teams := s.teams.put t tm, pods := pods }

/-- Seat teams one after another on named cores. -/
def State.seatAll (s : State) (g : Grid) (die gang : Nat) : List (TeamKey × Team × Nat) → Option State
  | [] => some s
  | (t, tm, core) :: rest => match s.seat t g tm die core gang with
    | none => none
    | some s => s.seatAll g die gang rest

/-- Seat teams in a cluster, each on the lowest-numbered core where it fits. -/
def State.seatLowest (s : State) (g : Grid) (die cluster gang : Nat) : List (TeamKey × Team) → Option State
  | [] => some s
  | (t, tm) :: rest =>
    match ((List.range 4).map (cluster * 4 + ·)).find? fun c => s.teamFits die c t.grid g with
    | none => none
    | some c => match s.seat t g tm die c gang with
      | none => none
      | some s => s.seatLowest g die cluster gang rest

/-- The first cluster of a die in which all the teams fit. -/
def State.seatGang (s : State) (g : Grid) (die gang : Nat) (ts : List (TeamKey × Team)) : Option State :=
  (List.range (s.coresPerDie / 4)).findSome? fun c => s.seatLowest g die c gang ts

/-- No team is resident on a cluster. -/
def State.clusterFree (s : State) (die c : Nat) : Bool := !(s.teams.any fun p => p.2.resident && p.2.die = die && p.2.core / 4 = c)

/-! ### The next gang of a group (R410, R411) -/

/-- Teams numbered from `first`, not yet seated. -/
def State.newTeams (s : State) (gid group first n : Nat) (g : Grid) : List (TeamKey × Team) :=
  (List.range n).map fun i => (⟨gid, first + i⟩, Team.fresh group g.teamWarps s.now)

/-- The first team behind the block that holds team `first` of a group. -/
def Grid.blockStop (g : Grid) (group first : Nat) : Nat := min (g.groupStart (group + 1)) ((first / g.l.pref + 1) * g.l.pref)

/-- Teams of the gang from team `first` where its block is not placed as a whole. -/
def Grid.fallSize (g : Grid) (group first : Nat) : Nat := if g.l.pref = 1 then 1 else if g.l.fall ≤ g.blockStop group first - first then g.l.fall else 1

/-- The seats of the next gang from team `first` of a group: the state with its teams seated, and their number. -/
def State.gangSeats (s : State) (gid : Nat) (g : Grid) (group die first : Nat) : Option (State × Nat) :=
  let stop := g.blockStop group first
  if stop ≤ first then none
  else if g.l.pref = 1 then
    (match (List.range s.coresPerDie).find? fun c => s.teamFits die c gid g with
      | none => none
      | some c => (s.seatAll g die 1 ((s.newTeams gid group first 1 g).map fun t => (t.1, t.2, c))).map fun s => (s, 1))
  else
    let whole : Option State :=
      if stop - first < g.l.pref then none
      else match (List.range (s.coresPerDie / 4)).find? (s.clusterFree die) with
        | none => none
        | some c => s.seatAll g die g.l.pref ((s.newTeams gid group first g.l.pref g).zipIdx.map fun p => (p.1.1, p.1.2, 4 * c + p.2))
    match whole with
    | some s => some (s, g.l.pref)
    | none =>
      let n := g.fallSize group first
      (s.seatGang g die n (s.newTeams gid group first n g)).map fun s => (s, n)

/-- Next team of a group to place. -/
def Grid.nextOf (g : Grid) (group : Nat) : Nat := (g.l.next[group]?).getD 0

/-- Teams of the group are still to be placed. -/
def Grid.left (g : Grid) (group : Nat) : Bool := g.nextOf group < g.groupStart (group + 1)

def Grid.dieOf (g : Grid) (group : Nat) : Option Nat := (g.l.dies[group]?).bind id

/-- Groups of a grid that are bound to a die. -/
def Grid.groupsOn (g : Grid) (die : Nat) : List Nat := (List.range g.ndie).filter fun n => g.dieOf n = some die

/-! ### Whole groups and empty dies (R401, R410, R414) -/

/-- Seat all of a group's remaining teams. -/
def State.groupSeats (s : State) (gid : Nat) (g : Grid) (group die first : Nat) : Nat → Option State
  | 0 => none
  | fuel + 1 =>
    if g.groupStart (group + 1) ≤ first then some s
    else match s.gangSeats gid g group die first with
      | none => none
      | some (s, n) => s.groupSeats gid g group die (first + n) fuel

/-- Seat a whole group of a launch that is not yet a grid. -/
def State.holdsGroup (s : State) (g : Grid) (group die : Nat) : Option State :=
  { s with grids := s.grids.put 0 g }.groupSeats 0 g group die (g.groupStart group) (g.nteam + 1)

/-- The state with nothing resident. -/
def State.vacant (s : State) : State := { s with teams := [], warps := [], pods := [], grids := [] }

/-- One team fits an empty core. -/
def State.oneFits (s : State) (g : Grid) : Bool := s.vacant.teamFits 0 0 0 g

/-- Every group of a cooperative launch fits an empty die. -/
def State.groupsFit (s : State) (g : Grid) : Bool := (List.range g.ndie).all fun n => (s.vacant.holdsGroup g n 0).isSome

def Grid.withGroups (g : Grid) (d : Nat) : Grid :=
  let g := { g with ndie := d }
  { g with l := { g.l with dies := List.replicate d none, next := (List.range d).map g.groupStart } }

/-- The number of groups of a cooperative launch that leaves it to the distributor: the smallest that fits. -/
def State.coopGroups (s : State) (g : Grid) : Option Nat :=
  ((List.range (min 128 g.blocks)).map (· + 1)).find? fun d => s.groupsFit (g.withGroups d)

/-! ### Binding groups to dies (R412, R414) -/

def State.serviceDies (s : State) : List Nat := (List.range 128).filter s.panel.inService

def State.freeCores (s : State) (die : Nat) : Nat :=
  ((List.range s.coresPerDie).filter fun c => !(s.teams.any fun p => p.2.resident && p.2.die = die && p.2.core = c)).length

/-- Put a die into a list ordered by free cores, the most first; equal ones keep their order. -/
def insertDie (x : Nat × Nat) : List (Nat × Nat) → List (Nat × Nat)
  | [] => [x]
  | y :: ys => if y.2 < x.2 then x :: y :: ys else y :: insertDie x ys

/-- Dies in service, those with the most free cores first. -/
def State.diesByRoom (s : State) : List Nat := ((s.serviceDies.map fun d => (d, s.freeCores d)).foldl (fun l x => insertDie x l) []).map (·.1)

/-- Bind the groups of a launch that is not cooperative. -/
def State.bindGroups (s : State) (g : Grid) : List (Option Nat) :=
  let ds := s.diesByRoom
  (List.range g.ndie).map fun n => ds[n % ds.length]?

/-- Dies of the launches in the set that are cooperative, and those kept for a cooperative head. -/
def State.coopDies (s : State) (not : Nat) : List Nat :=
  s.grids.flatMap fun p => if p.1 ≠ not && p.2.coop && p.2.l.inSet then p.2.l.dies.filterMap id else []

/-- Bind the groups of a cooperative launch, the larger groups first, each to a die that holds all of it at once. -/
def State.coopBind (s : State) (g : Grid) : List Nat → List Nat → List (Nat × Nat) → Option (List (Nat × Nat))
  | [], _, acc => some acc
  | n :: ns, ds, acc =>
    match ds.findSome? fun d => (s.holdsGroup g n d).map fun t => (d, t) with
    | none => none
    | some (d, t) => t.coopBind g ns (let rest := ds.filter (· ≠ d); if rest = [] then s.diesByRoom.filter (fun d => !(s.coopDies 0).contains d) else rest) ((n, d) :: acc)

/-- The groups of a launch by size, the largest first. -/
def Grid.bySize (g : Grid) : List Nat := ((List.range g.ndie).foldl (fun l n => insertDie (n, g.groupStart (n + 1) - g.groupStart n) l) []).map (·.1)

/-- The dies a cooperative launch can be placed on now. -/
def State.coopDiesFor (s : State) (g : Grid) : Option (List (Option Nat)) :=
  let ds := s.diesByRoom.filter fun d => !(s.coopDies 0).contains d
  (s.coopBind g g.bySize ds []).map fun bs => (List.range g.ndie).map fun n => (bs.find? (·.1 = n)).map (·.2)

/-- A group of which nothing is resident and whose die takes no launches is bound again (R412). -/
def State.rebind (s : State) : State :=
  { s with grids := s.grids.map fun p =>
      let ds := p.2.l.dies.zipIdx.map fun b =>
        match b.1 with
        | none => none
        | some d =>
          let mine := s.teams.filter fun t => t.1.grid = p.1 && t.2.group = b.2
          if s.panel.inService d || mine.any (fun t => t.2.resident || t.2.home.isSome) then some d
          else match s.diesByRoom.find? (fun e => !p.2.l.dies.contains (some e)) <|> s.diesByRoom.head? with
            | some e => some e
            | none => some d
      (p.1, { p.2 with l := { p.2.l with dies := ds, waits := p.2.l.waits.zipIdx.map fun w => if ds[w.2]? = p.2.l.dies[w.2]? then w.1 else s.now } }) }

/-! ### Waiting teams -/

/-- A gang that waits on a die to be placed or resumed: its first team, its size, since when. -/
structure Waiting where
  t : TeamKey
  n : Nat
  since : Nat
  out : Bool                  -- pre-empted
deriving DecidableEq, Repr

/-- First team of a team's gang. -/
def State.gangFirst (s : State) (t : TeamKey) : TeamKey := ⟨t.grid, t.team - t.team % s.gangOf t⟩

/-- Teams of a gang, or of a cooperative launch's whole die group (R122, R416). -/
def State.company (s : State) (t : TeamKey) : List (TeamKey × Team) :=
  match s.grid? t.grid, s.team? t with
  | some g, some tm => s.teams.filter fun p => p.1.grid = t.grid && (if g.coop then p.2.group = tm.group else s.gangFirst p.1 = s.gangFirst t)
  | _, _ => []

/-- The die of a team's group. -/
def State.teamDie (s : State) (p : TeamKey × Team) : Option Nat := (s.grid? p.1.grid).bind fun g => g.dieOf p.2.group

/-- Pre-empted companies that wait on a die, each by its first team. -/
def State.outWaiting (s : State) (die : Nat) : List Waiting :=
  (s.teams.filter fun p => !p.2.resident && p.2.behind = [] && s.teamDie p = some die && (s.company p.1).all (fun q => !q.2.resident) &&
      (s.company p.1).head?.any (·.1 = p.1) && (s.grid? p.1.grid).any (fun g => g.ending.isNone)).map fun p => ⟨p.1, (s.company p.1).length, p.2.outAt, true⟩

/-- New gangs of launches in the set that wait on a die, each by its first team. -/
def State.newWaiting (s : State) (die : Nat) : List Waiting :=
  s.grids.flatMap fun p =>
    if !p.2.l.inSet || p.2.ending.isSome then []
    else (p.2.groupsOn die).filterMap fun n =>
      if p.2.left n then some ⟨⟨p.1, p.2.nextOf n⟩, p.2.fallSize n (p.2.nextOf n), (p.2.l.waits[n]?).getD 0, false⟩ else none

def State.waitingOn (s : State) (die : Nat) : List Waiting := s.outWaiting die ++ s.newWaiting die

/-- Of two waiting gangs the first: by R406 for their launches, then the one that has waited longest, then the lower team. -/
def State.waitsBefore (s : State) (a b : Waiting) : Bool :=
  match s.grid? a.t.grid, s.grid? b.t.grid with
  | some g, some h =>
    if a.t.grid ≠ b.t.grid && s.launchBefore g h then true
    else if a.t.grid ≠ b.t.grid && s.launchBefore h g then false
    else a.since < b.since || (a.since = b.since && a.t.team < b.t.team)
  | _, _ => false

def State.firstWaiting (s : State) (l : List Waiting) : Option Waiting :=
  l.foldl (fun b x => match b with
    | none => some x
    | some y => if s.waitsBefore x y then some x else some y) none

/-! ### Seats of a pre-empted company (R122, R145, R412) -/

/-- The places a cooperative group left are free for it. -/
def State.seatSame (s : State) (g : Grid) (die : Nat) : List (TeamKey × Team) → Option State
  | [] => some s
  | (t, tm) :: rest =>
    let l := s.areas die tm.core
    if tm.die ≠ die || !areaFree l tm.scratch (roundUpTo 1024 g.scratch) then none
    else match s.seat t g tm die tm.core tm.gangsize with
      | none => none
      | some u =>
        -- the scratch is where it was; the other areas go where they fit beside it
        let l := (tm.scratch, roundUpTo 1024 g.scratch) :: l
        match fitDown l (spillBytes g) with
        | none => none
        | some sp =>
          let pod := fitDown ((sp, spillBytes g) :: l) g.podBytes
          if g.pool && (s.podOf die tm.core t.grid).isNone && pod.isNone then none
          else
            let u := { u with teams := u.teams.modify t fun x => { x with scratch := tm.scratch, spillAt := sp } }
            let u := if (s.podOf die tm.core t.grid).isNone then { u with pods := u.pods.map fun p => if p.die = die && p.core = tm.core && p.grid = t.grid then { p with base := pod.getD p.base } else p } else u
            u.seatSame g die rest

/-- Seats for a company that resumes: a cooperative group on its own cores, a gang in a cluster, a single team on any
core; `at'` names the core, or a core of the cluster. A team that holds a pending copy stays in its cluster. -/
def State.resumeSeats (s : State) (g : Grid) (die : Nat) (ts : List (TeamKey × Team)) (at' : Nat) : Option State :=
  let gang := (ts.head?.map (·.2.gangsize)).getD 1
  if g.coop then s.seatSame g die ts
  else if ts.any fun p => p.2.home.any (· ≠ at' / 4) then none
  else if gang = 1 then s.seatAll g die 1 (ts.map fun p => (p.1, p.2, at'))
  else s.seatLowest g die (at' / 4) gang ts

/-- The company fits somewhere on the die. -/
def State.resumeFits (s : State) (g : Grid) (die : Nat) (ts : List (TeamKey × Team)) : Bool :=
  if g.coop then (s.seatSame g die ts).isSome
  else (List.range s.coresPerDie).any fun c => (s.resumeSeats g die ts c).isSome

/-! ### Power gating met by a placement (R30, R31) -/

/-- The die is powered, or its gating sequence is aborted; otherwise it is woken, and the placement comes again. -/
def State.powered (s : State) (die : Nat) : State × Bool :=
  match s.panel.gating.get 0 die with
  | 0 => (s, true)
  | 1 => ({ s with panel := { s.panel with gating := s.panel.gating.put 0 die 0 } }, true)
  | 2 => ({ s with panel := { s.panel with gating := s.panel.gating.put 0 die 3 } }, false)
  | _ => (s, false)

/-! ### The argument block (R401) -/

/-- Read a team's argument block; its warps may then issue. -/
def State.tryArgs (s : State) (t : TeamKey) : State :=
  match s.team? t, s.grid? t.grid with
  | some tm, some g =>
    if !tm.resident || tm.args.isSome || g.ending.isSome then s
    else match s.unitBytes (.dispatcher tm.die) g.asid g.l.args.toNat 64 (.args t) with
      | .wait s => s
      | .dead s => s.endGrid t.grid 8
      | .ok s d =>
        if d.poison then s.endGrid t.grid 17
        else
          let v : BitVec 512 := BitVec.ofNat 512 d.val
          { (s.dropLooks (.unit (.args t))).modTeam t fun tm => { tm with args := some v } with
            warps := s.warps.map fun p => if p.1.teamKey = t && p.1.ctx = 0 then (p.1, { p.2 with r := p.2.r.setArgs g.header v }) else p }
  | _, _ => s

/-- Teams whose argument block is still to be read. -/
def State.tryAllArgs (s : State) : State := (s.teams.filter fun p => p.2.resident && p.2.args.isNone).foldl (fun s p => s.tryArgs p.1) s

/-! ### Placing (R169, R375, R411, R413) -/

/-- Start the warps of a team that has just been seated. -/
def State.startWarps (s : State) (t : TeamKey) (g : Grid) (tm : Team) : State :=
  let threads := g.dims.1 * g.dims.2.1 * g.dims.2.2
  (List.range tm.warps).foldl (fun s i =>
    let live := fullMask (min g.header.width (threads - i * g.header.width))
    let r := (Regs.start g.entry live).raiseAll live g.l.floor
    let w := Warp.start r g.header.width tm.die tm.core ((tm.slots[i]?).getD 0) s.nextId (s.activeCount tm.die tm.core < 8)
    { s with nextId := s.nextId + 1 }.setWarp ⟨t.grid, t.team, i, 0⟩ { w with lastIssue := s.now }) s

/-- A placed or resumed team no longer stands before another. -/
def State.unblock (s : State) (ts : List TeamKey) : State :=
  { s with teams := s.teams.map fun p => (p.1, { p.2 with behind := p.2.behind.filter fun b => !ts.contains b }) }

/-- Teams that will not be placed any more, because their grid ends, stand before none. -/
def State.unblockEnded (s : State) : State :=
  { s with teams := s.teams.map fun p => (p.1, { p.2 with behind := p.2.behind.filter fun b => (s.grid? b.grid).any fun g => g.ending.isNone }) }

/-- Dies on which no launch but grid `gid` may place: those of a cooperative launch in the set, and those kept for a
cooperative head (R414). -/
def State.keptFrom (s : State) (gid die : Nat) : Bool := (s.coopDies gid).contains die || s.queues.any fun q => q.live && q.kept.contains die

/-- The next gang of the launch may not be placed on the die now: an earlier launch of the set takes the place or has
reserved the die, or a pre-empted team of the same launch comes first (R408, R412, R414, R417). -/
def State.heldUp (s : State) (gid : Nat) (g : Grid) (die : Nat) : Bool :=
  s.keptFrom gid die ||
    (s.grids.any fun p => p.1 ≠ gid && p.2.l.inSet && p.2.ending.isNone && s.launchBefore p.2 g && (p.2.groupsOn die ≠ []) &&
      (p.2.l.reserving || (p.2.groupsOn die).any fun n => p.2.left n && (s.gangSeats p.1 p.2 n die (p.2.nextOf n)).isSome)) ||
    (s.outWaiting die).any fun w => w.t.grid = gid

/-- After a placement of the launch: its count, and the launches it has passed. -/
def State.placed (s : State) (gid group n : Nat) (g : Grid) : State :=
  let l := { g.l with next := g.l.next.set group (g.nextOf group + n), since := s.tcDist, passed := none, reserving := false, preempting := false, waits := g.l.waits.set group s.now }
  let g' := { g with l := l }
  let g' := { g' with l := { l with inSet := !g'.allPlaced } }
  { s with grids := s.grids.map fun p =>
      if p.1 = gid then (p.1, g')
      else if p.2.l.inSet && s.launchBefore p.2 g then (p.1, { p.2 with l := { p.2.l with passed := some (p.2.l.passed.getD s.now) } })
      else p }

/-- Place the next team or gang of a launch on a die; `core` is the core of its first team. -/
def State.placeTeam (s : State) (gid die core : Nat) : State :=
  let s := s.rebind.unblockEnded
  match s.grid? gid with
  | none => s
  | some g =>
    if !g.l.inSet || g.ending.isSome || !s.panel.inService die || s.dieDown die || s.panel.sitesOut ≠ [] || s.heldUp gid g die then s
    else match (g.groupsOn die).find? g.left with
      | none => s
      | some n =>
        let first := g.nextOf n
        match s.gangSeats gid g n die first with
        | none => s
        | some (_, m) =>
          match s.powered die with
          | (s, false) => s
          | (s, true) =>
            match s.gangSeats gid g n die first with
            | none => s
            | some (u, _) =>
              if (u.team? ⟨gid, first⟩).any (·.core ≠ core) then s
              else
                let ts := (List.range m).map fun i => (⟨gid, first + i⟩ : TeamKey)
                let s := ts.foldl (fun s t => match s.team? t with
                  | some tm => s.startWarps t g tm
                  | none => s) u
                ((ts.foldl (fun s t => s.tryArgs t) ((s.placed gid n m g).unblock ts)).reclass die).noteIdle die

/-! ### Pre-emption and resume (R463, R465, R473) -/

/-- The dispatcher asks for a team's pre-emption, and that of its gang or cooperative group. -/
def State.requestPreempt (s : State) (t : TeamKey) (behind : List TeamKey) : State :=
  (s.company t).foldl (fun s p =>
    if !p.2.resident then s
    else
      let any : Bool := s.liveWarps p.1 ≠ []
      let s := { s with warps := s.warps.map fun (q : WarpKey × Warp) =>
        if q.1.teamKey = p.1 && q.1.ctx = 0 then
          (q.1, if any then (if q.2.r.live ≠ 0 && !q.2.parked then { q.2 with pending := { q.2.pending with preempt := true } } else q.2) else { q.2 with parked := true })
        else q }
      (s.modTeam p.1 fun tm => { tm with behind := behind }).tryLeave p.1) s

/-- Resume the warps of a team that has been seated again. -/
def State.resumeWarps (s : State) (t : TeamKey) (g : Grid) (tm : Team) : State :=
  ((s.ownWarps t).zipIdx).foldl (fun s p =>
    let k := p.1.1
    let w : Warp := { p.1.2 with die := tm.die, core := tm.core, slot := (tm.slots[p.2]?).getD 0, age := s.nextId, parked := false, saving := 0, saved := 0, wait := .none, lastIssue := s.now }
    let w := if w.r.live = 0 then w
      else { w with r := w.r.resumed g.header s.nextId, active := s.activeCount tm.die tm.core < 8, trapping := some ⟨cResume, 0, 0, wholeWarp, 0, 0, false, true, true⟩ }
    { s with nextId := s.nextId + 1 }.setWarp k w) s

/-- Resume a pre-empted team with its gang or group; `core` is its core, or lies in its cluster. -/
def State.resumeTeam (s : State) (t : TeamKey) (die core : Nat) : State :=
  let s := s.rebind.unblockEnded
  let ws := s.outWaiting die
  match ws.find? (·.t = t), s.grid? t.grid with
  | some w, some g =>
    let ts := s.company t
    let earlier (v : Waiting) : Bool := s.waitsBefore v w && (s.grid? v.t.grid).any fun h => s.resumeFits h die (s.company v.t)
    if !s.panel.inService die || s.dieDown die || s.panel.sitesOut ≠ [] || s.keptFrom t.grid die || ws.any earlier || (s.resumeSeats g die ts core).isNone then s
    else match s.powered die with
      | (s, false) => s
      | (s, true) => match s.resumeSeats g die ts core with
        | none => s
        | some u =>
          let keys := ts.map (·.1)
          let s := keys.foldl (fun s t => match s.team? t with
            | some tm => s.resumeWarps t g tm
            | none => s) u
          ((s.unblock keys).reclass die).noteIdle die
  | _, _ => s

/-! ### Events -/

/-- A dispatcher places the next team or gang of a launch (R413). -/
def execTeamPlace (s : State) : Res := .next (s.placeTeam s.arg.n s.arg.m s.arg.k)

/-- A dispatcher asks a team to park (R465). -/
def execPreemptRequest (s : State) : Res := .next (s.requestPreempt s.arg.t [])

/-- A parked team resumes (R473). -/
def execTeamResume (s : State) : Res := .next (s.resumeTeam s.arg.t s.arg.n s.arg.m)

end Sys2Proof.Machine
end

