-- ==== Sys2Proof/Machine/Admit.lean ====
section
/-! DEFINITION. Queues and launches: reading a queue's tail and head record, admission and refusal, rotation, the queue
table, and the end of a grid (R394 to R409, R414, R420, R427). -/

namespace Sys2Proof.Machine

/-! ### The head of a queue (R401, R403, R406) -/

/-- What the distributor's tests of a head give. -/
inductive HeadCheck where
  | wait (s : State)
  | bad (s : State) (code : Nat)
  | ok (s : State) (g : Grid)

/-- A read was declined: noted with the queue. -/
def State.noteDecline (s : State) (n what : Nat) : State :=
  s.modQueue n fun q => { q with declined := if q.declined.contains what then q.declined else q.declined ++ [what] }

/-- Tests of the resources, of a cooperative launch's places and of the argument block, in the order of R401. -/
def State.headPlaces (s : State) (q : Queue) (r : Line) (h : Header) : HeadCheck :=
  let g := gridOf q r h (groupCount r s.serviceDies.length) 0 s.tcDist
  let g := if g.coop && recField r 0x22 2 = 0 then (s.coopGroups g).map g.withGroups else some g
  if !h.countsOk then .bad s 3
  else match g with
    | none => .bad s (if s.oneFits (gridOf q r h 1 0 0) then 7 else 3)
    | some g =>
      if !s.oneFits g then .bad s 3
      else if g.coop && s.serviceDies ≠ [] && (s.vacant.coopDiesFor g).isNone then .bad s 7
      else if q.declined.contains 1 then .bad s 8
      else match s.unitPages bn1 q.asid kLoad (.launchArgs q.num) (pagesOf g.l.args.toNat 64) [] with
        | .wait u => .wait u
        | .dead u => .bad (u.noteDecline q.num 1) 8
        | .ok s _ => if q.declined.contains 2 then .bad s 8 else .ok s g

/-- The tests of a head record, but for its wait. -/
def State.headCheck (s : State) (q : Queue) (r : Line) : HeadCheck :=
  let after (s : State) (h : Option (Option Header)) : HeadCheck :=
    if recordCode r h q.asid ≠ 0 then .bad s (recordCode r h q.asid)
    else match h.bind id with
      | none => .bad s 8
      | some h => s.headPlaces q r h
  if recordCode0 r ≠ 0 then .bad s (recordCode0 r)
  else if q.declined.contains 0 then after s none
  else match s.distBytes q.asid (recField r 0 8 + recField r 8 4 - 64) 64 (.header q.num) with
    | .wait u => .wait u
    | .dead u => after (u.noteDecline q.num 0) none
    | .ok s d => after s (some (Header.parse d.val))

/-- The head's wait: it is met, or the word is watched (R403). -/
def State.headWait (s : State) (q : Queue) (r : Line) : State :=
  let va := recField r 0x48 8
  let now := s.tcDist
  if va = 0 then s.modQueue q.num fun q => { q with eligible := some now }
  else match s.distBytes q.asid va 8 (.waitAddr q.num) with
    | .wait u => u
    | .dead u => u.noteDecline q.num 2
    | .ok s d =>
      let s := s.dropLooks (.unit (.waitAddr q.num))
      let watch (s : State) : State := match (s.unitReach bn1 q.asid kLoad va (.waitAddr q.num)).2 with
        | .at pa => s.distWatch pa d.w (2 * q.num + 1)
        | _ => s
      if d.poison then watch (s.notice 5 0 1 distAgent 0 q.num)
      else if recField r 0x50 8 ≤ d.val then s.modQueue q.num fun q => { q with waitW := some d.w, eligible := some now }
      else watch s

/-- Look at a queue's head: once it is valid and its wait is met, it is eligible. -/
def State.headTry (s : State) (n : Nat) : State :=
  match s.queue? n with
  | none => s
  | some q => match q.record with
    | none => s
    | some r =>
      if !q.live || !q.mapped || q.eligible.isSome then s
      else match s.headCheck q r with
        | .wait u => u
        | .bad u _ => u
        | .ok s _ => s.headWait q r

/-! ### Reading a queue (R397, R398, R404) -/

/-- Bind TAIL, and read the head record that it covers. At the first read after ENABLE the block's own fields are taken. -/
def State.bindTail (s : State) (n : Nat) : State :=
  match s.queue? n with
  | none => s
  | some q =>
    let drop (s : State) : State := s.dropLooks (.unit (.ring n))
    if !q.live || !q.mapped then s
    else match s.ctlReach q kLoad with
      | (s, .wait) => s
      | (s, .declined) => s.stopQueue n 8
      | (s, .at pa) =>
        match s.distBytes q.asid q.ctl 128 (.ring n) with
        | .wait s => s
        | .dead s => s.stopQueue n 8
        | .ok s d =>
          let tail := imageField d.val 0 8
          let head := if q.fresh then imageField d.val 8 8 else q.head
          let s := (s.distWatch pa d.w (2 * n)).modQueue n fun q =>
            if q.fresh then { q with head := head, tail := tail, errcnt := imageField d.val 0x10 4, stopped := imageField d.val 0x15 1 ≠ 0, fresh := false }
            else { q with tail := tail }
          if q.fresh && imageField d.val 0x15 1 ≠ 0 then drop s
          else if tail < head || head + 2 ^ q.log < tail then s.stopQueue n 15
          else if tail = head then drop s
          else if q.record.isSome && !q.fresh then (drop s).headTry n
          else match s.distBytes q.asid (q.base + head % 2 ^ q.log * 128) 128 (.ring n) with
            | .wait s => s
            | .dead s => s.stopQueue n 8
            | .ok s d => ((drop s).modQueue n fun q => { q with record := some (BitVec.ofNat 1024 d.val) }).headTry n

/-- Every queue that holds a slot is looked at again. -/
def State.bindAll (s : State) : State := (s.queues.filter (·.mapped)).foldl (fun s q => s.bindTail q.num) s

/-! ### Admission and refusal (R402, R408, R414) -/

/-- Refuse a head: its error is recorded, its record consumed, and SIGNAL_ADDR raised. A misaligned SIGNAL_ADDR cannot be
raised. -/
def State.refuseHead (s : State) (q : Queue) (r : Line) (code : Nat) : State :=
  let sva := recField r 0x58 8
  let sig : State × Option Reach :=
    if sva = 0 || sva % 8 ≠ 0 then (s, none)
    else if q.declined.contains 4 then (s, some .declined)
    else let p := s.unitReach bn1 q.asid kAtomic sva (.refused q.num); (p.1, some p.2)
  match sig with
  | (s, some .wait) => s
  | (s, sig) => match s.ctlReach q kStore with
    | (s, .wait) => s
    | (s, .declined) => s.stopQueue q.num 8
    | (s, .at pa) =>
      let record (s : State) (code : Nat) : State := match s.queue? q.num with
        | none => s
        | some q => match s.recordError q 3 q.head code with
          | .ok s _ => s
          | .dead s => s
          | .wait s => s
      let s := record s code
      let s := match sig with
        | some .declined => record s 18
        | some (.at pa) => s.unitAdd .dist (.unit (.refused q.num)) pa 1
        | _ => s
      s.consume q pa

/-- Launches in the dispatching set. -/
def State.setSize (s : State) : Nat := (s.grids.filter fun p => p.2.l.inSet).length

/-- The line of the overflow header at offset 128·i, its device words zero: OUTSTANDING in line 0, and the queue words of eight groups
in each of lines 16 to 31. -/
def zeroCounts (pa i : Nat) : Msg :=
  let mask := if i = 0 then byteMask 0 8 else (List.range 8).foldl (fun (m : BitVec 128) j => m ||| byteMask (16 * j) 8) 0
  { id := 0, ty := .storeReq, src := 0, dst := 0, addr := pa + 128 * i, mask := mask, data := 0 }

/-- Prepare the overflow header of a pool grid (R427): NBATCH is read, and the counts become zero, which has performed and passed
before the first team is placed. -/
def State.poolHeader (s : State) (q : Queue) (g : Grid) : Pooled Nat :=
  let va := g.l.overflow.toNat
  if q.declined.contains 3 then .dead s
  else match s.unitReach bn1 q.asid kStore va (.overflow q.num) with
    | (s, .wait) => .wait s
    | (s, .declined) => .dead s
    | (s, .at pa) => (s.distBytes q.asid (va + 8) 4 (.overflow q.num)).then' fun s d =>
      if d.poison then .dead s
      else match q.zeroed with
        | none =>
          let s := ((0 :: (List.range 16).map (16 + ·)).foldl (fun s i => s.unitSend .dist (.unit (.overflow q.num)) (zeroCounts pa i)) s)
          .wait (s.modQueue q.num fun q => { q with zeroed := some 0 })
        | some w => if s.unitBusy (.unit (.overflow q.num)) || !s.passed bn1Unit w then .wait s else .ok s d.val

/-- A store of the overflow header's zeros has performed; one that the home refuses counts as declined. -/
def State.zeroPut (s : State) (n w : Nat) (refused : Bool) : State :=
  if refused then s.noteDecline n 3 else s.modQueue n fun q => { q with zeroed := q.zeroed.map (max w) }

/-- A launch joins the dispatching set and its record is consumed. -/
def State.takeLaunch (s : State) (q : Queue) (g : Grid) (dies : List (Option Nat)) : State :=
  match s.ctlReach q kStore with
  | (s, .wait) => s
  | (s, .declined) => s.stopQueue q.num 8
  | (s, .at pa) =>
    let join (s : State) (g : Grid) : State := { s.consume q pa with grids := s.grids.put s.nextGrid g, nextGrid := s.nextGrid + 1 }
    let g := { g with l := { g.l with dies := dies, waits := List.replicate g.ndie s.now } }
    if !g.pool then join s g
    else match s.poolHeader q g with
      | .wait u => u
      | .dead u => join u { g with ending := some 17, l := { g.l with inSet := false } }
      | .ok s n => join s { g with l := { g.l with nbatch := n } }

/-- Dies with no team resident, for a cooperative head that must wait. -/
def State.emptyDies (s : State) : List Nat := s.serviceDies.filter fun d => !(s.teams.any fun p => p.2.resident && p.2.die = d) && !(s.coopDies 0).contains d

/-- The eligible head that comes first. -/
def State.firstHead (s : State) : Option Queue :=
  (s.queues.filter fun q => q.live && q.mapped && q.eligible.isSome && q.record.isSome).foldl (fun b q => match b with
    | none => some q
    | some o => if takenBefore s.tcDist (q.cls, q.eligible.getD 0) (o.cls, o.eligible.getD 0) then some q else some o) none

/-- Admit the first eligible head, if the set has room and, where it is cooperative, it can be placed. -/
def State.admitFirst (s : State) : State :=
  if 16 ≤ s.setSize || s.serviceDies = [] then s
  else match s.firstHead with
    | none => s
    | some q => match s.headCheck q (q.record.getD 0) with
      | .wait u => u
      | .bad u _ => u
      | .ok s g =>
        if !g.coop then s.takeLaunch q g (s.bindGroups g)
        else match s.coopDiesFor g with
          | some ds => s.takeLaunch q g ds
          | none =>
            let ds := s.emptyDies.take g.ndie
            { s with queues := s.queues.map fun o => if o.num = q.num then { o with kept := ds } else { o with kept := [] } }

/-- A head that fails a test. -/
def State.badHead (s : State) : Option (Queue × Line × Nat × State) :=
  s.queues.findSome? fun q =>
    if !q.live || !q.mapped then none
    else match q.record with
      | none => none
      | some r => match s.headCheck q r with
        | .bad u code => some (q, r, code, u)
        | _ => none

/-- One turn of admission: a head that fails is refused, or the first eligible head is admitted. -/
def State.launchAdmit (s : State) : State :=
  if s.panel.stage < 4 || s.panel.stage = 15 || s.panel.sitesOut ≠ [] then s
  else match s.badHead with
    | some (q, r, code, u) => u.refuseHead ((u.queue? q.num).getD q) r code
    | none => s.admitFirst

/-! ### Rotation (R404, R405) -/

/-- A read of the queue waits on a fault record. -/
def State.tailFaulted (s : State) (n : Nat) : Bool := s.unitWaits.any fun u => u.use = .ring n

/-- Read the tail of every enabled queue that holds no slot; the flag tells that one is still on its way. A queue in PAGE-WAIT keeps
the tail it had. -/
def State.readTails (s : State) : State × Bool :=
  (s.queues.filter fun q => q.live && !q.mapped).foldl (fun (p : State × Bool) q =>
    match p.1.distBytes q.asid q.ctl 128 (.ring q.num) with
    | .wait s => (s, p.2 || !s.tailFaulted q.num)
    | .dead s => (s.stopQueue q.num 8, p.2)
    | .ok s d => (s.modQueue q.num fun q => { q with tail := imageField d.val 0 8 }, p.2)) (s, false)

/-- What the rotation has read is used once. -/
def State.dropTails (s : State) : State := (s.queues.filter fun q => !q.mapped).foldl (fun s q => s.dropLooks (.unit (.ring q.num))) s

/-- Put a queue into a list ordered by class descending, then number. -/
def insertQueue (q : Queue) : List Queue → List Queue
  | [] => [q]
  | o :: os => if o.cls < q.cls || (o.cls = q.cls && q.num < o.num) then q :: o :: os else o :: insertQueue q os

/-- HEAD of a queue, which before its first turn in a slot is not known: it counts as non-empty then when its TAIL is
not zero. -/
def Queue.nonEmpty (q : Queue) : Bool := q.live && (q.head < q.tail || (q.fresh && q.tail ≠ 0))

/-- Reassign the slots by the tails that have been read. -/
def State.reassign (s : State) : State :=
  let keep := s.rotation.filter fun n => (s.queue? n).any (·.nonEmpty)
  let new := ((s.queues.filter fun q => q.nonEmpty && !keep.contains q.num).foldl (fun l q => insertQueue q l) []).map (·.num)
  let w := keep ++ new
  let slots := w.take 256
  let w := if w.length ≤ 256 then w else w.drop 256 ++ slots
  let s := { s with rotation := w, rotated := s.tcDist, queues := s.queues.map fun (q : Queue) => { q with mapped := slots.contains q.num, kept := if slots.contains q.num then q.kept else [] } }
  s.bindAll

/-- A rotation: the slots are reassigned once the tails have been read. -/
def State.rotate (s : State) : State :=
  let p := s.readTails
  if p.2 then p.1 else p.1.dropTails.reassign

/-! ### The queue table (R394) -/

/-- An entry of the queue table that keeps the rules. -/
def entryOk (img : Nat) : Bool :=
  let f (off n : Nat) : Nat := imageField img off n
  f 0 8 % 128 = 0 && f 8 8 % 128 = 0 && 4 ≤ f 0x10 1 && f 0x10 1 ≤ 16 && f 0x11 1 < 4 && f 0x12 2 ≤ 255 && f 0x14 1 ≤ 1 && f 0x15 11 = 0

def queueOfImage (n img : Nat) : Queue :=
  let f (off n : Nat) : Nat := imageField img off n
  ⟨n, f 0 8, f 8 8, f 0x10 1, f 0x11 1, f 0x12 2, f 0x14 1 = 1, false, false, 0, 0, none, none, none, [], true, 0, [], none⟩

/-- The image of an entry as service space reads it. -/
def Queue.image (q : Queue) : Nat :=
  q.base + q.ctl * 256 ^ 8 + q.log * 256 ^ 0x10 + q.cls * 256 ^ 0x11 + q.asid * 256 ^ 0x12 + (if q.enable then 256 ^ 0x14 else 0)

/-- What an entry must keep while it is not live: its reserved bits are zero. -/
def entryClear (img : Nat) : Bool := imageField img 0x14 1 ≤ 1 && imageField img 0x15 11 = 0

/-- Write an entry: a live entry takes only the clearing of its ENABLE, and an entry that breaks a rule does not go live. -/
def State.writeQueue (s : State) (n img : Nat) : State :=
  match s.queue? n with
  | some q =>
    if q.enable then
      (if img = Queue.image { q with enable := false } then (s.dropHead n).modQueue n fun q => { q with enable := false, mapped := false, record := none, waitW := none, eligible := none, kept := [], zeroed := none }
       else s.svcErr)
    else if !entryClear img || (imageField img 0x14 1 = 1 && !entryOk img) then s.svcErr
    else s.modQueue n fun _ => queueOfImage n img
  | none =>
    if 4096 ≤ n || !entryClear img || (imageField img 0x14 1 = 1 && !entryOk img) then s.svcErr
    else { s with queues := s.queues ++ [queueOfImage n img] }

/-! ### The end of a grid (R106, R420) -/

/-- Something of the grid is still on its way. -/
def State.gridBusy (s : State) (gid : Nat) : Bool :=
  (s.teams.any fun p => p.1.grid = gid) || (s.warps.any fun p => p.1.grid = gid) || (s.copies.any fun c => c.team.grid = gid) ||
    s.reqs.any fun q => q.users.any fun u => match u with
      | .out k _ => k.grid = gid
      | .unmap t _ => t.grid = gid
      | .unit (.context k) => k.grid = gid
      | .unit (.pool g) => g = gid
      | .over g _ => g = gid
      | _ => false

/-- A grid without a pool ends when every team has been placed and has exited. -/
def State.endQuiet (s : State) (gid : Nat) : State :=
  { s with grids := s.grids.modify gid fun g =>
      if g.ending.isNone && !g.pool && g.allPlaced && !(s.teams.any fun p => p.1.grid = gid) then { g with ending := some 0 } else g }

/-- The grid is gone. -/
def State.dropGrid (s : State) (gid : Nat) : State :=
  { s with grids := s.grids.erase gid, pods := s.pods.filter fun (p : Pod) => p.grid ≠ gid, steals := s.steals.filter fun (t : Steal) => t.grid ≠ gid }.unblockEnded

/-- Record the error of a grid, if it has one. -/
def State.gridRecord (s : State) (gid : Nat) (g : Grid) : Pooled Unit :=
  if g.ending = some 0 || g.ending = none || g.l.recorded then .ok s ()
  else match s.queue? g.l.queue with
    | none => .ok s ()
    | some q => match s.recordError q 3 g.l.index (g.ending.getD 0) with
      | .wait u => .wait u
      | .dead u => .ok { u with grids := u.grids.modify gid fun g => { g with l := { g.l with recorded := true } } } ()
      | .ok s _ => .ok { s with grids := s.grids.modify gid fun g => { g with l := { g.l with recorded := true } } } ()

/-- Complete a grid that has ended: when its writes have been acknowledged and passed, its error is recorded and
SIGNAL_ADDR raised; a declined SIGNAL_ADDR is an error of its own. -/
def State.gridComplete (s : State) (gid : Nat) : State :=
  let s := s.endQuiet gid
  match s.grid? gid with
  | none => s
  | some g =>
    if g.ending.isNone then s
    else
      let s := { s with grids := s.grids.modify gid fun g => { g with l := { g.l with inSet := false } } }.leaveAll
      match s.grid? gid with
      | none => s
      | some g =>
        if s.gridBusy gid || !s.passed bn1Unit g.gwct || !s.passed bn1Unit g.gwctC then s
        else match s.gridRecord gid g with
          | .wait u => u
          | .dead u => u
          | .ok s _ =>
            -- the record of an error performs before the increment
            if s.unitBusy (.unit (.ring g.l.queue)) then s
            else match s.signal g.asid g.l.signal.toNat (.signal gid) with
            | .wait u => u
            | .ok s _ => s.dropGrid gid
            | .dead u => { u with grids := u.grids.modify gid fun g => { g with ending := some 18, l := { g.l with recorded := false, signal := 0 } } }

/-! ### Events -/

/-- The companion's driver writes an entry of the queue table (R394). -/
def execQueueTableWrite (s : State) : Res := .next (s.writeQueue s.arg.n s.arg.img.toNat)

/-- The distributor binds a queue's TAIL (R397). -/
def execQueueTailBind (s : State) : Res := .next (s.bindTail s.arg.n)

/-- The rotation of slots, every 50 µs (R404). -/
def execSlotRotation (s : State) : Res := .next (if s.rotated + 50000 ≤ s.tcDist then s.rotate else s)

/-- The distributor admits the first eligible head (R408). -/
def execLaunchAdmit (s : State) : Res := .next s.launchAdmit

/-- A grid that has ended completes (R420). -/
def execGridComplete (s : State) : Res := .next (s.gridComplete s.arg.n)

end Sys2Proof.Machine
end

