-- ==== Sys2Proof/Machine/Control.lean ====
section
/-! DEFINITION. Control flow and the waiting instructions, opcodes 0x01 to 0x0f (R369 to R384). -/

namespace Sys2Proof.Machine

/-- How far a jump-format instruction's threads go together (R377). -/
inductive Together where
  | none
  | all
  | some
deriving DecidableEq, Repr

def together (r : Regs) (m : Mask) : Together := if m = 0 then .none else if m = r.mask then .all else .some

def Cx.reconv (c : Cx) : Res := c.trapIn cReconv 0 wholeWarp 0
def Cx.allocStack (c : Cx) : Res := c.trapIn cAlloc 0 wholeWarp 0

/-- The next state with the program counter at a target. -/
def Cx.jump (c : Cx) (target : DWord) (r : Regs) : Res := .next (c.s.setWarp c.k { c.w with r := { r with pc := target } })

/-- The same after a push: entries beyond the 32 that the hardware holds go to the spill area (R371). -/
def Cx.jumpPushed (c : Cx) (target : DWord) (r : Regs) : Res :=
  .next ((c.s.spillOut c.k c.w c.w.r.cur.length r.cur).setWarp c.k { c.w with r := { r with pc := target } })

/-- Push the entry of a call and branch (R378). -/
def Cx.callTo (c : Cx) (len : Nat) (target : DWord) : Res :=
  if stackFits (c.s.header c.k) c.w 1 then
    let r := c.w.r
    c.jumpPushed target (r.setCur (⟨r.mask, r.pc + BitVec.ofNat 64 len, 0, 2⟩ :: r.cur))
  else c.allocStack

/-- BRA, CALL and JMPX once the target is known (R377). -/
def Cx.branch (c : Cx) (len : Nat) (call : Bool) (target : DWord) : Res :=
  match together c.w.r c.m with
  | .none => c.done len c.w.r
  | .some => c.reconv
  | .all => if call then c.callTo len target else c.jump target c.w.r

/-- A guard alone, as the fields of an extended form. -/
def guardOnly (g : BitVec 4) (gs : BitVec 2) : Ext := { Ext.fixed with g := g, gs := gs }

/-- Offset of a J field in bytes (R230). -/
def jBytes (j : BitVec 22) : DWord := j.signExtend 64 * 4

def jumpJ (op : Op) (g : BitVec 4) (gs : BitVec 2) (len : Nat) (j : BitVec 22) (s : State) : Res :=
  frame op (guardOnly g gs) s fun c => c.branch len (op = .call) (c.w.r.pc + jBytes j)

/-- JMPX (R377). -/
def jmpx (op : Op) (x : Ext) (len : Nat) (s : State) : Res :=
  frame op x s fun c =>
    let l := lowest c.m
    let t := c.i64 l x.a
    if c.m = 0 then c.done len c.w.r
    else if c.m ≠ c.w.r.mask || !(lanesOf c.m).all (fun i => c.i64 i x.a = t) then c.reconv
    else if t.toNat % 4 ≠ 0 then c.trapIn cMisalign 0 l t
    else if 2 ^ 56 ≤ t.toNat then c.trapIn cProt 6 l t
    else if x.m 0 1 = 1 then c.callTo len t
    else c.jump t c.w.r

/-! ### BRC and BRM (R372, R373) -/

/-- Divide the warp into paths: the reconvergence entry, then every nonempty path after the first, last one first. -/
def Cx.divide (c : Cx) (paths : List (Mask × DWord)) (jaddr : DWord) : Res :=
  let ps := paths.filter fun p => p.1 ≠ 0
  let r := c.w.r
  match ps with
  | [] => .next c.s
  | first :: rest =>
    if !stackFits (c.s.header c.k) c.w ps.length then c.allocStack
    else
      let rec' : SEntry := ⟨r.mask, jaddr + BitVec.ofNat 64 (c.s.lenAt c.k c.w jaddr), jaddr, 1⟩
      let es := rest.map fun p => (⟨p.1, p.2, jaddr, 0⟩ : SEntry)
      c.jumpPushed first.2 { r.setCur (es ++ rec' :: r.cur) with mask := first.1 }

/-- Offset i of the literal, in bytes (R231, R232). -/
def pathAt (pc : DWord) (l : DWord) (i : Nat) : DWord := pc + (litOffset l i).signExtend 64 * 4

/-- Predicates read in every active thread, blocking, or FE under the T bit (R177, R372, R373). -/
def predReady (w : Warp) (ps : List Nat) (t : Bool) : Ready :=
  match ps.find? fun p => w.emptyIn w.r.mask (.p, p) with
  | none => .go
  | some p => if t then .fe 3 (.p, p) (w.emptyLane w.r.mask (.p, p)) else .wait

/-- The frame of BRC and BRM: no guard selects threads, and predicates are the only sources. -/
def predFrame (op : Op) (ps : List Nat) (t : Bool) (s : State) (body : Cx → Res) : Res :=
  frame op Ext.fixed s fun c =>
    match predReady c.w ps t with
    | .wait => .next (c.s.hold' c.k)
    | .fe pos p lane => c.s.precise c.k c.w cFe (selOf p % 256) (selOf p / 256 % 4 + pos * 16) lane 0
    | .ecc lane => c.trapIn cEcc 0 lane 0
    | .go => body c

def brc (p : BitVec 4) (tC : Bool) (l : DWord) (s : State) : Res :=
  predFrame .brc [p.toNat] tC s fun c =>
    let r := c.w.r
    let sel (v : Tri) : Mask := maskOf ((lanesOf r.mask).filter fun i => r.getP p.toNat i = v)
    c.divide [(sel Tri.tt, pathAt r.pc l 0), (sel Tri.ff, pathAt r.pc l 1), (sel Tri.und, pathAt r.pc l 2)] (pathAt r.pc l 3)

/-- Number of pairs a BRM uses (R232). -/
def brmPairs (l : DWord) : Nat :=
  if litOffset l 1 = 0 then 1 else if litOffset l 2 = 0 then 2 else if litOffset l 3 = 0 then 3 else 4

/-- The path of a thread: a pair's number, or the number of pairs for the fall-through. -/
def brmPath (r : Regs) (lane n : Nat) : List Nat → Nat → Nat
  | [], _ => n
  | p :: ps, i =>
    let v := r.getP p lane
    if v = Tri.tt then i else if v = Tri.und then n else brmPath r lane n ps (i + 1)

def brm (p3 p2 p1 p0 : BitVec 4) (jn : BitVec 16) (l : DWord) (s : State) : Res :=
  let n := brmPairs l
  let preds := [p0.toNat, p1.toNat, p2.toNat, p3.toNat].take n
  predFrame .brm preds false s fun c =>
    let r := c.w.r
    let sel (i : Nat) : Mask := maskOf ((lanesOf r.mask).filter fun t => brmPath r t n preds 0 = i)
    c.divide ((List.range n).map (fun i => (sel i, pathAt r.pc l i)) ++ [(sel n, r.pc + 20)]) (r.pc + jn.signExtend 64 * 4)

/-! ### JOIN, RET and EXIT -/

/-- JOIN (R374). -/
def joinPop (op : Op) (x : Ext) (s : State) : Res :=
  frame op x s fun c =>
    match c.w.r.cur with
    | [] => c.reconv
    | e :: _ => if e.kind = 2 || e.join ≠ c.w.r.pc then c.reconv else .next (c.s.resume c.k c.w c.w.r)

/-- RET (R378). -/
def retPop (op : Op) (x : Ext) (s : State) : Res :=
  frame op x s fun c =>
    match c.w.r.cur with
    | [] => c.reconv
    | e :: _ => if e.kind ≠ 2 then c.reconv else .next (c.s.resume c.k c.w c.w.r)

/-- The warp goes on after threads of it have ended: past the instruction, or by unwinding (R375). -/
def State.afterExit (s : State) (k : WarpKey) (w : Warp) (m : Mask) (len : Nat) : State :=
  let r := w.r.exit m
  if r.live = 0 then (s.setWarp k { w with r := { r with stack := [], hstack := [] }, wait := .none, outs := w.outs.filter (·.kind ≠ .sprouts) }).warpEnded k
  else if r.mask = 0 then s.resume k w r
  else s.setWarp k { w with r := { r with pc := r.pc + BitVec.ofNat 64 len } }

/-- What the last live thread's EXIT waits for (R379): matrix, vault, stream and span operations. -/
def Warp.exitReady (w : Warp) : Bool :=
  w.outs.all fun o => o.finished || !(o.ctr = some .km || o.ctr = some .ks || o.ctr = some .kx || o.kind = .span)

/-- Threads of a sprout warp end with their contributions (R448). -/
def State.hendThreads (s : State) (k : WarpKey) (w : Warp) (m : Mask) (len : Nat) (v : Nat → Option FReg) : State :=
  match w.sprout with
  | none => s
  | some p =>
    let s' := s.afterExit k w m len
    -- a fetch that unwinding needs may have to wait: then nothing has ended yet
    if (s'.warp? k).any fun w' => w'.r.live = w.r.live && w'.trapping.isNone then s' else s'.endSprouts p.owner w (lanesOf m) v

/-- EXIT (R379). -/
def exitThreads (op : Op) (x : Ext) (len : Nat) (s : State) : Res :=
  frame op x s fun c =>
    let w := c.w
    if c.m = 0 then c.done len w.r
    else if let some st := w.outs.findSome? (·.stop) then c.trapIn st.cause st.detail wholeWarp st.addr
    else if w.sprout.isSome then .next (if w.settled then c.s.hendThreads c.k w c.m len fun _ => none else c.s.hold' c.k)
    else if w.r.live &&& ~~~c.m = 0 && !(w.exitReady && w.settled) then .next (c.s.hold' c.k)
    else if w.r.live &&& ~~~c.m = 0 && w.r.spanRef ≠ 0 then c.trapIn cProt 10 (lowest c.m) w.r.spanRef
    else
      let s' := c.s.afterExit c.k w c.m len
      -- the exit is undone while unwinding waits on a fetch
      if (s'.warp? c.k).any fun w' => w'.r.live = w.r.live then .next s' else .next (s'.threadsExit c.k w c.m)

/-! ### Barriers and waiting -/

/-- An instruction that a sprout may not execute is its fault, with cause ILLEGAL (R447), unless no thread takes part (R228). -/
def noSprout (op : Op) (x : Ext) (s : State) (body : Cx → Res) : Res :=
  frame op x s fun c => if c.w.sprout.isSome && c.m ≠ 0 then c.trapIn cIllegal 0 wholeWarp 0 else body c

/-- BARSYNC (R380, R102). -/
def barsync (op : Op) (x : Ext) (len : Nat) (s : State) : Res :=
  noSprout op x s fun c =>
    let w := c.w
    let sc := x.m 0 2
    let coop : Bool := (c.s.grid? c.k.grid).any fun (g : Grid) => g.coop
    let gang := c.s.gangOf c.k.teamKey
    if c.m = 0 then c.done len w.r
    else if sc = 2 && (!coop || w.sheller) then c.trapIn cIllegal 0 wholeWarp 0
    else if c.m ≠ w.r.live then c.reconv
    else
      let sc := if sc = 1 && (gang = 1 || w.sheller) then 0 else sc
      match w.wait with
      | .barsync _ _ => .next c.s
      | _ =>
        if !(w.settled && !w.acquiring && c.s.fenceHolds w sc) then .next (c.s.stall c.k (.fence sc))
        else if w.sheller then c.s.done c.k { w with wait := .none } w.r len
        else .next ((c.s.setWarp c.k { w with wait := .barsync sc len, active := false }).barTry c.k sc)

def ctrOf (n : Nat) : Ctr := match n with | 0 => .kg | 1 => .ks | 2 => .km | _ => .kx

/-- WAITK (R381, R163). -/
def waitk (op : Op) (x : Ext) (len : Nat) (s : State) : Res :=
  frame op x s fun c =>
    if c.m = 0 then c.done len c.w.r
    else if c.w.counter (ctrOf (x.m 0 2)) ≤ (c.i32 (lowest c.m) x.a).toNat then c.done len c.w.r
    else match c.w.outs.findSome? (·.stop) with
      | some st => if ctrOf (x.m 0 2) = .km then c.trapIn st.cause st.detail wholeWarp st.addr else .next (c.s.hold' c.k)
      | none => .next (c.s.hold' c.k)

/-- WAITM's test. -/
def waitTest (cmp : Nat) (v b : Nat) : Bool := match cmp with | 0 => v ≠ b | 1 => v = b | 2 => b ≤ v | _ => v < b

/-- Ask for WAITM's word with a single-use read (R62, R382). -/
def Cx.waitmRead (c : Cx) (t0 : Nat) (va : DWord) (size : Nat) : Res :=
  let l := lowest c.m
  if 2 ^ 56 ≤ va.toNat then c.trapIn cProt 6 l va
  else if va.toNat % size ≠ 0 then c.trapIn cMisalign 0 l va
  else match c.s.translate c.w.die c.w.core (c.s.asidOf c.k) kLoad va.toNat with
    | (s, .walk id) => .next (s.stall c.k (.walk id l va))
    | (s, .page id) => .next (s.stall c.k (.page id l va))
    | (s, .declined id cause) => (s.spent id).precise c.k c.w cProt cause 0 l va
    | (s, .ok pa) =>
      if !s.canSend c.k c.w 1 then .next (s.holdIssue c.k)
      else .next ((s.askLine c.w.die c.w.core (lineOf pa) 0 true (.waitm c.k)).stall c.k (.waitmRead t0 pa))

/-- WAITM with the word bound. -/
def Cx.waitmBound (c : Cx) (len t0 pa w : Nat) (data : Line) : Res :=
  let x := c.x
  let l := lowest c.m
  let size := if x.m 3 1 = 1 then 8 else 4
  let n := size / 4
  let v := lineNat data (pa % 128) size
  let b := if n = 2 then (c.i64 l x.b).toNat else (c.i32 l x.b).toNat
  let limit := (c.i32 l x.c).toNat
  let r := c.w.r.raiseAll c.m w
  let out (e : Tri) : Res :=
    let r := c.putInt n l x.d (BitVec.ofNat 64 v) r
    c.s.done c.k { c.w with wait := .none } (((lanesOf c.m).foldl (fun r l => putE l x.e e r) r).written c.m c.op x) len
  if waitTest (x.m 0 3) v b then out Tri.tt
  else if limit ≠ 0 && t0 + limit ≤ c.s.tcAt c.w.die then out Tri.ff
  else
    let tag := c.s.nextId
    let a := c.w.agent
    let s := c.s.post { id := 0, ty := .watchSet, tag := tag, src := c.w.die, dst := c.s.homeOf pa, agent := a, inc := c.s.incOf a, addr := pa, t1 := w, mask := byteMask (pa % 128) size }
    .next ((s.modWarp c.k fun o => { o with r := r }).stall c.k (.waitm t0 tag limit))

/-- WAITM (R382): it reads, tests, watches and reads again. -/
def waitm (op : Op) (x : Ext) (len : Nat) (s : State) : Res :=
  noSprout op x s fun c =>
    let l := lowest c.m
    let size := if x.m 3 1 = 1 then 8 else 4
    let va := c.i64 l x.a
    if c.m = 0 then c.done len c.w.r
    else match c.w.wait with
      | .waitmRead _ _ => .next c.s
      | .waitm _ _ _ => .next c.s
      | .waitmAgain t0 => c.waitmRead t0 va size
      | .waitmGot t0 pa w bad data =>
        if bad = 3 then c.trapIn cProt 9 l va
        else if bad ≠ 0 then c.trapIn (if bad = 1 then cLost else cEcc) 0 l va
        else c.waitmBound len t0 pa w data
      | _ => if !(c.w.settled && !c.w.acquiring) then .next (c.s.hold' c.k) else c.waitmRead (c.s.tcAt c.w.die) va size

/-- YIELD (R383): the warp moves to the pending set if a pending warp of the core is ready. -/
def yieldWarp (op : Op) (x : Ext) (len : Nat) (s : State) : Res :=
  frame op x s fun c =>
    let other : Bool := c.s.warps.any fun p => p.1 ≠ c.k && p.2.die = c.w.die && p.2.core = c.w.core && !p.2.active && !p.2.parked && !p.2.halted && p.2.trapping.isNone && p.2.r.live ≠ 0 && p.2.wait.ready
    c.s.done c.k { c.w with active := !(c.m ≠ 0 && other) } c.w.r len

/-- SLEEP (R383). -/
def sleep (op : Op) (x : Ext) (len : Nat) (s : State) : Res :=
  frame op x s fun c =>
    if c.m = 0 then c.done len c.w.r
    else
      let now := c.s.tcAt c.w.die
      match c.w.wait with
      | .sleep till _ => if till ≤ now then c.s.done c.k { c.w with wait := .none } c.w.r len else .next (c.s.hold' c.k)
      | _ => .next (c.s.stall c.k (.sleep (now + min 1000000 (c.i32 (lowest c.m) x.a).toNat) len))

/-- NOP (R384). -/
def nop (op : Op) (x : Ext) (len : Nat) (s : State) : Res := frame op x s fun c => c.done len c.w.r

/-- BRKPT (R384). -/
def brkpt (op : Op) (x : Ext) (s : State) : Res :=
  noSprout op x s fun c => c.trapIn cBreak 0 wholeWarp 0

/-! ### The instructions -/

/-- Base-form NOP performs nothing under any guard (R384). -/
def execNop (s : State) : Res :=
  nop .nop (Ext.base .nop false 0 0 0) 4 s

/-- Extended-form NOP performs nothing under any guard (R384). -/
def execNopX (x : Ext) (s : State) : Res :=
  nop .nop x (extLen x) s

/-- J-format branch by a signed 22-bit word offset; it traps RECONV if only some active threads take part (R377). -/
def execBra (j : BitVec 22) (s : State) : Res := jumpJ .bra 15 0 4 j s

/-- Extended J-format branch with a guard in word 1 (R377). -/
def execBraX (j : BitVec 22) (g : BitVec 4) (gs : BitVec 2) (s : State) : Res := jumpJ .bra g gs 12 j s

/-- Divides the active threads into TRUE, FALSE and UNDECIDED paths, pushes reconvergence and path entries, and runs the TRUE path first (R372). -/
def execBrc (c : BitVec 4) (tC : Bool) (l : DWord) (s : State) : Res := brc c tC l s

/-- Multi-way branch over up to four predicates that pushes entries as BRC does (R373). -/
def execBrm (p3 p2 p1 p0 : BitVec 4) (jn : BitVec 16) (l : DWord) (s : State) : Res := brm p3 p2 p1 p0 jn l s

/-- Pops the top reconvergence-stack entry, or traps RECONV on a mismatch (R374). -/
def execJoin (s : State) : Res :=
  joinPop .join (Ext.base .join false 0 0 0) s

/-- Extended-form JOIN (R374). -/
def execJoinX (s : State) : Res :=
  joinPop .join Ext.fixed s

/-- Pushes a call entry and branches by a J offset (R378). -/
def execCall (j : BitVec 22) (s : State) : Res := jumpJ .call 15 0 4 j s

/-- Extended J-format CALL with a guard (R378). -/
def execCallX (j : BitVec 22) (g : BitVec 4) (gs : BitVec 2) (s : State) : Res := jumpJ .call g gs 12 j s

/-- Pops a call entry and resumes at its return address, or traps RECONV (R378). -/
def execRet (s : State) : Res :=
  retPop .ret (Ext.base .ret false 0 0 0) s

/-- Extended-form RET (R378). -/
def execRetX (s : State) : Res :=
  retPop .ret Ext.fixed s

/-- Jumps to a register address, optionally pushing a call entry (R377). -/
def execJmpx (a : BitVec 7) (s : State) : Res :=
  jmpx .jmpx (Ext.base .jmpx false 0 a 0) 4 s

/-- Extended-form JMPX, including .call (R377). -/
def execJmpxX (x : Ext) (s : State) : Res :=
  jmpx .jmpx x (extLen x) s

/-- Ends the taking-part threads and unwinds the stack; the last thread waits for matrix, KS, stream and span completion (R379). -/
def execExit (s : State) : Res :=
  exitThreads .exit (Ext.base .exit false 0 0 0) 4 s

/-- Extended-form EXIT (R379). -/
def execExitX (x : Ext) (s : State) : Res :=
  exitThreads .exit x (extLen x) s

/-- Base-form team barrier arrival (R380). -/
def execBarsync (s : State) : Res :=
  barsync .barsync (Ext.base .barsync false 0 0 0) 4 s

/-- Barrier arrival of team, gang or die scope (R380). -/
def execBarsyncX (x : Ext) (s : State) : Res :=
  barsync .barsync x (extLen x) s

/-- Waits until an in-flight counter is at or below a threshold (R381). -/
def execWaitk (x : Ext) (s : State) : Res :=
  waitk .waitk x (extLen x) s

/-- Waits, through single-use reads and a WATCH, for a memory word to satisfy a test or a timeout (R382). -/
def execWaitm (x : Ext) (s : State) : Res :=
  waitm .waitm x (extLen x) s

/-- Moves the warp to the pending set if another warp is ready (R383). -/
def execYield (s : State) : Res :=
  yieldWarp .yield (Ext.base .yield false 0 0 0) 4 s

/-- Extended-form YIELD (R383). -/
def execYieldX (x : Ext) (s : State) : Res :=
  yieldWarp .yield x (extLen x) s

/-- Makes the warp not ready for a count of ns, capped at 1 ms (R383). -/
def execSleep (a : BitVec 7) (s : State) : Res :=
  sleep .sleep (Ext.base .sleep false 0 a 0) 4 s

/-- Extended-form SLEEP (R383). -/
def execSleepX (x : Ext) (s : State) : Res :=
  sleep .sleep x (extLen x) s

/-- Traps BREAK precisely (R384). -/
def execBrkpt (s : State) : Res :=
  brkpt .brkpt (Ext.base .brkpt false 0 0 0) s

/-- Extended-form BRKPT (R384). -/
def execBrkptX (s : State) : Res :=
  brkpt .brkpt Ext.fixed s

end Sys2Proof.Machine
end

