-- ==== Sys2Proof/Machine/Copy.lean ====
section
/-! DEFINITION. The copy and barrier-register instructions, opcodes 0xa1 to 0xa8 (R142 to R145, R151, R157 to R160,
R364 to R368). -/

namespace Sys2Proof.Machine

/-- A uniform operand of an instruction that acts even when no thread takes part: read in the lowest taking-part
thread, or the lowest active one. -/
def Cx.uniAny (c : Cx) (x : Sel) : Nat := (c.i32 (if c.m = 0 then lowest c.w.r.mask else lowest c.m) x).toNat

/-- The warp that is a team of its own for copies (R142, R431). -/
def Cx.own (c : Cx) : Option Nat := if c.w.sheller then some c.k.warp else none

/-- The entries of a class's queue in an engine that are taken (R151). -/
def State.entriesOf (s : State) (die cluster cls : Nat) : Nat :=
  (s.copies.filter fun c => c.die = die && c.cluster = cluster && c.cls = cls && !c.refused).length

/-- The team's copy number `seq`, as far as it is waiting for arrivals. -/
def State.waitingCopy (s : State) (t : TeamKey) (own : Option Nat) (seq : Nat) : Option Copy :=
  s.copies.find? fun c => c.team = t && c.one = own && c.seq = seq && c.order = 0

def Copy.fresh (id : Nat) (t : TeamKey) (own : Option Nat) (seq die cluster cls : Nat) (refused : Bool) : Copy :=
  ⟨id, t, own, seq, die, cluster, cls, refused, [], 0, 0, cls, Desc.ofNat 0, 0, [], 0, [], [], [], [], 0, [], 0, 0, none⟩

def State.setCopy (s : State) (c : Copy) : State := { s with copies := (s.copies.filter fun (o : Copy) => o.id ≠ c.id) ++ [c] }
def State.dropCopy (s : State) (id : Nat) : State := { s with copies := s.copies.filter fun (o : Copy) => o.id ≠ id }

/-- One more copy instruction of the warp is past (R142). -/
def Regs.nextCopy (r : Regs) : Regs := { r with copySeq := r.copySeq + 1 }

/-- The end of a copy instruction: E tells whether the copy was accepted under `.try` (R151). -/
def Cx.copied (c : Cx) (s : State) (len : Nat) (ok : Bool) : Res :=
  let r := (lanesOf c.m).foldl (fun r l => if c.x.m 0 1 = 1 then putE l c.x.e (if ok then Tri.tt else Tri.ff) r else r) c.w.r.nextCopy
  s.done c.k c.w r len

/-- Every warp of the copy's team but this one has passed its instruction of the copy, or has exited. -/
def State.lastArrival (s : State) (c : Copy) (k : WarpKey) : Bool :=
  (s.copyMembers c).all fun p => p.1 = k || p.2.r.live = 0 || c.seq < p.2.r.copySeq

/-- CPY, CPYG and CPYA (R142 to R145, R151, R365). -/
def cpy (mode : Nat) (op : Op) (x : Ext) (len : Nat) (s : State) : Res :=
  frame op x s fun c =>
    if c.w.sprout.isSome then c.trapIn cIllegal 0 wholeWarp 0
    else if !c.w.settled || c.w.acquiring then .next (c.s.hold' c.k)
    else
      let t := c.k.teamKey
      let cls := ((c.s.grid? c.k.grid).map (·.l.cls)).getD 0
      let full : Bool := 16 ≤ c.s.entriesOf c.w.die (c.w.core / 4) cls
      let old := c.s.waitingCopy t c.own c.w.r.copySeq
      let cp := old.getD (Copy.fresh c.s.nextId t c.own c.w.r.copySeq c.w.die (c.w.core / 4) cls full)
      if old.isNone && full && x.m 0 1 = 0 then .next (c.s.hold' c.k)
      else
        let last := c.s.lastArrival cp c.k
        let off := c.uniAny x.a
        if cp.refused then c.copied (if last then c.s.dropCopy cp.id else ({ c.s with nextId := c.s.nextId + 1 }.setCopy cp)) len false
        else
          let cp := { cp with arrivals := cp.arrivals ++ [⟨c.k, c.uniAny x.b, if c.m = 0 then 0 else c.uniAny x.c, off, mode, c.s.nextId⟩] }
          let s := { c.s with nextId := c.s.nextId + 1 }.setCopy cp
          if !last then c.copied s len true
          else match s.startCopy cp (c.s.header c.k) off mode with
            | .wait => .next (c.s.hold' c.k)
            | .trap cause addr => { c with s := c.s.dropCopy cp.id, w := { c.w with r := c.w.r.nextCopy } }.trapIn cause 0 wholeWarp (BitVec.ofNat 64 addr)
            | .go s => c.copied s len true

/-- The word of R366. -/
def Cx.copyWord (c : Cx) (cls : Nat) : Nat :=
  if 3 < cls then 0xffffffff
  else
    let mine := (c.s.copies.filter fun (o : Copy) => o.team = c.k.teamKey && o.one = c.own && !o.refused).length
    c.w.r.copySeq % 2 ^ 16 * 2 ^ 16 + min 255 mine * 2 ^ 8 + (16 - c.s.entriesOf c.w.die (c.w.core / 4) cls)

/-- CPYQ (R366). -/
def cpyq (op : Op) (x : Ext) (len : Nat) (s : State) : Res :=
  frame op x s fun c => c.done len (if c.m = 0 then c.w.r else c.putVS 1 (fun _ => BitVec.ofNat 64 (c.copyWord (c.uni32 x.b))) c.w.r)

/-- The barrier register that A names (R367). -/
def Cx.barNum (c : Cx) : Nat := match c.x.a with | .b n => n.toNat | _ => 0

/-- BINIT (R157, R368). -/
def binit (op : Op) (x : Ext) (len : Nat) (s : State) : Res :=
  onceTeam op x len s fun c _ =>
    let n := c.uni32 x.b
    if n = 0 || 1023 < n then c.trapIn cAlloc 0 wholeWarp 0
    else if !c.w.settled then .next (c.s.hold' c.k)
    else
      let old := c.s.bar c.k.teamKey c.barNum
      let s := c.s.setBar c.k.teamKey c.barNum ⟨false, false, false, old.pend, n, 0⟩
      (s.modTeam c.k.teamKey fun tm => { tm with cerrs := tm.cerrs.put CopyErr.zero c.barNum CopyErr.zero }).done c.k c.w c.w.r len

/-- BARR (R103, R158, R368). -/
def barr (op : Op) (x : Ext) (len : Nat) (s : State) : Res :=
  onceTeam op x len s fun c _ =>
    let n := c.uni32 x.b
    let b := c.s.bar c.k.teamKey c.barNum
    if n = 0 || 1023 < n || b.expected = 0 || b.expected < n then c.trapIn cAlloc 0 wholeWarp 0
    else if !c.w.settled || c.w.acquiring || !c.s.fenceHolds c.w 0 then .next (c.s.hold' c.k)
    else (c.s.setBar c.k.teamKey c.barNum (b.arrive n none)).done c.k c.w c.w.r len

/-- BWAIT (R103, R159, R160). -/
def bwait (op : Op) (x : Ext) (len : Nat) (s : State) : Res :=
  onceTeam op x len s fun c tm =>
    let b := c.s.bar c.k.teamKey c.barNum
    if b.expected = 0 then c.trapIn cAlloc 0 wholeWarp 0
    else if b.phase = (x.imm.toNat % 2 = 1 : Bool) || !c.w.settled then .next (c.s.hold' c.k)
    else if b.lastErr then
      let e := tm.cerrs.get CopyErr.zero c.barNum
      let s := c.s.modTeam c.k.teamKey fun tm => { tm with cerrs := tm.cerrs.put CopyErr.zero c.barNum CopyErr.zero }
      s.precise c.k c.w cCopyerr e.cause c.barNum wholeWarp (BitVec.ofNat 64 e.addr)
    else c.done len c.w.r

/-- BTEST (R157, R368). -/
def btest (op : Op) (x : Ext) (len : Nat) (s : State) : Res :=
  onceTeam op x len s fun c _ => c.done len (c.putVS 1 (fun _ => BitVec.ofNat 64 (c.s.bar c.k.teamKey c.barNum).word) c.w.r)

/-! ### The instructions -/

/-- One warp's arrival at the team's next plain copy (R365). -/
def execCpy (x : Ext) (s : State) : Res :=
  cpy 0 .cpy x (extLen x) s

/-- One warp's arrival at the team's next gather copy (R365). -/
def execCpyg (x : Ext) (s : State) : Res :=
  cpy 1 .cpyg x (extLen x) s

/-- One warp's arrival at the team's next scatter-add copy (R365). -/
def execCpya (x : Ext) (s : State) : Res :=
  cpy 2 .cpya x (extLen x) s

/-- Reads the copy-queue state word (R366). -/
def execCpyq (x : Ext) (s : State) : Res :=
  cpyq .cpyq x (extLen x) s

/-- Initialises a barrier register (R157). -/
def execBinit (x : Ext) (s : State) : Res :=
  binit .binit x (extLen x) s

/-- Arrives on a barrier register (R158). -/
def execBarr (x : Ext) (s : State) : Res :=
  barr .barr x (extLen x) s

/-- Waits for a barrier-register phase and traps COPYERR on LASTERR (R159). -/
def execBwait (x : Ext) (s : State) : Res :=
  bwait .bwait x (extLen x) s

/-- Reads a barrier register's word (R367). -/
def execBtest (x : Ext) (s : State) : Res :=
  btest .btest x (extLen x) s

end Sys2Proof.Machine
end

