-- ==== Sys2Proof/Machine/Traffic.lean ====
section
/-! DEFINITION. Messages that reach homes and agents, the timed events of homes and holders, and span operations (R57 to
R89, R128, R133, R355, R356, R475, R486, R487). -/

namespace Sys2Proof.Machine

/-! ### Requests at a home (R60) -/

/-- A memory site out of service does nothing (R25, R27). -/
def State.homeUp (s : State) (unit : Nat) : Bool := !(128 ≤ unit && unit < 256 && s.panel.sitesOut.contains (unit - 128))

/-- A request of one of the types reaches its home. -/
def State.homeRequest (s : State) (ok : MType → Bool) : State :=
  match s.deliver s.arg.n ok with
  | none => s
  | some (m, t) => if s.homeUp m.dst then t.arrive m else s

/-- Every line of a home that has requests waiting is looked at again: those that wait for a directory entry in order of arrival
(R71). -/
def State.pumpHome (s : State) (home : Nat) : State :=
  let ls := (s.lineq.filter fun q => q.q ≠ [] && s.homeOf (lineAddr q.line) = home).map (·.line)
  let first := s.wantEntry.filter ls.contains
  (first ++ ls.filter fun l => !first.contains l).foldl (fun s l => s.pumpLine home l) s

/-! ### Grants at an agent (R61, R75, R128, R133) -/

/-- A use of a unit whose read or write is answered goes on. -/
def State.unitRetry (s : State) (u : UnitUse) : State :=
  match u with
  | .ring n => s.bindTail n
  | .header n | .waitAddr n => s.headTry n
  | .args t => s.tryArgs t
  | .pool g => s.poolGo g
  | _ => s

/-- The data of a read reach those that wait for them. -/
def State.handOut (s : State) (q : Req) (p : Piece) (exp : Nat) (once : Bool) : State :=
  q.users.foldl (fun s u => match u with
    | .out k id => ((s.give k id q.tag p).streamGo k).tryLeave k.teamKey
    | .fill _ vline => (((s.fillDone vline p.w exp once p.data p.poison p.refused).fillsCome vline p.poison p.refused).streamsGo).leaveAll
    | .waitm k => s.modWarp k fun w => { w with wait := match w.wait with
        | .waitmRead t0 pa => .waitmGot t0 pa p.w (if p.refused then 3 else p.poison) p.data
        | wt => wt }
    | .copy id => (s.modCopy id fun c => { c with buf := c.buf ++ [p] }).pumpCopy id
    | .look r => (match r with
        | .stream k _ => (s.lookGot r q.tag p).streamGo k
        | _ => s.lookGot r q.tag p)
    | .unit u => (s.unitGot u q.tag p).unitRetry u
    | .walk id => ((s.walkGot id q.tag p).walkGo id).1
    | .over g n => s.overGot g n q.tag p.refused (some p)
    | .incoming id => { s with incoming := s.incoming.map fun (o : Incoming) =>
        if o.id = id then { o with left := o.left.filter (· ≠ q.tag), reply := o.reply ++ [(p.line, p.data)], refused := o.refused || p.refused || p.poison ≠ 0, w := max o.w p.w } else o }
    | _ => s) s

/-- An incoming operation all of whose requests are answered has its answer (R89). -/
def State.incomingDone (s : State) : State :=
  { s with incoming := s.incoming.map fun (o : Incoming) => if o.st = 1 && o.left = [] then { o with st := 2 } else o }

/-- A read is answered: its entry is freed, and a core's line installed. -/
def State.readDone (s : State) (q : Req) (w exp : Nat) (once refused : Bool) (poison : Nat) (d : Line) : State :=
  let s := { s with reqs := s.reqs.filter fun (o : Req) => o.tag ≠ q.tag }
  let s := if q.kind = 0 then s.freeEntry q.die q.core else s
  let fills : Bool := q.users.any fun u => match u with
    | .fill _ _ => true
    | _ => false
  let s := if q.kind = 0 && !once && !refused && poison = 0 && !fills then s.l1Put ⟨q.die, q.core, q.line, w, exp, d, s.now⟩ else s
  let s := (s.handOut q ⟨q.line, w, if once || refused then onceUpto else exp, poison, refused, d⟩ exp once).incomingDone
  if q.kind = 0 then s.commitCore q.die q.core else s

/-- ReadGrant at the agent that asked; one with FWD waits for the holder's data (R75). -/
def State.readGrant (s : State) (m : Msg) : State :=
  match s.reqs.find? (·.tag = m.tag) with
  | none => s
  | some q =>
    if !m.fwd then s.readDone q m.t1 m.t2 m.once m.refused m.poison m.data
    else match q.fwdData with
      | some (d, bad) => s.readDone q m.t1 m.t2 m.once false (if m.poison ≠ 0 then m.poison else bad) d
      | none => { s with reqs := s.reqs.map fun (o : Req) => if o.tag = q.tag then { o with grant := some (m.t1, m.t2, m.once) } else o }

/-- FwdData at the reader: bound once the grant is there. -/
def State.fwdData (s : State) (m : Msg) : State :=
  match s.reqs.find? (·.tag = m.tag) with
  | none => s
  | some q => match q.grant with
    | some (w, exp, once) => s.readDone q w exp once false m.poison m.data
    | none => { s with reqs := s.reqs.map fun (o : Req) => if o.tag = q.tag then { o with fwdData := some (m.data, m.poison) } else o }

/-! ### Acknowledgements (R64, R94, R355) -/

/-- The perform time of a write whose warp is gone stays with its grid (R106). -/
def State.lateGwct (s : State) (gid g : Nat) (comp : Bool) : State :=
  { s with grids := s.grids.modify gid fun x => if comp then { x with gwctC := max x.gwctC g } else { x with gwct := max x.gwct g } }

/-- An acknowledgement for an instruction. -/
def State.outAcked (s : State) (k : WarpKey) (id : Nat) (q : Req) (m : Msg) (old : Option (Nat × Nat)) : State :=
  let comp := isCompanion (lineAddr q.line)
  match s.warp? k with
  | none => s.lateGwct k.grid m.t1 comp
  | some w =>
    let slot := ((w.outs.find? (·.id = id)).map (·.slot)).getD 0
    let flush : Bool := (w.outs.find? (·.id = id)).any fun o => o.kind = .flush
    let s := s.acked k id q.tag q.line m.t1 comp old
    let fin : Bool := ((s.warp? k).bind fun w => w.outs.find? (·.id = id)).any fun o => o.acks.isEmpty
    let s := s.ackDone k id
    let s := if flush && fin && slot ≠ 0 then s.removeMap k.teamKey (slot - 1) else s
    (s.streamGo k).tryLeave k.teamKey

/-- A write of a unit is acknowledged. -/
def State.unitAcked (s : State) (u : UnitUse) (q : Req) (m : Msg) : State :=
  match u with
  | .pool g => (s.counted g q.tag m.refused).poolGo g
  | .overflow n => s.zeroPut n m.t1 m.refused
  | .context k => if m.refused then s.endGrid k.grid 17 else s.modWarp k fun w => w.gwctMax (isCompanion (lineAddr q.line)) m.t1
  | u => s.unitRetry u

/-- StoreAck or AtomAck at the agent that wrote. -/
def State.writeAcked (s : State) (m : Msg) (old : Option (Nat × Nat)) : State :=
  match s.reqs.find? (·.tag = m.tag) with
  | none => s
  | some q =>
    let s := { s with reqs := s.reqs.filter fun (o : Req) => o.tag ≠ q.tag }
    let s := if q.kind = 0 then s.freeEntry q.die q.core else s
    let s := (q.users.foldl (fun s u => match u with
      | .out k id => s.outAcked k id q m old
      | .copy id => (if m.refused then s.lineLost id q.line q.first else s.copyPerformed id m.t1).pumpCopy id
      | .unmap t _ => (s.lateGwct t.grid m.t1 (isCompanion (lineAddr q.line))).tryLeave t
      | .unit u => s.unitAcked u q m
      | .over g n => s.overGot g n q.tag m.refused none
      | .fault id => s.faultPut id m.refused
      | .notice id => s.noticePut id m.refused
      | .incoming id => { s with incoming := s.incoming.map fun (o : Incoming) =>
          if o.id = id then { o with left := o.left.filter (· ≠ q.tag), refused := o.refused || m.refused, w := max o.w m.t1,
                                     reply := match old with
                                       | some v => o.reply ++ [(q.line, BitVec.ofNat 1024 v.1)]
                                       | none => o.reply } else o }
      | _ => s) s).incomingDone
    if q.kind = 0 then s.commitCore q.die q.core else s

/-! ### Holders (R72 to R79) -/

/-- An incoming put's line is granted: it is written, and written back at once (R89). An add to a line whose data is poisoned is not
made, as for a copy (DEDUCED, log 76). -/
def State.putLineBack (s : State) (h : Hold) (m : Msg) (o : Incoming) : State :=
  -- the operation's bytes that lie in this line
  let parts := (List.range o.len).filter fun i => lineOf (pagePa o.pages (o.addr + i)) = h.line
  let old (i : Nat) : Nat := (Line.byte m.data ((o.addr + i) % 128)).toNat
  let new (i : Nat) : Nat :=
    let byte (j : Nat) : Nat := ((o.data[j]?).getD 0).toNat
    let el := if o.op = 2 then 8 else 4
    let j := i / el * el
    let word (f : Nat → Nat) : Nat := (List.range el).foldr (fun n v => v * 256 + f (j + n)) 0
    if o.op = 0 then byte i
    else atomFlt 0 (o.op = 2) (word old) (word byte) / 256 ^ (i - j) % 256
  let d : Line := parts.foldl (fun (n : Line) i =>
    let p := 8 * ((o.addr + i) % 128)
    n &&& ~~~((0xff : Line) <<< p) ||| (BitVec.ofNat 1024 (new i) <<< p)) 0
  let mask := parts.foldl (fun (b : BitVec 128) i => b ||| byteMask ((o.addr + i) % 128) 1) 0
  let bad : Bool := o.op ≠ 0 && m.poison ≠ 0
  let tag := s.nextId
  { s.sendWriteback { h with data := d, dirty := if bad then 0 else mask } false m with
    incoming := s.incoming.map fun (x : Incoming) =>
      if x.id = o.id then { x with left := x.left.map (fun t => if t = m.tag then tag else t), refused := x.refused || bad } else x }

/-- ExclGrant at the agent that asked. A line that its copy no longer needs goes back at once. -/
def State.exclGrant (s : State) (m : Msg) : State :=
  match s.holds.find? fun h => h.st = 0 && h.reader.tag = m.tag with
  | none => s
  | some h =>
    if agentKind h.agent = 7 then
      (match s.incoming.find? (·.id = h.user) with
        | none => s.dropHold h
        | some o =>
          if m.refused then { s.dropHold h with incoming := s.incoming.map fun (x : Incoming) => if x.id = o.id then { x with refused := true, left := x.left.filter (· ≠ m.tag) } else x }.incomingDone
          else s.putLineBack h m o)
    else if m.refused then s.leaseRefused h
    else
      let h' : Hold := { h with st := 1, till := m.t2 - s.eAt h.unit, renewed := s.tcAt h.unit, data := m.data, bad := m.poison }
      { s with holds := s.holds.map fun (o : Hold) => if o.is h then h' else o }.pumpCopy h.user

/-- Forward or Recall at a holder. A copy of whose chunk the line is part answers when the chunk's write to it is complete. A line
whose lease has ended is not answered, and a message that has overtaken the ExclGrant of a WAITING holder waits for it (R75, R76,
R78; DESIGN CHOICE, log 79). -/
def State.asked (s : State) (m : Msg) : State :=
  let mine (st : Nat) : Option Hold := s.holds.find? fun h => h.unit = m.dst && h.line = lineOf m.addr && h.st = st
  match mine 1 with
  | none => if (mine 0).isSome then { s with net := s.net ++ [m] } else s
  | some h =>
    let fwd : Bool := m.ty = .forward
    if !s.holdLive h then (s.lapse h).pumpCopy h.user
    else if s.writing h then { s with holds := s.holds.map fun (o : Hold) => if o.is h then { o with asked := if fwd then 1 else 2, reader := m } else o }
    else (s.sendWriteback h fwd m).pumpCopy h.user

/-- Homes at which an agent holds leases. -/
def State.homesHeld (s : State) (agent : Nat) : List Nat :=
  ((s.holds.filter fun h => h.agent = agent && h.st = 1).map fun h => s.homeOf (lineAddr h.line)).eraseDups

/-- Renew every 25 µs (R73). -/
def State.renewAll (s : State) (agent : Nat) : State :=
  let due (h : Hold) : Bool := !s.dieDown h.unit && h.agent = agent && h.st = 1 && h.renewed + 25000 ≤ s.tcAt h.unit
  match s.holds.find? due with
  | none => s
  | some h =>
    let now := s.tcAt h.unit
    let s := (s.homesHeld agent).foldl (fun s home => s.post { id := 0, ty := .renew, src := h.unit, dst := home, agent := agent, inc := h.inc, t1 := now }) s
    { s with holds := s.holds.map fun (o : Hold) => if o.agent = agent && o.st = 1 then { o with renewed := now, till := max o.till (now + 100000 - s.eAt h.unit) } else o }

/-- Renew at a home; what is due comes first, and a dead incarnation is refused (R73, R77, R79). -/
def State.renewed (s : State) (m : Msg) : State :=
  let home := m.dst
  let s := if s.deadDue home m.agent m.inc then s.declareHolder home m.agent m.inc else s
  let s := (s.regions.filter fun r => r.agent = m.agent && r.inc = m.inc && s.xexpDue home r).foldl (fun s r => s.revert home r) s
  if s.isDead home m.agent m.inc then s
  else
    let now := s.tcAt home
    { s with
      regions := s.regions.map fun (r : Region) =>
        if r.home = home && r.st ∈ [LineSt.excl, .fwd, .recall] && r.agent = m.agent && r.inc = m.inc then { r with xexp := max r.xexp (now + 100000) } else r
      renewals := s.renewals.map fun (x : Nat × Nat × Nat × Nat) => if x.1 = home && x.2.1 = m.agent && x.2.2.1 = m.inc then (home, m.agent, m.inc, now) else x }

/-- The end of a holder's own lease bound: it stops using its copy. A holder that has sent no Renew for 75 µs expects to miss the
next one too and writes back before it (R73, R78; log 80). -/
def State.ownBound (s : State) (agent line : Nat) : State :=
  match s.holds.find? fun h => h.agent = agent && h.line = line && h.st = 1 with
  | none => s
  | some h =>
    if !s.holdLive h then (s.lapse h).pumpCopy h.user
    else if s.tcAt h.unit < h.renewed + 75000 || s.writing h then s
    else (s.sendWriteback h false h.reader).pumpCopy h.user

/-- A home finds a holder dead after 80 µs with no Renew (R79). -/
def State.deadTimeout (s : State) (agent line : Nat) : State :=
  let home := s.homeOf (lineAddr line)
  match s.renewals.find? fun x => x.2.1 = agent && s.deadDue home agent x.2.2.1 with
  | none => s
  | some x => s.declareHolder home agent x.2.2.1

/-! ### WATCHes at the watcher (R382, R403, R404) -/

def State.watchFired (s : State) (m : Msg) : State :=
  if m.dst = bn1Unit then (if m.tag % 2 = 0 then s.bindTail (m.tag / 2) else s.headTry (m.tag / 2))
  else { s with warps := s.warps.map fun (p : WarpKey × Warp) => match p.2.wait with
    | .waitm t0 tag _ => if tag = m.tag && p.2.die = m.dst then (p.1, { p.2 with wait := .waitmAgain t0 }) else p
    | _ => p }

/-- The 1 ms of a WATCH have passed. -/
def State.watchTimeout (s : State) (id : Nat) : State :=
  match s.watches.find? (·.id = id) with
  | none => s
  | some x =>
    if s.tcAt x.home < x.setAt + 1000000 then s
    else
      let s := { s.fire x.home x.msg 0 4 with watches := s.watches.filter fun (o : Watch) => o.id ≠ id }
      match s.regionOf x.home x.line with
      | some r => s.setRegion { r with watches := ((s.watches.find? fun y => y.home = x.home && y.line = x.line).map (·.id)).getD 0 }
      | none => s

/-! ### LOST notices and clears (R80, R475, R482, R484) -/

/-- LostNotice: at the companion's end of the Kelvia Link a notice is written; the named agent has lost the line. -/
def State.lostNoticed (s : State) (m : Msg) : State :=
  if m.dst = 257 || m.dst = 261 then s.notice (m.op / 256) (m.op % 256) (m.src % 128) m.agent m.addr (if m.op / 256 = 1 then m.inc else 0)
  else match s.holds.find? fun h => h.agent = m.agent && h.line = lineOf m.addr && h.st = 1 && h.inc = m.inc with
    | some h => (s.lapse h).pumpCopy h.user
    | none => s

/-- The answer to a clear request. -/
def State.clearAnswered (s : State) (m : Msg) : State :=
  { s with warps := s.warps.map fun (p : WarpKey × Warp) => match p.2.wait with
    | .rgnclr left n => if left.contains m.tag then (p.1, { p.2 with wait := .rgnclr (left.filter (· ≠ m.tag)) (n + m.t1) }) else p
    | _ => p }

/-! ### Invalidation of translations (R30, R52) -/

/-- The translation unit of a mesh unit: a die, or BN1's. -/
def tlbDie (unit : Nat) : Nat := if unit < 128 then unit else bn1

/-- The page at `base` of 2^`bits` bytes falls under the invalidation. -/
def invalHits (mode va size base n : Nat) : Bool :=
  match mode with
  | 0 => base ≤ va && va < base + n
  | 1 => base < va + size && va < base + n
  | _ => true

/-- Accesses of a unit made before a point, which may have used a removed translation, are still to perform. -/
def State.olderAccess (s : State) (unit mark : Nat) : Bool :=
  (s.reqs.any fun q => q.tag < mark && (if unit < 128 then q.kind ≤ 5 && q.die = unit else q.kind = 9 || q.kind = 7)) ||
    (s.holds.any fun h => (if unit < 128 then h.unit = unit else agentKind h.agent = 7) && h.reader.tag < mark) ||
    (128 ≤ unit && s.incoming.any fun o => o.id < mark && o.st = 1) ||
    s.warps.any fun p => p.2.die = unit && p.2.outs.any fun o => o.id < mark && !o.finished && o.kind = .load

/-- An invalidation at its unit: the entries go at once, and the acknowledgement leaves when older accesses are done. -/
def State.invalidate (s : State) (m : Msg) : State :=
  let ack (s : State) (dst : Nat) : State := s.post { id := 0, ty := .tlbAck, tag := m.tag, src := m.dst, dst := dst, agent := m.agent }
  if m.once then (if s.olderAccess m.dst m.t1 then { s with net := s.net ++ [m] } else ack s m.reason)
  else
    let t := s.purge (fun d => d = tlbDie m.dst) (fun base n => invalHits m.op m.addr m.t2 base n) m.inc (m.op = 2)
    if m.dst < 128 && 2 ≤ s.panel.gating.get 0 m.dst then ack t m.src
    else t.post { m with once := true, src := m.dst, t1 := s.nextId, reason := m.src }

/-- An acknowledgement; the last one ends the invalidation. -/
def State.invalAcked (s : State) (m : Msg) : State :=
  match s.invals.find? (·.id = m.tag) with
  | none => s
  | some v =>
    let left := v.left.filter (· ≠ m.src)
    if left ≠ [] then { s with invals := s.invals.map fun (o : Inval) => if o.id = v.id then { o with left := left } else o }
    else
      let s := { s with invals := s.invals.filter fun (o : Inval) => o.id ≠ v.id }
      match v.warp with
      | some k => s.modWarp k fun w => { w with wait := if w.wait = .inval v.id then .inval 0 else w.wait }
      | none => s

/-! ### Span operations of this module (R89, R356, R486) -/

/-- A span operation has its answer: the old value, or a refusal; that of a put carries its latest perform time w (R89, R108). -/
def State.spanAnswered (s : State) (o : SpanOp) (ok : Bool) (w : Nat) : State :=
  match o.user with
  | none =>
    let line := o.addr.toNat % 2 ^ 56 / 128
    let s := if ok && o.kind = 0 then s.copyPerformed o.copy w else s
    let s := if o.kind = 1 then
        s.modCopy o.copy fun c => { c with buf := c.buf ++ [⟨spanLine c.desc.module line, 0, onceUpto, 0, !ok, (List.range 16).foldl (fun d i => d ||| ((Config.spanReply (s.nextId + i)).zeroExtend 1024 <<< (64 * i))) 0⟩] }
      else s
    (if ok then s else s.copyErr o.copy 8 (o.addr.toNat % 2 ^ 56)).pumpCopy o.copy
  | some (k, id) =>
    match s.warp? k with
    | none => s
    | some w => match w.outs.find? (·.id = id) with
      | none => s
      | some x =>
        if o.kind = 2 && !ok then s.trapOut k id cProt 10 0 o.lane o.addr
        else
          let w := if ok || w.r.spanRef ≠ 0 then w else { w with r := { w.r with spanRef := o.addr } }
          let lanes := x.lanes.map fun l => if l.lane = o.lane then { l with done := true, val := (Config.spanReply s.nextId).toNat % 256 ^ l.size } else l
          let w := w.modOut id fun x => { x with lanes := lanes }
          if lanes.any fun l => !l.done then s.setWarp k w
          else
            let f (r : Regs) : Regs := if o.kind = 2 then lanes.foldl (fun r l => loadInto (s.header k).nS x.op x.x l l.val r) r else r
            let fin : Warp := { (w.modOut id fun x => { x with finished := true, dests := [] }).prune with wait := w.waitAfter id }
            (s.setWarp k (fin.fill x f)).commitAll k

/-- An answer has come for a span operation; it uses up free values (log 33). -/
def State.spanAck (s : State) (id : Nat) (refused : Bool) (w : Nat) : State :=
  match s.spans.find? (·.id = id) with
  | none => s
  | some o =>
    let s := { s with spans := s.spans.filter fun (x : SpanOp) => x.id ≠ id }
    let s := s.spanAnswered o (!refused) w
    { s with nextId := s.nextId + 16 }

/-- No answer for 1 ms, or no port at all: the operation fails. -/
def State.spanTimeout (s : State) (id : Nat) : State :=
  match s.spans.find? (·.id = id) with
  | none => s
  | some o => if o.port < 48 && s.now < o.sentAt + 1000000 then s else { s with spans := s.spans.filter fun (x : SpanOp) => x.id ≠ id }.spanAnswered o false 0

/-- A port fails: what it carried is sent again on another. -/
def State.portFail (s : State) (port : Nat) : State :=
  if s.portsOut.contains port || 48 ≤ port then s
  else
    let s := { s with portsOut := s.portsOut ++ [port] }
    let s := { s with spans := s.spans.map fun (o : SpanOp) => if o.port = port then { o with port := s.spanRoute o.addr } else o }
    s.notice 9 0 (port / 8) 0 0 port

def State.portRestore (s : State) (port : Nat) : State :=
  if s.portsOut.contains port then { s with portsOut := s.portsOut.filter (· ≠ port) }.notice 9 0 (port / 8) 0 0 port else s

/-! ### Operations of other modules (R89, R150, R487) -/

/-- Bridge of a span port: BN0, BN2, BN3, BS0, BS2 and BS3 carry eight ports each (R17). -/
def portBridge (port : Nat) : Nat := ([0, 2, 3, 4, 6, 7][port / 8]?).getD 0

def spanAgent (port : Nat) : Nat := agentId 7 (portBridge port) 0

/-- The entry of the span ASID map for a source module and ASID. -/
def State.spanAsid (s : State) (module asid : Nat) : Option Nat :=
  let e := s.reg (0x31000 + 2 * (256 * module + asid))
  if e / 2 ^ 15 % 2 = 1 then some (e % 256) else none

/-- The pages of an operation through BN1's translation unit; `dead` where one does not translate or permit it (R89, R407). -/
def State.spanPages (s : State) (asid kind : Nat) : List Nat → List (Nat × Nat) → Pooled (List (Nat × Nat))
  | [], acc => .ok s acc
  | p :: ps, acc =>
    match s.faults.find? fun f => f.meets bn1 asid kind (p * 2 ^ 16) with
    | some f => .dead (s.spent f.id)
    | none => match s.tlbs.find? fun t => t.hits 2 bn1 0 asid (p * 2 ^ 16) && permits kind t.w t.x with
      | some t => s.spanPages asid kind ps ((p, t.pa + p * 2 ^ 16 % 2 ^ t.bits) :: acc)
      | none => .wait (s.startWalk bn1 asid kind (p * 2 ^ 16)).1

def State.spanReach (s : State) (o : Incoming) : Pooled (List (Nat × Nat)) :=
  match s.spanAsid o.module o.asid with
  | none => .dead s
  | some a => if o.len = 0 || 2 ^ 56 < o.addr + o.len then .dead s else s.spanPages a (if o.kind = 1 then kSpanRead else kSpanWrite) (pagesOf o.addr o.len) []

/-- One line's request of an operation of another module. -/
def State.spanRequest (s : State) (o : Incoming) (pas : List (Nat × Nat)) (line : Nat) : State :=
  let a := spanAgent o.port
  let unit := agentUnit a
  match o.kind with
  | 0 =>
    let tag := s.nextId
    let m : Msg := { id := tag, ty := .exclReq, tag := tag, src := unit, dst := s.homeOf (lineAddr line), agent := a, inc := s.incOf a, addr := lineAddr line }
    { s with nextId := tag + 1, net := s.net ++ [m], holds := s.holds ++ [⟨a, s.incOf a, unit, line, 0, 0, s.now, 0, 0, 0, 0, m, o.id⟩] }
  | 1 => s.sendAs a unit 0 (.incoming o.id) { id := 0, ty := .readReq, once := true, src := 0, dst := 0, addr := lineAddr line }
  | k =>
    let data := (o.data.foldr (fun b n => b.toNat + n * 256) 0) % 2 ^ 64 + o.cmp * 2 ^ 64
    s.sendAs a unit 0 (.incoming o.id) { id := 0, ty := .atomReq, src := 0, dst := 0, addr := pagePa pas o.addr, op := o.op, noret := k = 3, data := BitVec.ofNat 1024 data }

/-- Start an operation of another module: its requests leave once its pages are at hand, or it is refused. -/
def State.startIncoming (s : State) (id : Nat) (kinds : List Nat) : State :=
  match s.incoming.find? (·.id = id) with
  | none => s
  | some o =>
    if o.st ≠ 0 || !kinds.contains o.kind then s
    else
      let set (s : State) (f : Incoming → Incoming) : State := { s with incoming := s.incoming.map fun (x : Incoming) => if x.id = id then f x else x }
      match s.spanReach o with
      | .wait s => s
      | .dead s => set s fun x => { x with refused := true, st := 2 }
      | .ok s pas =>
        let lines := (vlines o.addr o.len).map fun l => lineOf (pagePa pas (l * 128))
        let tags := (List.range lines.length).map (s.nextId + ·)
        lines.foldl (fun s l => s.spanRequest o pas l) (set s fun x => { x with st := 1, left := tags, pages := pas })

/-! ### Copies (R152, R158) -/

/-- A copy that is over arrives on its barrier register once its latest write has passed (R108). -/
def State.arriveCopy (s : State) (id : Nat) : State :=
  match s.copies.find? (·.id = id) with
  | none => s
  | some c => if !s.dieDown c.die && s.copyOver c && s.passed c.die c.latest then (s.copyArrive c).tryLeave c.team else s

/-! ### Events: homes -/

/-- A ReadReq reaches its home (R61). -/
def execReadReq (s : State) : Res := .next (s.homeRequest (· = .readReq))

/-- An ExclReq reaches its home (R72). -/
def execExclReq (s : State) : Res := .next (s.homeRequest (· = .exclReq))

/-- A StoreReq, or the request of a CCTL.wb, reaches its home (R63). -/
def execStoreReq (s : State) : Res := .next (s.homeRequest fun t => t = .storeReq || t = .clean)

/-- An AtomReq reaches its home (R66). -/
def execAtomReq (s : State) : Res := .next (s.homeRequest (· = .atomReq))

/-- A WatchSet reaches its home (R83). -/
def execWatchSet (s : State) : Res := .next (s.homeRequest (· = .watchSet))

/-- A clear request reaches its home (R475). -/
def execLostClearRequest (s : State) : Res := .next (s.homeRequest (· = .lostClear))

/-- A Writeback reaches its home (R74, R77). -/
def execWriteback (s : State) : Res :=
  .next (match s.deliver s.arg.n (· = .writeback) with
    | none => s
    | some (m, t) => if s.homeUp m.dst then t.writeback m else s)

/-- A held write performs, once the site may use its HBM for it (R39, R63). -/
def execWritePerform (s : State) : Res :=
  .next (match s.lineq.find? fun q => q.held.head?.any fun h => h.msg.id = s.arg.n with
    | none => s
    | some q => match q.held with
      | h :: _ =>
        let home := s.homeOf (lineAddr q.line)
        if s.homeUp home && h.w ≤ s.tcAt home && s.hbmFree home q.line then s.perform home q.line h else s
      | [] => s)

/-- An exclusive request has waited for the read leases to end (R72). -/
def execExclWaitExpire (s : State) : Res := .next (if s.homeUp (s.homeOf (lineAddr s.arg.n)) then s.pumpLine (s.homeOf (lineAddr s.arg.n)) s.arg.n else s)

/-- The leases of a line's region have ended (R77). -/
def execSharedExpire (s : State) : Res :=
  let home := s.homeOf (lineAddr s.arg.n)
  .next (match s.regionOf home s.arg.n with
    | none => s
    | some r =>
      if s.homeUp home && r.st = .shared && r.lmax + s.eAt home ≤ s.tcAt home then
        ((s.setRegion { r with st := .invalid }).pumpLine home s.arg.n).pumpHome home
      else s)

/-- A Renew reaches a home (R73). -/
def execRenew (s : State) : Res :=
  .next (match s.deliver s.arg.n (· = .renew) with
    | none => s
    | some (m, t) => if s.homeUp m.dst then t.renewed m else s)

/-- A line's XEXP is reached (R77, R80). -/
def execXexpReached (s : State) : Res :=
  let home := s.homeOf (lineAddr s.arg.n)
  .next (match s.regionOf home s.arg.n with
    | none => s
    | some r =>
      if s.homeUp home && s.xexpDue home r then s.revert home r else s)

/-- A home declares a holder dead (R79). -/
def execHolderDeadTimeout (s : State) : Res := .next (if s.homeUp (s.homeOf (lineAddr s.arg.m)) then s.deadTimeout s.arg.n s.arg.m else s)

/-- 1 ms without a write-wait event: LEN doubles (R68). -/
def execLenDouble (s : State) : Res :=
  let home := s.homeOf s.arg.n
  .next (match s.regionOf home (lineOf s.arg.n) with
    | none => s
    | some r => if s.homeUp home && r.lastwait + 1000000 ≤ s.tcAt home then s.setRegion { r with len := min 8 (r.len + 1), lastwait := s.tcAt home } else s)

/-- Two sibling regions merge (R70). -/
def execRegionMerge (s : State) : Res :=
  let home := s.homeOf s.arg.n
  let old (r : Region) : Bool := !r.busy && r.quiet + 1000000 ≤ s.tcAt home
  .next (match s.regionOf home (lineOf s.arg.n) with
    | none => s
    | some a => match s.regions.find? fun b => siblings a b && old a && old b with
      | some b => if s.homeUp home then (s.mergePair a b).pumpHome home else s
      | none => s)

/-- A WATCH has stood for 1 ms (R83). -/
def execWatchTimeout (s : State) : Res := .next (s.watchTimeout s.arg.n)

/-- The memory behind a line of a home has an uncorrectable failure (R82). -/
def execHomeMemoryFailure (s : State) : Res :=
  let home := s.homeOf (lineAddr s.arg.n)
  .next (if s.homeUp home then s.memoryFailed home s.arg.n 2 else s)

/-- The companion's memory answers a read or write of its lines (R22). -/
def execCompanionMemoryResponse (s : State) : Res :=
  .next (match s.kelvia.find? (·.id = s.arg.n) with
    | none => s
    | some m => { s with kelvia := s.kelvia.filter fun (o : Msg) => o.id ≠ m.id }.post m)

/-! ### Events: agents -/

/-- A ReadGrant reaches the agent that asked (R128, R133). -/
def execReadGrant (s : State) : Res :=
  .next (match s.deliver s.arg.n (· = .readGrant) with
    | none => s
    | some (m, s) => s.readGrant m)

/-- A holder's data reach the reader (R75). -/
def execFwdData (s : State) : Res :=
  .next (match s.deliver s.arg.n (· = .fwdData) with
    | none => s
    | some (m, s) => s.fwdData m)

/-- An ExclGrant reaches the agent that asked (R78). -/
def execExclGrant (s : State) : Res :=
  .next (match s.deliver s.arg.n (· = .exclGrant) with
    | none => s
    | some (m, s) => s.exclGrant m)

/-- A StoreAck reaches the agent that wrote (R64). -/
def execStoreAck (s : State) : Res :=
  .next (match s.deliver s.arg.n fun t => t = .storeAck || t = .cleanAck with
    | none => s
    | some (m, s) => s.writeAcked m none)

/-- An AtomAck reaches the agent that asked (R66, R355). -/
def execAtomAck (s : State) : Res :=
  .next (match s.deliver s.arg.n (· = .atomAck) with
    | none => s
    | some (m, s) => s.writeAcked m (some (m.data.toNat % 2 ^ 64, if m.refused then 3 else m.poison)))

/-- A Forward reaches a holder (R75). -/
def execForward (s : State) : Res :=
  .next (match s.deliver s.arg.n (· = .forward) with
    | none => s
    | some (m, s) => s.asked m)

/-- A Recall reaches a holder (R76). -/
def execRecall (s : State) : Res :=
  .next (match s.deliver s.arg.n (· = .recall) with
    | none => s
    | some (m, s) => s.asked m)

/-- A holder renews its leases (R73). -/
def execRenewTimer (s : State) : Res := .next (s.renewAll s.arg.n)

/-- A holder's own bound of a lease is reached (R73, R78). -/
def execHolderLeaseBound (s : State) : Res := .next (s.ownBound s.arg.n s.arg.m)

/-- A WatchFire reaches the watcher (R83). -/
def execWatchFire (s : State) : Res :=
  .next (match s.deliver s.arg.n (· = .watchFire) with
    | none => s
    | some (m, s) => s.watchFired m)

/-- A LostNotice reaches the companion or the named agent (R80, R482). -/
def execLostNotice (s : State) : Res :=
  .next (match s.deliver s.arg.n (· = .lostNotice) with
    | none => s
    | some (m, s) => s.lostNoticed m)

/-- The answer to a clear request reaches the core (R475). -/
def execLostClearAnswer (s : State) : Res :=
  .next (match s.deliver s.arg.n (· = .lostAnswer) with
    | none => s
    | some (m, s) => s.clearAnswered m)

/-- A message of an unknown TYPE is discarded and counted (R85). -/
def execUnknownMessage (s : State) : Res :=
  .next (match s.deliver s.arg.n (fun t => match t with
      | .unknown _ => true
      | _ => false) with
    | none => s
    | some (m, s) => { s with errors := s.errors.put 0 m.dst (s.errors.get 0 m.dst + 1) })

/-- The companion's command invalidates translations of an ASID in every die in service and in BN1; or an invalidation reaches a
translation unit, or is looked at again there (R52; how the command names its range is not given: DESIGN CHOICE, log 81). -/
def execTranslationInvalidate (s : State) : Res :=
  .next (if s.arg.flag then (s.startInval none 257 (agentId 6 1 0) s.arg.m s.arg.k s.arg.v.toNat s.arg.a.toNat).1 else match s.deliver s.arg.n (· = .tlbInv) with
    | none => s
    | some (m, s) => s.invalidate m)

/-- The acknowledgement of an invalidation arrives (R52). -/
def execInvalidationAcknowledge (s : State) : Res :=
  .next (match s.deliver s.arg.n (· = .tlbAck) with
    | none => s
    | some (m, s) => s.invalAcked m)

/-- A steal request is answered by the target die's Stalk (R433). -/
def execStealRequest (s : State) : Res :=
  .next (match s.deliver s.arg.n (· = .stealReq) with
    | none => s
    | some (m, s) => s.stealAnswer m)

/-- A steal reply reaches the thief (R433). -/
def execStealReply (s : State) : Res :=
  .next (match s.deliver s.arg.n (· = .stealReply) with
    | none => s
    | some (m, s) => s.stealTake m)

/-! ### Events: copies and span -/

/-- A cluster's engine sends its next chunk (R152). -/
def execCopyChunkSend (s : State) : Res := .next (if s.dieDown s.arg.n then s else s.engineStep s.arg.n s.arg.m)

/-- A copy arrives on its barrier register (R158). -/
def execCopyArrive (s : State) : Res := .next (s.arriveCopy s.arg.n)

/-- A put of another module starts (R89). -/
def execSpanIncomingPut (s : State) : Res := .next (s.startIncoming s.arg.n [0])

/-- A get of another module starts (R89). -/
def execSpanIncomingGet (s : State) : Res := .next (s.startIncoming s.arg.n [1])

/-- An atomic or RED of another module starts (R89). -/
def execSpanIncomingAtomic (s : State) : Res := .next (s.startIncoming s.arg.n [2, 3])

/-- Another module answers a span operation (R89, R356). -/
def execSpanAck (s : State) : Res := .next (s.spanAck s.arg.n s.arg.flag s.arg.v.toNat)

/-- A span operation has had no answer for 1 ms (R486). -/
def execSpanTimeout (s : State) : Res := .next (s.spanTimeout s.arg.n)

/-- A span port fails (R486). -/
def execSpanPortFail (s : State) : Res := .next (s.portFail s.arg.n)

/-- A span port is back in service (R482, R486). -/
def execSpanPortRestore (s : State) : Res := .next (s.portRestore s.arg.n)

end Sys2Proof.Machine
end

