-- ==== Sys2Proof/Machine/Fault.lean ====
section
/-! DEFINITION. The end of a walk, and the companion's replies to fault records (R48, R51 to R55, R136, R161, R316, R401,
R434, R480, R481). -/

namespace Sys2Proof.Machine

/-! ### What waits is tried again -/

/-- Units of a die or of BN1 that wait on translations go on. -/
def State.unitsGo (s : State) (die : Nat) : State :=
  if die = bn1 then s.bindAll
  else (((s.grids.map (·.1)).foldl (fun s g => s.poolGo g) s.tryAllArgs).leaveAll).streamsGo

/-- Copies that are paused on a walk or a record go on (R161). -/
def State.copiesGo (s : State) (id : Nat) : State :=
  (s.copies.filter fun c => c.paused = some id).foldl (fun s c => (s.modCopy c.id fun c => { c with paused := none }).pumpCopy c.id) s

/-- Warps that wait on a walk execute again; a page fault is then met by its record (R53). -/
def State.wakeWalk (s : State) (id : Nat) : State :=
  { s with warps := s.warps.map fun (p : WarpKey × Warp) => match p.2.wait with
    | .walk w _ _ => if w = id then (p.1, { p.2 with wait := .none }) else p
    | _ => p }

/-- A walk goes on, and completes once it has read what it needs (R48, R51). -/
def State.endWalk (s : State) (id : Nat) : State :=
  match s.walkGo id with
  | (s, none) => s
  | (s, some (w, f)) => (((s.walkDone w f).wakeWalk id).copiesGo id).unitsGo w.die

/-- The walk that follows a Resolve reads every level, with single-use reads (R481); one that is in flight starts again so. -/
def State.walkAfresh (s : State) (f : FaultRec) : State :=
  let r := s.startWalk f.die f.asid f.kind f.va
  ({ r.1 with walks := r.1.walks.map fun (w : Walk) => if w.id = r.2 then { w with once := true, rd := [], tag := 0 } else w }.walkGo r.2).1

/-! ### Resolve (R55, R481) -/

/-- The record's accesses are tried again, after the page's translations are gone from the die. -/
def State.resolve (s : State) (f : FaultRec) : State :=
  let s := s.purge (· = f.die) (fun base n => base < f.va + 2 ^ f.bits && f.va < base + n) f.asid false
  let s := { s with
    faults := s.faults.filter fun (o : FaultRec) => o.id ≠ f.id
    unitWaits := s.unitWaits.filter fun (u : UnitWait) => u.fault ≠ f.id
    warps := s.warps.map fun (p : WarpKey × Warp) =>
      let w : Warp := { p.2 with outs := p.2.outs.map fun (o : Out) => if o.kind = OKind.stream && o.slot = f.id + 1 then { o with slot := 0 } else o }
      match w.wait with
      | .page n _ _ => (p.1, if n = f.id then { w with wait := .none } else w)
      | _ => (p.1, w) }
  (((((s.walkAfresh f).matReply f.id f.cause false).copiesGo f.id).streamsGo).unitsGo f.die)

/-! ### Decline (R55) -/

/-- A warp that waits on a declined record traps precisely: at a scratch access whose fill has faulted, at a stream
instruction, or at the instruction that executes. -/
def State.declineWarp (s : State) (f : FaultRec) (k : WarpKey) : State :=
  match s.warp? k with
  | none => s
  | some w =>
    let vault := w.outs.findSome? fun o =>
      if o.kind = .vload || o.kind = .vstore || o.kind = .vatom then (o.lanes.find? fun l => !l.done && l.tag = f.id).map fun l => (o.id, l.lane, l.va) else none
    let stream := w.outs.find? fun o => o.kind = .stream && !o.finished && o.slot = f.id + 1
    match vault, stream, w.wait with
    | some (id, lane, va), _, _ => s.trapOut k id cProt f.cause 0 lane va
    | none, some o, _ => (s.dropStreams k).trapOut k o.id cProt f.cause 0 (lowest o.mask) ((o.lanes.head?.map (·.va)).getD 0)
    | none, none, .page n lane va =>
      if n = f.id then s.trap k { w with wait := .none } ⟨cProt, f.cause, 0, lane, va, w.r.pc, false, false, false⟩ else s
    | _, _, _ => s

/-- A declined access of a unit takes its chapter's unrecoverable path. -/
def State.declineUnit (s : State) (u : UnitUse) : State :=
  match u with
  | .pool g => s.endGrid g 17
  | .args t => s.endGrid t.grid 8
  | .ring q => s.stopQueue q 8
  | .header q => s.noteDecline q 0
  | .launchArgs q => s.noteDecline q 1
  | .waitAddr q => s.noteDecline q 2
  | .overflow q => s.noteDecline q 3
  | .refused q => s.noteDecline q 4
  | .signal g => { s with grids := s.grids.modify g fun x => { x with ending := some 18, l := { x.l with recorded := false, signal := 0 } } }
  | .flush t _ va =>
    -- the page's dirty words cannot be written back
    match s.team? t with
    | none => s
    | some tm =>
      let ls := tm.maps.flatMap fun m => (s.dirtyLines tm m m.soff m.slen).filter fun p => p.2 / 2 ^ 16 = va / 2 ^ 16
      (ls.foldl (fun s p => (wordsOf p.1).foldl (fun s w => s.setWord w (s.wordBits w &&& ~~~bDirty)) s) s).endGrid t.grid 17
  | .context k => s.endGrid k.grid 17
  | .rgn k va => { s with unitWaits := s.unitWaits ++ [⟨0, .rgn k va⟩] }

/-- Words that wait for fills from the page, none of which has been sent, return to their state before (R136). -/
def State.unpendPage (s : State) (f : FaultRec) : State :=
  (s.teams.filter fun p => p.2.resident && p.2.die = f.die).foldl (fun s p =>
    (p.2.maps.filter (·.asid = f.asid)).foldl (fun s m =>
      let va (l : Nat) : Nat := m.va + (l * 128 - (p.2.base + m.soff))
      ((p.2.lines m.soff m.slen).filter fun l => f.va ≤ va l && va l < f.va + 2 ^ f.bits).foldl (fun s l => s.unpendLine l) s) s) s

/-- Everything that waits on the record ends. -/
def State.decline (s : State) (f : FaultRec) : State :=
  let waits := s.unitWaits.filter fun u => u.fault = f.id
  let s := { s with
    faults := s.faults.map fun (o : FaultRec) => if o.id = f.id then { o with declined := true } else o
    unitWaits := s.unitWaits.filter fun (u : UnitWait) => u.fault ≠ f.id }
  let s := ((s.unpendPage f).matReply f.id f.cause true).copiesGo f.id
  let s := (s.warps.map (·.1)).foldl (fun s k => s.declineWarp f k) s
  let s := { s with faults := s.faults.filter fun (o : FaultRec) => o.id ≠ f.id }
  (waits.foldl (fun s u => s.declineUnit u.use) s).unitsGo f.die

/-- A reply of the companion names a record that is outstanding, or is discarded and counted. -/
def State.reply' (s : State) (v : DWord) (decline : Bool) : State :=
  if v.getLsbD 32 ≠ decline then s
  else match s.faults.find? fun f => f.written && !f.declined && f.token % 2 ^ 32 = v.toNat % 2 ^ 32 with
    | none => s.svcErr
    | some f =>
      if s.dieDown f.die then { s with faults := s.faults.filter fun (o : FaultRec) => o.id ≠ f.id }
      else if decline then s.decline f else s.resolve f

/-! ### Events -/

/-- A page walk completes (R48). -/
def execWalkDone (s : State) : Res := .next (s.endWalk s.arg.n)

/-- A held fault record is tried again (R53). -/
def execFaultRecordRetry (s : State) : Res := .next (s.writeFault s.arg.n)

/-- The companion resolves a fault (R55). -/
def execFqReplyResolve (s : State) : Res := .next (s.reply' s.arg.v false)

/-- The companion declines a fault (R55). -/
def execFqReplyDecline (s : State) : Res := .next (s.reply' s.arg.v true)

end Sys2Proof.Machine
end

