-- ==== Sys2Proof/Machine/Function.lean ====
section
/-! DEFINITION. Special functions, FGATE and the row instructions, opcodes 0x63 to 0x68 and 0x80 to 0x8b
(R283 to R297). -/

namespace Sys2Proof.Machine

/-- R285. -/
def special (fn : Fn) (c : Cx) (lane : Nat) (r : Regs) : Regs :=
  let rf := c.x.m 0 3
  if c.x.m 3 1 = 1 then c.outPt .fp32 lane ((fn.pt rf (c.pt lane c.x.a)).convert (rfFmt rf) .fp32) r
  else c.outIv .fp32 lane (fn.iv rf (c.iv lane c.x.a)) r

/-- The activation ACT names (R288). -/
def gateFn (act : Nat) : Fn :=
  match act with
  | 0 => .silu
  | 1 => .gelu
  | _ => .sig

/-- A product of FP32 intervals with its bounds in a result format. -/
def mulInto (f : Fmt) (x y : Iv) : Iv :=
  match Iv.mulF .fp32 f x y with
  | .mk a b d => .mk (a.convert f .fp32) (b.convert f .fp32) d
  | v => v

/-- A product of FP32 points rounded once into a result format. -/
def mulPtInto (f : Fmt) (x y : Pt) : Pt :=
  match x, y with
  | .fin a c, .fin b d =>
    let m := (Fmt.fp32.mag c).mul (Fmt.fp32.mag d)
    if m.m = 0 then .fin (a != b) 0 else (roundNearAbs f (a != b) m.cut).convert f .fp32
  | x, y => Pt.fmaP .fp32 x y none

def gate (c : Cx) (lane : Nat) (r : Regs) : Regs :=
  let f := rfFmt (c.x.m 0 3)
  let fn := gateFn (c.x.m 4 2)
  if c.x.m 3 1 = 1 then c.outPt .fp32 lane (mulPtInto f (fn.pt 0 (c.pt lane c.x.a)) (c.pt lane c.x.b)) r
  else c.outIv .fp32 lane (mulInto f (fn.iv 0 (c.iv lane c.x.a)) (c.iv lane c.x.b)) r

/-! ### Rows (R290 to R296) -/

/-- MASKNEG, −2^120 (R212). -/
def maskNeg : Pt := .fin true 0x7b800000

/-- An element whose upper bound is at or below MASKNEG, the empty set included (R291). -/
def Iv.masked : Iv → Bool
  | .nai => false
  | .empty => true
  | .mk _ b _ => b.le maskNeg

/-- [+0, +0] with a decoration. -/
def zeroWith (d : Dec) : Iv := .mk Pt.zero Pt.zero d

/-- A chain of FADD from `z` over the operands in order. -/
def chain (z : Iv) (xs : List Iv) : Iv := xs.foldl (Iv.add .fp32) z
def rowSum (xs : List Iv) : Iv := chain Iv.zero xs

/-- lo := max(lo, +0). -/
def Iv.clampLow : Iv → Iv
  | .mk a b d => .mk (Pt.max a Pt.zero).posZero b d
  | v => v

/-- hi := min(hi, 1). -/
def Iv.clampHigh : Iv → Iv
  | .mk a b d => .mk a (Pt.min b (Pt.one .fp32)) d
  | v => v

/-- All elements thin with one value. -/
def thinEqual (xs : List Iv) : Bool :=
  match xs with
  | .mk a _ _ :: _ => xs.all fun v => match v with
    | .mk b c _ => b.key = a.key && c.key = a.key
    | _ => false
  | _ => false

/-- Mean and variance of the unmasked elements (R293). -/
def rowStat (xs : List Iv) : Iv × Iv :=
  let k := Iv.ofNat .fp32 xs.length
  if thinEqual xs then (xs.headD .nai, Iv.zero)
  else
    let m := Iv.div .fp32 (rowSum xs) k
    (m, (Iv.div .fp32 (rowSum (xs.map fun v => Iv.sqr .fp32 (Iv.sub .fp32 v m))) k).clampLow)

/-- The state of a softmax row: NaI, empty or not thin, or a NaI sum (R295). -/
def badState (o s : Iv) : Bool :=
  match o with
  | .mk a b _ => a.key ≠ b.key || s.isNai
  | _ => true

def offsetOf (o : Iv) : Pt :=
  match o with
  | .mk a _ _ => a
  | _ => Pt.zero

def thinAt (p : Pt) : Iv := .mk p.posZero p.posZero Dec.com

/-- FEXP of a difference. -/
def expDiff (x y : Iv) : Iv := Fn.iv .exp 0 (Iv.sub .fp32 x y)

/-- A row with its unmasked elements, and the predicate of R291. -/
structure Row where
  xs : List Iv
  live : List Iv
  e : Tri

def Row.of (xs : List Iv) : Row :=
  let live := xs.filter fun v => !v.masked
  ⟨xs, live, if live.any Iv.isNai then Tri.und else if live.isEmpty then Tri.ff else Tri.tt⟩

/-- One value of a row or the three cases of R291. -/
def Row.stat {α : Type} (w : Row) (nai full live : α) : α :=
  if w.e = Tri.und then nai else if w.e = Tri.ff then full else live

/-- The row's elements (R290). -/
def Cx.row (c : Cx) (lane : Nat) : Row :=
  match c.x.a with
  | .reg n => Row.of ((List.range c.x.imm.toNat).map fun i => ((c.w.r.getF (n.toNat + i) lane).raw.read .fp32).flush .fp32 c.x.fzi)
  | _ => Row.of []

/-- Register n + i of a floating position as an interval. -/
def Cx.fAt (c : Cx) (lane : Nat) (x : Sel) (i : Nat) (fz : Bool) : Iv :=
  match x with
  | .reg n => ((c.w.r.getF (n.toNat + i) lane).raw.read .fp32).flush .fp32 fz
  | _ => .nai

/-- Write results to F D, F D + 1, … and E. -/
def Cx.putRow (c : Cx) (lane : Nat) (vs : List Iv) (e : Tri) (r : Regs) : Regs :=
  match c.x.d with
  | .reg n => putE lane c.x.e e ((List.range vs.length).foldl
      (fun r i => r.setF (n.toNat + i) lane (FReg.ofRaw (((vs.getD i .nai).flush .fp32 c.x.fzo).write .fp32))) r)
  | _ => r

/-- R292. -/
def rowMax (c : Cx) (lane : Nat) (r : Regs) : Regs :=
  let w := c.row lane
  let m := match w.live with
    | [] => .nai
    | v :: vs => vs.foldl Iv.imax v
  c.putRow lane [w.stat .nai (.mk maskNeg maskNeg Dec.trv) m] w.e r

def rowAdd (c : Cx) (lane : Nat) (r : Regs) : Regs :=
  let w := c.row lane
  c.putRow lane [w.stat .nai (zeroWith Dec.trv) (rowSum w.live)] w.e r

/-- R293. -/
def rowStats (c : Cx) (lane : Nat) (r : Regs) : Regs :=
  let w := c.row lane
  let p := rowStat w.live
  c.putRow lane (w.stat [.nai, .nai] [zeroWith Dec.trv, zeroWith Dec.trv] [p.1, p.2]) w.e r

/-- R294: mode 0 `.rms`, 1 `.ln`. -/
def normAll (mode : Nat) (eps : Iv) (live : List Iv) : Iv → Iv :=
  if mode = 0 then
    let q := Iv.div .fp32 (rowSum (live.map (Iv.sqr .fp32))) (Iv.ofNat .fp32 live.length)
    let s := Iv.rsqrt .fp32 (Iv.add .fp32 q eps)
    fun v => Iv.mul .fp32 v s
  else
    let p := rowStat live
    let s := Iv.rsqrt .fp32 (Iv.add .fp32 p.2 eps)
    fun v => Iv.mul .fp32 (Iv.sub .fp32 v p.1) s

def rowNorm (c : Cx) (lane : Nat) (r : Regs) : Regs :=
  let w := c.row lane
  let y := normAll (c.x.m 0 1) (c.iv lane c.x.b) w.live
  let out := w.xs.map fun v => if w.e = Tri.ff then zeroWith Dec.trv else if v.masked then Iv.zero else if w.e = Tri.und then .nai else y v
  c.putRow lane out w.e r

/-- The state after one chunk (R295): the terms are summed from [+0, +0] as R291 says, and the sum is added to s′ (log 15). -/
def smxStep (o s : Iv) (w : Row) : Iv × Iv :=
  let c := offsetOf o
  let his := w.live.filterMap fun v => match v with
    | .mk _ b _ => some (Pt.min b (.fin false Fmt.fp32.top))
    | _ => none
  let c' := his.foldl Pt.max c
  let t := thinAt c'
  (t, Iv.add .fp32 (Iv.mul .fp32 s (expDiff (thinAt c) t)) (rowSum (w.live.map fun v => expDiff v t)))

def rowSmxu (c : Cx) (lane : Nat) (r : Regs) : Regs :=
  let o := c.fAt lane c.x.d 0 false
  let s := c.fAt lane c.x.d 1 false
  if badState o s then
    match c.x.d with
    | .reg n => putE lane c.x.e Tri.und (r.setF (n.toNat + 1) lane (FReg.ofRaw (Iv.nai.write .fp32)))
    | _ => r
  else
    let p := smxStep o s (c.row lane)
    c.putRow lane [p.1, p.2] (if p.2.isNai then Tri.und else if (offsetOf p.1).key = maskNeg.key then Tri.ff else Tri.tt) r

/-- hi := min(hi, 1). A lower bound above 1, which no state of the row's own chunks leaves, makes no interval of R193 then:
the value is open (log 66). -/
def Iv.clampProb : Iv → Iv
  | .mk a b d =>
    if (Pt.one .fp32).lt a then (let x := Config.crossedClamp a.key; Iv.load .fp32 (loWord x).toNat (hiWord x).toNat)
    else Iv.clampHigh (.mk a b d)
  | v => v

/-- One probability (R296). -/
def smxProb (o s : Iv) (v : Iv) : Iv :=
  if badState o s then (if v.masked then Iv.zero else .nai)
  else if (offsetOf o).key = maskNeg.key then zeroWith Dec.trv
  else if v.masked then Iv.zero
  else if s = .mk Pt.zero Pt.zero s.dec then zeroWith Dec.trv
  else (Iv.div .fp32 (expDiff v (thinAt (offsetOf o))) s).clampLow.clampProb

def rowSmxa (c : Cx) (lane : Nat) (r : Regs) : Regs :=
  let o := c.fAt lane c.x.b 0 c.x.fzi
  let s := c.fAt lane c.x.b 1 c.x.fzi
  let ys := (c.row lane).xs.map (smxProb o s)
  let e := if badState o s || ys.any Iv.isNai then Tri.und else if (offsetOf o).key = maskNeg.key then Tri.ff else Tri.tt
  c.putRow lane ys e r

/-- Row maximum over registers, skipping masked elements (R292). -/
def execRmax (x : Ext) (s : State) : Res :=
  perThread .rmax x (extLen x) s (rowMax)

/-- Row sum over registers (R292). -/
def execRsum (x : Ext) (s : State) : Res :=
  perThread .rsum x (extLen x) s (rowAdd)

/-- Row mean and variance in two passes (R293). -/
def execRstat (x : Ext) (s : State) : Res :=
  perThread .rstat x (extLen x) s (rowStats)

/-- Updates the softmax offset and sum with one chunk (R295). -/
def execSmxu (x : Ext) (s : State) : Res :=
  perThread .smxu x (extLen x) s (rowSmxu)

/-- Writes the softmax probabilities of one chunk (R296). -/
def execSmxa (x : Ext) (s : State) : Res :=
  perThread .smxa x (extLen x) s (rowSmxa)

/-- RMS or layer normalisation of a row (R294). -/
def execRnorm (x : Ext) (s : State) : Res :=
  perThread .rnorm x (extLen x) s (rowNorm)

/-- Interval exponential (R285). -/
def execFexp (a : BitVec 7) (d : BitVec 7) (s : State) : Res :=
  perThread .fexp (Ext.base .fexp false 0 a d) 4 s (special .exp)

/-- Extended-form FEXP (R285). -/
def execFexpX (x : Ext) (s : State) : Res :=
  perThread .fexp x (extLen x) s (special .exp)

/-- Interval base-2 exponential (R285). -/
def execFexp2 (a : BitVec 7) (d : BitVec 7) (s : State) : Res :=
  perThread .fexp2 (Ext.base .fexp2 false 0 a d) 4 s (special .exp2)

/-- Extended-form FEXP2 (R285). -/
def execFexp2X (x : Ext) (s : State) : Res :=
  perThread .fexp2 x (extLen x) s (special .exp2)

/-- Interval natural logarithm (R285). -/
def execFlog (a : BitVec 7) (d : BitVec 7) (s : State) : Res :=
  perThread .flog (Ext.base .flog false 0 a d) 4 s (special .log)

/-- Extended-form FLOG (R285). -/
def execFlogX (x : Ext) (s : State) : Res :=
  perThread .flog x (extLen x) s (special .log)

/-- Interval base-2 logarithm (R285). -/
def execFlog2 (a : BitVec 7) (d : BitVec 7) (s : State) : Res :=
  perThread .flog2 (Ext.base .flog2 false 0 a d) 4 s (special .log2)

/-- Extended-form FLOG2 (R285). -/
def execFlog2X (x : Ext) (s : State) : Res :=
  perThread .flog2 x (extLen x) s (special .log2)

/-- Interval tanh (R285). -/
def execFtanh (a : BitVec 7) (d : BitVec 7) (s : State) : Res :=
  perThread .ftanh (Ext.base .ftanh false 0 a d) 4 s (special .tanh)

/-- Extended-form FTANH (R285). -/
def execFtanhX (x : Ext) (s : State) : Res :=
  perThread .ftanh x (extLen x) s (special .tanh)

/-- Interval sigmoid (R285). -/
def execFsig (a : BitVec 7) (d : BitVec 7) (s : State) : Res :=
  perThread .fsig (Ext.base .fsig false 0 a d) 4 s (special .sig)

/-- Extended-form FSIG (R285). -/
def execFsigX (x : Ext) (s : State) : Res :=
  perThread .fsig x (extLen x) s (special .sig)

/-- Interval erf (R285). -/
def execFerf (a : BitVec 7) (d : BitVec 7) (s : State) : Res :=
  perThread .ferf (Ext.base .ferf false 0 a d) 4 s (special .erf)

/-- Extended-form FERF (R285). -/
def execFerfX (x : Ext) (s : State) : Res :=
  perThread .ferf x (extLen x) s (special .erf)

/-- Interval sine (R285). -/
def execFsin (a : BitVec 7) (d : BitVec 7) (s : State) : Res :=
  perThread .fsin (Ext.base .fsin false 0 a d) 4 s (special .sin)

/-- Extended-form FSIN (R285). -/
def execFsinX (x : Ext) (s : State) : Res :=
  perThread .fsin x (extLen x) s (special .sin)

/-- Interval cosine (R285). -/
def execFcos (a : BitVec 7) (d : BitVec 7) (s : State) : Res :=
  perThread .fcos (Ext.base .fcos false 0 a d) 4 s (special .cos)

/-- Extended-form FCOS (R285). -/
def execFcosX (x : Ext) (s : State) : Res :=
  perThread .fcos x (extLen x) s (special .cos)

/-- Interval GELU (R285). -/
def execFgelu (a : BitVec 7) (d : BitVec 7) (s : State) : Res :=
  perThread .fgelu (Ext.base .fgelu false 0 a d) 4 s (special .gelu)

/-- Extended-form FGELU (R285). -/
def execFgeluX (x : Ext) (s : State) : Res :=
  perThread .fgelu x (extLen x) s (special .gelu)

/-- Interval SiLU (R285). -/
def execFsilu (a : BitVec 7) (d : BitVec 7) (s : State) : Res :=
  perThread .fsilu (Ext.base .fsilu false 0 a d) 4 s (special .silu)

/-- Extended-form FSILU (R285). -/
def execFsiluX (x : Ext) (s : State) : Res :=
  perThread .fsilu x (extLen x) s (special .silu)

/-- Activation of a gate times a value (R288). -/
def execFgate (b : BitVec 7) (a : BitVec 7) (d : BitVec 7) (s : State) : Res :=
  perThread .fgate (Ext.base .fgate false b a d) 4 s (gate)

/-- Extended-form FGATE (R288). -/
def execFgateX (x : Ext) (s : State) : Res :=
  perThread .fgate x (extLen x) s (gate)

end Sys2Proof.Machine
end

