-- ==== Sys2Proof/Machine/Integer.lean ====
section
/-! DEFINITION. Integer, address and predicate instructions, opcodes 0x20 to 0x3f (R246 to R261). -/

namespace Sys2Proof.Machine

/-- A binary operation on the type's integers, with SAT from MOD[4] where the opcode has it (R250). -/
def aluInt (sat : Bool) (f : Int → Int → Int) (c : Cx) (lane : Nat) (r : Regs) : Regs :=
  let ty := c.x.ty; let n := tyN ty
  c.putInt n lane c.x.d (intResult ty (sat && c.x.m 4 1 = 1) (f (asInt ty (c.int n lane c.x.a)) (asInt ty (c.int n lane c.x.b)))) r

/-- An operation on the bits of A and B under the type's width. -/
def aluBits (f : Nat → Nat → Nat → Nat) (c : Cx) (lane : Nat) (r : Regs) : Regs :=
  let ty := c.x.ty; let n := tyN ty
  c.putInt n lane c.x.d (BitVec.ofNat 64 (f (tyWidth ty) (c.int n lane c.x.a).toNat (c.int n lane c.x.b).toNat)) r

/-- A shift: the amount is the unsigned 32-bit B (R252). -/
def aluShift (f : Nat → Nat → Nat → Nat) (c : Cx) (lane : Nat) (r : Regs) : Regs :=
  let ty := c.x.ty; let n := tyN ty
  c.putInt n lane c.x.d (BitVec.ofNat 64 (f (tyWidth ty) (c.i32 lane c.x.b).toNat (c.int n lane c.x.a).toNat)) r

/-- A count over the bits of A, to a 32-bit destination. -/
def aluCount (f : Nat → Nat → Nat) (c : Cx) (lane : Nat) (r : Regs) : Regs :=
  let ty := c.x.ty; let n := tyN ty
  c.putInt 1 lane c.x.d (BitVec.ofNat 64 (f (tyWidth ty) (c.int n lane c.x.a).toNat)) r

/-- D read as a source, in the type's width. -/
def Cx.dInt (c : Cx) (lane : Nat) : DWord := c.int (tyN c.x.ty) lane c.x.d

def aluMad (c : Cx) (lane : Nat) (r : Regs) : Regs :=
  let ty := c.x.ty; let n := tyN ty
  let v := asInt ty (c.int n lane c.x.a) * asInt ty (c.int n lane c.x.b) + asInt ty (c.dInt lane)
  c.putInt n lane c.x.d (intResult ty (c.x.m 4 1 = 1) v) r

def aluAbs (c : Cx) (lane : Nat) (r : Regs) : Regs :=
  let ty := c.x.ty; let n := tyN ty
  c.putInt n lane c.x.d (intResult ty (c.x.m 4 1 = 1) ((asInt ty (c.int n lane c.x.a)).natAbs : Int)) r

/-- IDIV and IREM: a zero divisor without NT traps before anything is written (R251). -/
def aluDivide (pick : Int × Int → Int) (op : Op) (x : Ext) (len : Nat) (s : State) : Res :=
  frame op x s fun c =>
    let ty := x.ty; let n := tyN ty
    let b := fun l => asInt ty (c.int n l x.b)
    match (lanesOf c.m).find? fun l => b l = 0 && x.m 5 1 = 0 with
    | some l => c.trapIn cDivzero 0 l 0
    | none => c.done len (c.each fun l r =>
        c.putInt n l x.d (intResult ty false (pick (divTrunc ty (x.m 4 1 = 1) (asInt ty (c.int n l x.a)) (b l)))) r)

/-- A × B's high half (R250). -/
def mulHigh (ty : Nat) (a b : Int) : Int := a * b / ((2 ^ tyWidth ty : Nat) : Int)

def aluMulh (c : Cx) (lane : Nat) (r : Regs) : Regs := aluInt false (mulHigh c.x.ty) c lane r

def aluBfx (c : Cx) (lane : Nat) (r : Regs) : Regs :=
  let ty := c.x.ty; let n := tyN ty
  c.putInt n lane c.x.d (intResult ty false (bfx ty (c.i32 lane c.x.b) (c.int n lane c.x.a).toNat)) r

def aluBfi (c : Cx) (lane : Nat) (r : Regs) : Regs :=
  let ty := c.x.ty; let n := tyN ty
  c.putInt n lane c.x.d (BitVec.ofNat 64 (bfi ty (c.i32 lane c.x.b) (c.int n lane c.x.a).toNat (c.dInt lane).toNat)) r

/-- A + B × 2^s (R254). -/
def leaSum (c : Cx) (lane : Nat) : DWord :=
  let ty := c.x.ty; let n := tyN ty
  intResult ty false (asInt ty (c.int n lane c.x.a) + (c.i32 lane c.x.b).toInt * ((2 ^ c.x.m 4 3 : Nat) : Int))

/-- LEA: plain, or to the vault address of a scratch offset; the latter traps as a one-byte access would (R254, R120). -/
def lea (op : Op) (x : Ext) (len : Nat) (s : State) : Res :=
  frame op x s fun c =>
    let mode := x.m 7 2
    if mode = 0 then c.done len (c.each fun l r => c.putInt (tyN x.ty) l x.d (leaSum c l) r)
    else
      let loc := fun l => c.s.scratchLoc c.k c.w mode (leaSum c l).toNat 1
      match (lanesOf c.m).find? fun l => (loc l).isBad with
      | some l => match loc l with
        | .bad cause detail => c.trapIn cause detail l ((leaSum c l))
        | .at _ => .next s
      | none => c.done len (c.each fun l r =>
          match loc l with
          | .at a => c.putInt 1 l x.d (BitVec.ofNat 64 (a % 2 ^ 32)) r
          | .bad _ _ => r)

def selInt (c : Cx) (lane : Nat) (r : Regs) : Regs :=
  let n := tyN c.x.ty
  let p := c.w.r.getP c.x.imm.toNat lane
  c.putInt n lane c.x.d (c.int n lane (if p = Tri.tt then c.x.a else if p = Tri.ff then c.x.b else c.x.c)) r

def movInt (c : Cx) (lane : Nat) (r : Regs) : Regs := c.putInt (tyN c.x.ty) lane c.x.d (c.int (tyN c.x.ty) lane c.x.a) r

/-- The literal, 32 or 64 bits of it (R255). -/
def movLit (c : Cx) (lane : Nat) (r : Regs) : Regs := c.putInt (tyN c.x.ty) lane c.x.d c.lit r

def icmp (c : Cx) (lane : Nat) (r : Regs) : Regs :=
  let ty := c.x.ty; let n := tyN ty
  putP lane c.x.d (Tri.ofBool (intCond (c.x.m 4 4) (asInt ty (c.int n lane c.x.a)) (asInt ty (c.int n lane c.x.b)))) r

def plopD (c : Cx) (lane : Nat) (r : Regs) : Regs :=
  putP lane c.x.d (plop (c.x.m 0 4) (c.pred lane c.x.a) (c.pred lane c.x.b) (c.pred lane c.x.c)) r

/-- All sixteen predicates of a thread (R259). -/
def packPreds (r : Regs) (lane : Nat) : Word :=
  BitVec.ofNat 32 ((List.range 16).map fun i => (r.getP i lane).toNat * 4 ^ i).sum

def unpackPreds (v : Word) (lane : Nat) (r : Regs) : Regs :=
  (List.range 15).foldl (fun r i => r.setP i lane (Tri.read (BitVec.ofNat 2 (v.toNat / 4 ^ i)))) r

def pmov (c : Cx) : Regs :=
  match c.x.m 0 3 with
  | 0 => c.each fun l r => putP l c.x.d (c.pred l c.x.a) r
  | 1 => c.putVS 1 (fun l => (c.pred l c.x.a).zeroExtend 64) c.w.r
  | 2 => c.each fun l r => putP l c.x.d (Tri.read ((c.i32 l c.x.a).extractLsb' 0 2)) r
  | 3 => c.putVS 1 (fun l => (packPreds c.w.r l).zeroExtend 64) c.w.r
  | _ => c.each fun l r => unpackPreds (c.i32 l c.x.a) l r

def cvti (c : Cx) (lane : Nat) (r : Regs) : Regs :=
  let td := c.x.ty; let ts := c.x.m 8 4
  let v := asInt ts (c.int (tyN ts) lane c.x.a)
  let y := intResult td (c.x.m 4 1 = 1) v
  -- sign- or zero-extended to 32 bits, or the pair
  let z := if tyN td = 2 then y else BitVec.ofInt 64 (asInt td y)
  c.putInt (tyN td) lane c.x.d (if tyN td = 2 then z else (loWord z).zeroExtend 64) r

def idot4 (c : Cx) (lane : Nat) (r : Regs) : Regs :=
  let v := (c.i32 lane c.x.d).toInt + dot4 (c.x.m 5 1 = 1) (c.x.m 6 1 = 1) (c.i32 lane c.x.a) (c.i32 lane c.x.b)
  c.putInt 1 lane c.x.d (intResult 0 (c.x.m 4 1 = 1) v) r

/-- Integer add (R250). -/
def execIadd (u : Bool) (b : BitVec 7) (a : BitVec 7) (d : BitVec 7) (s : State) : Res :=
  perThread .iadd (Ext.base .iadd u b a d) 4 s (aluInt true (· + ·))

/-- Extended-form integer add (R250). -/
def execIaddX (x : Ext) (s : State) : Res :=
  perThread .iadd x (extLen x) s (aluInt true (· + ·))

/-- Integer subtract (R250). -/
def execIsub (u : Bool) (b : BitVec 7) (a : BitVec 7) (d : BitVec 7) (s : State) : Res :=
  perThread .isub (Ext.base .isub u b a d) 4 s (aluInt true (· - ·))

/-- Extended-form integer subtract (R250). -/
def execIsubX (x : Ext) (s : State) : Res :=
  perThread .isub x (extLen x) s (aluInt true (· - ·))

/-- Integer multiply, low half (R250). -/
def execImul (u : Bool) (b : BitVec 7) (a : BitVec 7) (d : BitVec 7) (s : State) : Res :=
  perThread .imul (Ext.base .imul u b a d) 4 s (aluInt true (· * ·))

/-- Extended-form IMUL (R250). -/
def execImulX (x : Ext) (s : State) : Res :=
  perThread .imul x (extLen x) s (aluInt true (· * ·))

/-- Integer multiply, high half (R250). -/
def execImulh (u : Bool) (b : BitVec 7) (a : BitVec 7) (d : BitVec 7) (s : State) : Res :=
  perThread .imulh (Ext.base .imulh u b a d) 4 s aluMulh

/-- Extended-form IMULH (R250). -/
def execImulhX (x : Ext) (s : State) : Res :=
  perThread .imulh x (extLen x) s aluMulh

/-- Integer multiply-add into D (R250). -/
def execImad (u : Bool) (b : BitVec 7) (a : BitVec 7) (d : BitVec 7) (s : State) : Res :=
  perThread .imad (Ext.base .imad u b a d) 4 s aluMad

/-- Extended-form IMAD (R250). -/
def execImadX (x : Ext) (s : State) : Res :=
  perThread .imad x (extLen x) s aluMad

/-- Integer divide truncating towards zero, trapping DIVZERO unless .nt (R251). -/
def execIdiv (u : Bool) (b : BitVec 7) (a : BitVec 7) (d : BitVec 7) (s : State) : Res :=
  aluDivide (fun q => q.1) .idiv (Ext.base .idiv u b a d) 4 s

/-- Extended-form IDIV (R251). -/
def execIdivX (x : Ext) (s : State) : Res :=
  aluDivide (fun q => q.1) .idiv x (extLen x) s

/-- Integer remainder (R251). -/
def execIrem (u : Bool) (b : BitVec 7) (a : BitVec 7) (d : BitVec 7) (s : State) : Res :=
  aluDivide (fun q => q.2) .irem (Ext.base .irem u b a d) 4 s

/-- Extended-form IREM (R251). -/
def execIremX (x : Ext) (s : State) : Res :=
  aluDivide (fun q => q.2) .irem x (extLen x) s

/-- Integer minimum (R250). -/
def execImin (u : Bool) (b : BitVec 7) (a : BitVec 7) (d : BitVec 7) (s : State) : Res :=
  perThread .imin (Ext.base .imin u b a d) 4 s (aluInt false min)

/-- Extended-form IMIN (R250). -/
def execIminX (x : Ext) (s : State) : Res :=
  perThread .imin x (extLen x) s (aluInt false min)

/-- Integer maximum (R250). -/
def execImax (u : Bool) (b : BitVec 7) (a : BitVec 7) (d : BitVec 7) (s : State) : Res :=
  perThread .imax (Ext.base .imax u b a d) 4 s (aluInt false max)

/-- Extended-form IMAX (R250). -/
def execImaxX (x : Ext) (s : State) : Res :=
  perThread .imax x (extLen x) s (aluInt false max)

/-- Integer absolute value (R250). -/
def execIabs (u : Bool) (a : BitVec 7) (d : BitVec 7) (s : State) : Res :=
  perThread .iabs (Ext.base .iabs u 0 a d) 4 s aluAbs

/-- Extended-form IABS (R250). -/
def execIabsX (x : Ext) (s : State) : Res :=
  perThread .iabs x (extLen x) s aluAbs

/-- Bitwise AND (R252). -/
def execIand (u : Bool) (b : BitVec 7) (a : BitVec 7) (d : BitVec 7) (s : State) : Res :=
  perThread .iand (Ext.base .iand u b a d) 4 s (aluBits fun _ a b => a &&& b)

/-- Extended-form AND (R252). -/
def execIandX (x : Ext) (s : State) : Res :=
  perThread .iand x (extLen x) s (aluBits fun _ a b => a &&& b)

/-- Bitwise OR (R252). -/
def execIor (u : Bool) (b : BitVec 7) (a : BitVec 7) (d : BitVec 7) (s : State) : Res :=
  perThread .ior (Ext.base .ior u b a d) 4 s (aluBits fun _ a b => a ||| b)

/-- Extended-form OR (R252). -/
def execIorX (x : Ext) (s : State) : Res :=
  perThread .ior x (extLen x) s (aluBits fun _ a b => a ||| b)

/-- Bitwise XOR (R252). -/
def execIxor (u : Bool) (b : BitVec 7) (a : BitVec 7) (d : BitVec 7) (s : State) : Res :=
  perThread .ixor (Ext.base .ixor u b a d) 4 s (aluBits fun _ a b => a ^^^ b)

/-- Extended-form XOR (R252). -/
def execIxorX (x : Ext) (s : State) : Res :=
  perThread .ixor x (extLen x) s (aluBits fun _ a b => a ^^^ b)

/-- Bitwise NOT (R252). -/
def execInot (u : Bool) (a : BitVec 7) (d : BitVec 7) (s : State) : Res :=
  perThread .inot (Ext.base .inot u 0 a d) 4 s (aluBits fun w a _ => 2 ^ w - 1 - a)

/-- Extended-form NOT (R252). -/
def execInotX (x : Ext) (s : State) : Res :=
  perThread .inot x (extLen x) s (aluBits fun w a _ => 2 ^ w - 1 - a)

/-- Shift left (R252). -/
def execShl (u : Bool) (b : BitVec 7) (a : BitVec 7) (d : BitVec 7) (s : State) : Res :=
  perThread .shl (Ext.base .shl u b a d) 4 s (aluShift shl)

/-- Extended-form SHL (R252). -/
def execShlX (x : Ext) (s : State) : Res :=
  perThread .shl x (extLen x) s (aluShift shl)

/-- Logical shift right (R252). -/
def execShr (u : Bool) (b : BitVec 7) (a : BitVec 7) (d : BitVec 7) (s : State) : Res :=
  perThread .shr (Ext.base .shr u b a d) 4 s (aluShift shr)

/-- Extended-form SHR (R252). -/
def execShrX (x : Ext) (s : State) : Res :=
  perThread .shr x (extLen x) s (aluShift shr)

/-- Arithmetic shift right (R252). -/
def execSar (u : Bool) (b : BitVec 7) (a : BitVec 7) (d : BitVec 7) (s : State) : Res :=
  perThread .sar (Ext.base .sar u b a d) 4 s (aluShift sar)

/-- Extended-form SAR (R252). -/
def execSarX (x : Ext) (s : State) : Res :=
  perThread .sar x (extLen x) s (aluShift sar)

/-- Rotate left (R252). -/
def execRot (u : Bool) (b : BitVec 7) (a : BitVec 7) (d : BitVec 7) (s : State) : Res :=
  perThread .rot (Ext.base .rot u b a d) 4 s (aluShift rot)

/-- Extended-form ROT (R252). -/
def execRotX (x : Ext) (s : State) : Res :=
  perThread .rot x (extLen x) s (aluShift rot)

/-- Bit-field extract (R253). -/
def execBfx (u : Bool) (b : BitVec 7) (a : BitVec 7) (d : BitVec 7) (s : State) : Res :=
  perThread .bfx (Ext.base .bfx u b a d) 4 s aluBfx

/-- Extended-form BFX (R253). -/
def execBfxX (x : Ext) (s : State) : Res :=
  perThread .bfx x (extLen x) s aluBfx

/-- Bit-field insert into D (R253). -/
def execBfi (u : Bool) (b : BitVec 7) (a : BitVec 7) (d : BitVec 7) (s : State) : Res :=
  perThread .bfi (Ext.base .bfi u b a d) 4 s aluBfi

/-- Extended-form BFI (R253). -/
def execBfiX (x : Ext) (s : State) : Res :=
  perThread .bfi x (extLen x) s aluBfi

/-- Population count (R252). -/
def execPopc (u : Bool) (a : BitVec 7) (d : BitVec 7) (s : State) : Res :=
  perThread .popc (Ext.base .popc u 0 a d) 4 s (aluCount popCount)

/-- Extended-form POPC (R252). -/
def execPopcX (x : Ext) (s : State) : Res :=
  perThread .popc x (extLen x) s (aluCount popCount)

/-- Count of leading zeros (R252). -/
def execClz (u : Bool) (a : BitVec 7) (d : BitVec 7) (s : State) : Res :=
  perThread .clz (Ext.base .clz u 0 a d) 4 s (aluCount leadZeros)

/-- Extended-form CLZ (R252). -/
def execClzX (x : Ext) (s : State) : Res :=
  perThread .clz x (extLen x) s (aluCount leadZeros)

/-- Bit reverse (R252). -/
def execBrev (u : Bool) (a : BitVec 7) (d : BitVec 7) (s : State) : Res :=
  perThread .brev (Ext.base .brev u 0 a d) 4 s (aluBits fun w a _ => bitRev w a)

/-- Extended-form BREV (R252). -/
def execBrevX (x : Ext) (s : State) : Res :=
  perThread .brev x (extLen x) s (aluBits fun w a _ => bitRev w a)

/-- Address arithmetic, or conversion of a scratch offset to a .v address (R254). -/
def execLea (u : Bool) (b : BitVec 7) (a : BitVec 7) (d : BitVec 7) (s : State) : Res :=
  lea .lea (Ext.base .lea u b a d) 4 s

/-- Extended-form LEA, including .s2v and .gs2v (R254). -/
def execLeaX (x : Ext) (s : State) : Res :=
  lea .lea x (extLen x) s

/-- Integer move (R255). -/
def execMov (u : Bool) (a : BitVec 7) (d : BitVec 7) (s : State) : Res :=
  perThread .mov (Ext.base .mov u 0 a d) 4 s movInt

/-- Extended-form MOV (R255). -/
def execMovX (x : Ext) (s : State) : Res :=
  perThread .mov x (extLen x) s movInt

/-- Base-with-literal move of a 64-bit literal as .i32 (R255). -/
def execMovl (u : Bool) (d : BitVec 7) (l : DWord) (s : State) : Res :=
  perThread .movl (Ext.base .movl u 0 0 d (some l)) 12 s movLit

/-- Extended-with-literal move of a literal of any type (R255). -/
def execMovlX (x : Ext) (s : State) : Res :=
  perThread .movl x (extLen x) s movLit

/-- Three-way select by a predicate (R256). -/
def execSel (x : Ext) (s : State) : Res :=
  perThread .sel x (extLen x) s selInt

/-- Integer compare into a predicate (R257). -/
def execIcmp (x : Ext) (s : State) : Res :=
  perThread .icmp x (extLen x) s icmp

/-- Kleene predicate logic (R258). -/
def execPlop (x : Ext) (s : State) : Res :=
  perThread .plop x (extLen x) s plopD

/-- Predicate moves, packing and unpacking (R259). -/
def execPmov (x : Ext) (s : State) : Res :=
  frame .pmov x s fun c => c.done (extLen x) (pmov c)

/-- Integer width conversion (R260). -/
def execCvti (u : Bool) (a : BitVec 7) (d : BitVec 7) (s : State) : Res :=
  perThread .cvti (Ext.base .cvti u 0 a d) 4 s cvti

/-- Extended-form CVTI (R260). -/
def execCvtiX (x : Ext) (s : State) : Res :=
  perThread .cvti x (extLen x) s cvti

/-- Byte dot product accumulated into D (R261). -/
def execIdot4 (u : Bool) (b : BitVec 7) (a : BitVec 7) (d : BitVec 7) (s : State) : Res :=
  perThread .idot4 (Ext.base .idot4 u b a d) 4 s idot4

/-- Extended-form IDOT4 (R261). -/
def execIdot4X (x : Ext) (s : State) : Res :=
  perThread .idot4 x (extLen x) s idot4

end Sys2Proof.Machine
end

