-- ==== Sys2Proof/Machine/Schedule.lean ====
section
/-! DEFINITION. The scheduler of a core, trap entry, the dispatchers' reservations and swaps, the watchdog, and the steps of
the Sheller (R118, R381 to R383, R392, R393, R408, R409, R415 to R419, R430 to R435, R464, R474). -/

namespace Sys2Proof.Machine

/-! ### Warps (R392, R393) -/

/-- A ready pending warp takes a free place of its core's active set. -/
def State.activate (s : State) (k : WarpKey) : State :=
  match s.warp? k with
  | none => s
  | some w =>
    if w.active || w.parked || w.halted || w.trapping.isSome || w.r.live = 0 || !w.wait.ready || 8 ≤ s.activeCount w.die w.core then s
    else s.modWarp k fun w => { w with active := true }

/-- Entry to the handler, or the core's own sequence, once the waits of R464 are over; without a raised trap, a cause
pending at the warp's boundary is taken, or the matrix records that a debugger halt left are posted again (R318, R476). -/
def State.trapEntry (s : State) (k : WarpKey) : State :=
  let s := s.fillStatus k none
  match s.warp? k with
  | none => s
  | some w => match w.trapping with
    | none =>
      if s.dieDown w.die then s
      else if w.replays && (w.due.isNone || w.delivery = .later) then s.matReplay k 4
      else s.takeBoundary k w
    | some t =>
      let replaying : Bool := t.cause = cResume && w.saving = 2
      let w := if replaying then w else w.takeStops
      if replaying then (if s.dieDown w.die then s else s.defaultRestore k w)
      else if w.parked || s.dieDown w.die || !s.entryReady w t then s
      else
        let handler : Bool := (s.grid? k.grid).any fun g => g.header.hasTrap
        if !handler && t.cause = cPreempt then (s.setWarp k w).defaultSave k w t
        else if !handler && t.cause = cResume then (s.setWarp k w).defaultRestore k w
        else s.enter k w t

/-- The dispatcher clears the next line of a team's scratch (R118). -/
def State.clearScratch (s : State) (t : TeamKey) : State :=
  match s.team? t, s.grid? t.grid with
  | some tm, some g =>
    if !tm.resident || s.dieDown tm.die || roundUpTo 1024 g.scratch ≤ tm.cleared then s
    else
      let a := tm.base + tm.cleared
      { s with vault := writeBytes s.vault a 128 0, eccVault := s.eccVault.filter fun x => !(a ≤ x * 8 && x * 8 < a + 128) }.modTeam t fun tm => { tm with cleared := tm.cleared + 128 }
  | _, _ => s

/-! ### Reservations and pre-emption by priority (R408, R409) -/

/-- A launch passed over for 1 ms reserves its dies. -/
def State.reserve (s : State) (gid : Nat) : State :=
  { s with grids := s.grids.modify gid fun g =>
      if g.l.inSet && g.l.passed.isSome && g.l.since + 1000000 ≤ s.tcDist then { g with l := { g.l with reserving := true } } else g }

/-- A team of the die is on its way out. -/
def State.anyLeaving (s : State) (die : Nat) : Bool := s.teams.any fun p => p.2.resident && p.2.die = die && s.leaving p.1

/-- The resident gang that a waiting launch of a class may pre-empt: the lowest class, then the most recently placed. -/
def State.victim (s : State) (die cls : Nat) : Option TeamKey :=
  let mine := s.teams.filter fun p => p.2.resident && p.2.die = die && (s.grid? p.1.grid).any fun g => g.l.cls < cls && g.ending.isNone
  let c (p : TeamKey × Team) : Nat := ((s.grid? p.1.grid).map (·.l.cls)).getD 0
  (mine.foldl (fun (b : Option (TeamKey × Team)) p => match b with
    | none => some p
    | some o => if c p < c o || (c p = c o && o.2.placedAt < p.2.placedAt) then some p else some o) none).map (·.1)

/-- A launch whose prio has stood at 4 for 1 ms with no team placed pre-empts on its dies. -/
def State.priorityPreempt (s : State) (gid : Nat) : State :=
  match s.grid? gid with
  | none => s
  | some g =>
    let since := max g.l.since (g.l.eligible + (4 - g.l.cls) * 200000)
    if !g.l.inSet || g.ending.isSome || s.tcDist < since + 1000000 then s
    else
      let s := { s with grids := s.grids.modify gid fun g => { g with l := { g.l with preempting := true } } }
      (List.range g.ndie).foldl (fun s n => match g.dieOf n with
        | none => s
        | some die =>
          if !g.left n || (s.gangSeats gid g n die (g.nextOf n)).isSome || s.anyLeaving die then s
          else match s.victim die g.l.cls with
            | some t => s.requestPreempt t []
            | none => s) s

/-! ### Forward progress (R415, R416) -/

/-- Cycles N of a die. -/
def State.swapCycles (s : State) (die : Nat) : Nat := s.clear.get 65536 die

/-- The debugger holds the team (R476). -/
def State.teamHalted (s : State) (t : TeamKey) : Bool := (s.ownWarps t).any fun p => p.2.halted || p.2.pending.halt

def State.teamsOnCore (s : State) (die core : Nat) : List (TeamKey × Team) := s.teams.filter fun p => p.2.resident && p.2.die = die && p.2.core = core

/-- When a core last issued, or took the last of its teams. -/
def State.idleFrom (s : State) (die core : Nat) : Nat := (s.teamsOnCore die core).foldl (fun n p => max n p.2.placedAt) (s.coreIssue.get 0 (die * 1280 + core))

/-- No warp of the core has issued for N cycles. -/
def State.coreIdle (s : State) (die core : Nat) : Bool := s.idleFrom die core + s.cyclesNs die (s.swapCycles die) ≤ s.now

/-- The state once a company of teams has left. -/
def State.without (s : State) (ts : List TeamKey) : State := { s with teams := s.teams.map fun p => if ts.contains p.1 then (p.1, { p.2 with resident := false }) else p }

/-- A team of the core is on its way out. -/
def State.coreLeaving (s : State) (die core : Nat) : Bool := (s.teamsOnCore die core).any fun p => s.leaving p.1

/-- A waiting gang would take the core. -/
def State.wouldTake (s : State) (die core : Nat) (v : Waiting) : Bool :=
  match s.grid? v.t.grid with
  | none => false
  | some g =>
    if v.out then (if g.coop then (s.company v.t).any (·.2.core = core) && (s.seatSame g die (s.company v.t)).isSome else (s.resumeSeats g die (s.company v.t) core).isSome)
    else if v.n = 1 then s.teamFits die core v.t.grid g
    else
      let group := ((g.groupsOn die).find? fun n => g.nextOf n = v.t.team).getD 0
      (s.seatLowest g die (core / 4) v.n (s.newTeams v.t.grid group v.t.team v.n g)).isSome

/-- Waiting gangs that would take the core once the teams have left, other than those teams themselves. -/
def State.takers (s : State) (die core : Nat) (ts : List TeamKey) : List Waiting :=
  (s.waitingOn die).filter fun v => !ts.contains v.t && (s.without ts).wouldTake die core v

/-- When the warps of a team last issued. -/
def State.lastIssued (s : State) (p : TeamKey × Team) : Nat := (s.ownWarps p.1).foldl (fun n q => max n q.2.lastIssue) p.2.placedAt

/-- A team that R415 may choose. -/
def State.mayChoose (s : State) (p : TeamKey × Team) : Bool := !s.teamHalted p.1 && !s.leaving p.1 && !(s.grid? p.1.grid).any fun g => g.coop || g.ending.isSome

/-- The team of a core whose warps issued last longest ago, then the lowest team. -/
def State.longestSilent (s : State) (die core : Nat) : Option TeamKey :=
  (((s.teamsOnCore die core).filter s.mayChoose).foldl (fun (b : Option (TeamKey × Team)) p => match b with
    | none => some p
    | some o => if s.lastIssued p < s.lastIssued o || (s.lastIssued p = s.lastIssued o && p.1.team < o.1.team) then some p else some o) none).map (·.1)

/-- A core that has not issued for N cycles gives a team's place to the waiting team that comes first. -/
def State.progressSwap (s : State) (die core : Nat) (t : TeamKey) : State :=
  let ts := (s.company t).map (·.1)
  if !s.coreIdle die core || s.coreLeaving die core || s.longestSilent die core ≠ some t then s
  else match s.firstWaiting (s.takers die core ts) with
    | none => s
    | some v => s.requestPreempt t [v.t]

/-- The team of a core that has been resident longest, for at least 16 N cycles. -/
def State.longestHere (s : State) (die core : Nat) : Option TeamKey :=
  let slice := s.cyclesNs die (16 * s.swapCycles die)
  (((s.teamsOnCore die core).filter fun p => s.mayChoose p && p.2.placedAt + slice ≤ s.now).foldl (fun (b : Option (TeamKey × Team)) p => match b with
    | none => some p
    | some o => if p.2.placedAt < o.2.placedAt then some p else some o) none).map (·.1)

/-- A team that has waited 16 N cycles takes the place of one resident that long. -/
def State.timeSlice (s : State) (die core : Nat) (t : TeamKey) : State :=
  let ts := (s.company t).map (·.1)
  let slice := s.cyclesNs die (16 * s.swapCycles die)
  if s.longestHere die core ≠ some t || s.coreLeaving die core || !(s.takers die core ts).any fun v => v.since + slice ≤ s.now then s
  else s.requestPreempt t (((s.waitingOn die).map (·.t)).filter fun v => !ts.contains v)

/-- Teams of a group that are resident. -/
def State.groupTeams (s : State) (gid group : Nat) : List (TeamKey × Team) := s.teams.filter fun p => p.1.grid = gid && p.2.group = group && p.2.resident

/-- A cooperative group is swapped out as a whole. -/
def State.groupSwap (s : State) (gid group : Nat) : State :=
  let mine := s.groupTeams gid group
  match s.grid? gid, mine.head? with
  | some g, some (t, tm) =>
    let ts := mine.map (·.1)
    let die := tm.die
    let slice := s.cyclesNs die (16 * s.swapCycles die)
    let want := (mine.flatMap fun p => s.takers die p.2.core ts).filter fun v => v.t.grid ≠ gid
    if !g.coop || g.ending.isSome || mine.any (fun p => s.teamHalted p.1 || s.leaving p.1) || want = [] then s
    else if mine.all fun p => s.coreIdle die p.2.core then s.requestPreempt t ((s.firstWaiting want).toList.map (·.t))
    else if want.any (fun v => v.since + slice ≤ s.now) && mine.all (fun p => p.2.placedAt + slice ≤ s.now) then
      s.requestPreempt t (((s.waitingOn die).map (·.t)).filter fun v => v.grid ≠ gid)
    else s
  | _, _ => s

/-! ### The watchdog (R418, R419) -/

/-- Time passes for every watchdog whose launch has a team resident and not halted. -/
def State.countTime (s : State) (dt : Nat) : State :=
  { s with grids := s.grids.map fun p =>
      if p.2.l.watchdog ≠ 0 && p.2.ending.isNone && s.teams.any (fun t => t.1.grid = p.1 && t.2.resident && !s.teamHalted t.1) then
        (p.1, { p.2 with l := { p.2.l with counted := p.2.l.counted + dt } })
      else p }

/-- The first limit: every warp of the launch takes WATCHDOG, and the count starts again. -/
def State.watchdogFirst (s : State) (gid : Nat) : State :=
  match s.grid? gid with
  | none => s
  | some g =>
    if g.l.watchdog = 0 || g.l.second || g.ending.isSome || g.l.counted < g.l.watchdog * 1000 then s
    else
      { s with
        grids := s.grids.modify gid fun g => { g with l := { g.l with second := true, counted := 0 } }
        warps := s.warps.map fun p => if p.1.grid = gid && p.1.ctx = 0 && p.2.r.live ≠ 0 then (p.1, { p.2 with pending := { p.2.pending with watchdog := true } }) else p }

/-- The second limit ends the grid. -/
def State.watchdogSecond (s : State) (gid : Nat) : State :=
  match s.grid? gid with
  | none => s
  | some g => if g.l.second && g.ending.isNone && max (g.l.watchdog * 1000 / 16) 100000 ≤ g.l.counted then (s.endGrid gid 16).leaveAll else s

/-! ### Events -/

/-- The waits of R464 are over, or a cause is pending at a boundary. -/
def execTrapEntry (s : State) : Res := .next (s.trapEntry s.arg.w)

/-- The conditions of a FENCE hold (R98). -/
def execFenceComplete (s : State) : Res :=
  .next (match s.warp? s.arg.w with
    | none => s
    | some w => match w.wait with
      | .fence sc => if s.fenceHolds w sc then s.modWarp s.arg.w fun w => { w with wait := .none } else s
      | _ => s)

/-- A SLEEP has lasted long enough (R383). -/
def execSleepEnd (s : State) : Res :=
  .next (match s.warp? s.arg.w with
    | none => s
    | some w => match w.wait with
      | .sleep till len => if till ≤ s.tcAt w.die then s.setWarp s.arg.w { w with wait := .none, r := { w.r with pc := w.r.pc + BitVec.ofNat 64 len } } else s
      | _ => s)

/-- A WAITM's timeout has come: it reads once more (R382). -/
def execWaitmTimeout (s : State) : Res :=
  .next (match s.warp? s.arg.w with
    | none => s
    | some w => match w.wait with
      | .waitm t0 _ limit => if limit ≠ 0 && t0 + limit ≤ s.tcAt w.die then s.modWarp s.arg.w fun w => { w with wait := .waitmAgain t0 } else s
      | _ => s)

/-- A pending warp enters the active set (R393). -/
def execWarpActivate (s : State) : Res := .next (((s.fillStatus s.arg.w none).streamGo s.arg.w).activate s.arg.w)

/-- An instruction's scratch accesses reach their vaults as far as they can (R123). -/
def execVaultAccessComplete (s : State) : Res :=
  .next (if (s.warp? s.arg.w).any fun w => s.dieDown w.die then s else (((s.vaultAll s.arg.w s.arg.n).commitAll s.arg.w).streamGo s.arg.w).tryLeave s.arg.w.teamKey)

/-- A line of scratch is cleared (R118). -/
def execScratchClear (s : State) : Res := .next (s.clearScratch s.arg.t)

/-- A launch that has been passed over reserves its dies (R408). -/
def execDieReserve (s : State) : Res := .next (s.reserve s.arg.n)

/-- A launch at prio 4 pre-empts lower classes (R409). -/
def execPriorityPreempt (s : State) : Res := .next (s.priorityPreempt s.arg.n)

/-- A core that does not issue swaps a team out (R415). -/
def execProgressSwap (s : State) : Res := .next (s.progressSwap s.arg.n s.arg.m s.arg.t)

/-- A team that has waited long takes a place (R415). -/
def execTimeSliceSwap (s : State) : Res := .next (s.timeSlice s.arg.n s.arg.m s.arg.t)

/-- A cooperative die group is swapped out (R416). -/
def execDieGroupSwap (s : State) : Res := .next (s.groupSwap s.arg.n s.arg.m)

/-- A watchdog's first limit (R419). -/
def execWatchdogFirstLimit (s : State) : Res := .next (s.watchdogFirst s.arg.n)

/-- A watchdog's second limit (R419). -/
def execWatchdogSecondLimit (s : State) : Res := .next (s.watchdogSecond s.arg.n)

/-- A pool grid has run out of work (R435). -/
def execPoolGridTermination (s : State) : Res := .next ((s.poolEnd s.arg.n).leaveAll)

/-- The Sheller starts a whole warp (R430). -/
def execShellerFullWarp (s : State) : Res := .next (if s.dieDown s.arg.n then s else s.shell s.arg.n s.arg.m s.arg.k true)

/-- The Sheller starts a partial warp (R430). -/
def execShellerPartialWarp (s : State) : Res := .next (if s.dieDown s.arg.n then s else s.shell s.arg.n s.arg.m s.arg.k false)

/-- An idle core looks for items (R432). -/
def execStealSearch (s : State) : Res := .next (if s.dieDown s.arg.n then s else s.stealSearch s.arg.n s.arg.m s.arg.k)

/-- A core sends its deferred decrements (R434). -/
def execOutstandingDecrementSend (s : State) : Res := .next (if s.dieDown s.arg.n then s else s.sendOwed s.arg.n s.arg.m s.arg.k)

end Sys2Proof.Machine
end

