-- ==== Sys2Proof/Machine/Part.lean ====
section
/-! DEFINITION. The panel at work: TC replicas and E, mesh links, clocks, power, gating, failures and retirement (R18 to
R32, R39, R79, R88, R422, R488, R489, R491). -/

namespace Sys2Proof.Machine

/-! ### TC replicas and E (R23 to R26) -/

/-- Units that hold a replica: dies, memory sites and bridges (R23). -/
def allUnits : List Nat := List.range 264

/-- Replicas in service; those of dies that have not joined are not. -/
def Panel.replicaIn (p : Panel) (unit : Nat) : Bool :=
  unit < 264 && !p.outUnits.contains unit && (128 ≤ unit || p.joined.contains unit) && !(128 ≤ unit && unit < 256 && p.sitesOut.contains (unit - 128))

/-- The skew that replicas may reach: the smallest E that a home or a fence unit applies. -/
def State.skewBound (s : State) : Nat := s.ebound.foldl (fun n p => min n p.2) 16

/-- With a unit's replica at an offset, all replicas in service lie within a bound of it. -/
def State.nearAll (s : State) (unit : Nat) (z : Int) (bound : Nat) : Bool :=
  allUnits.all fun u => u = unit || !s.panel.replicaIn u || (z - s.replica.get 0 u).natAbs ≤ bound

/-- All replicas in service lie within a bound of one another. -/
def State.within (s : State) (bound : Nat) : Bool := allUnits.all fun u => !s.panel.replicaIn u || s.nearAll u (s.replica.get 0 u) bound

/-- A calibration message: the replica goes on at an offset, held or skipped by one tick in 64 at most, and not
backwards (R24). A replica that is not in service takes any. BN1's is the reference. -/
def State.calibrate (s : State) (unit : Nat) (z : Int) : State :=
  let old := s.replica.get 0 unit
  let set (s : State) : State := { s with replica := s.replica.put 0 unit z, panel := { s.panel with calibrated := s.panel.calibrated.put 0 unit s.now } }
  if unit = 257 || 264 ≤ unit || s.dieDown unit then s
  else if !s.panel.replicaIn unit then set s
  else if z = old then set s
  else if (z - old).natAbs = 1 && s.panel.calibrated.get 0 unit + 64 ≤ s.now && old - z ≤ (Config.elapsed (s.steps - 1) : Int) && s.nearAll unit z s.skewBound then set s
  else s

/-! ### What leaves service (R18, R25, R27, R79) -/

/-- Agents of a kind on a die that have a register: cores, one copy engine and one load unit a cluster, one stream unit a core,
walkers, and the dispatcher (R14, R51, R58, R59). -/
def State.incUnits (s : State) (kind : Nat) : Nat :=
  match kind with
  | 0 | 3 => s.coresPerDie
  | 1 | 2 => s.coresPerDie / 4
  | 4 => 64
  | _ => 1

/-- Every agent of a die (R58). -/
def State.dieAgents (s : State) (die : Nat) : List Nat := (List.range 6).flatMap fun kind => (List.range (s.incUnits kind)).map (agentId kind die)

/-- Every home refuses an incarnation from now on (R79). -/
def State.declareDead (s : State) (agent inc : Nat) : State := if s.dead.contains (0, agent, inc) then s else { s with dead := s.dead ++ [(0, agent, inc)] }

/-- Every home refuses the incarnation that each agent of a die has (R25, R79). -/
def State.declareDie (s : State) (die : Nat) : State := { s with dead := s.dead ++ (s.dieAgents die).map fun a => (0, a, s.incOf a) }

/-- Invalidations no longer wait for a die (R52). -/
def State.dropTarget (s : State) (die : Nat) : State :=
  let hit (v : Inval) : Bool := v.left = [die]
  let ended := s.invals.filter hit
  { s with
    invals := (s.invals.filter fun v => !hit v).map fun (v : Inval) => { v with left := v.left.filter (· ≠ die) }
    warps := s.warps.map fun (p : WarpKey × Warp) => match p.2.wait with
      | .inval id => if ended.any (fun v => v.id = id) then (p.1, { p.2 with wait := .inval 0 }) else p
      | _ => p }

/-- A die is taken out of service: its teams are lost, and its agents are dead at once. -/
def State.loseDie (s : State) (die : Nat) : State :=
  (({ s with panel := { s.panel with failed := if s.panel.failed.contains die then s.panel.failed else s.panel.failed ++ [die], outUnits := s.panel.outUnits ++ [die] } }.declareDie die).dropTarget die).rebind

/-- A memory site leaves service, and the module with it (R27); its agent is dead (R25). -/
def State.loseSite (s : State) (site : Nat) : State :=
  if 128 ≤ site || s.panel.sitesOut.contains site then s
  else { s with panel := { s.panel with sitesOut := s.panel.sitesOut ++ [site] } }.declareDead (homeAgent (128 + site)) (s.incOf (homeAgent (128 + site)))

/-- A message that was on its way over a half which is out takes the other half. -/
def Msg.reroute (m : Msg) (half : Nat) : Msg :=
  { m with src := if m.src = half then 518 - half else m.src, dst := if m.dst = half then 518 - half else m.dst }

/-- A half of the Kelvia Link agent fails: the other takes over its lines, with no directory state for them, and all of its
traffic (R18, R88). A write held there performs no sooner than a new one could. R18 does not say what follows when the second half
fails too: the model keeps it in service (DESIGN CHOICE, log 83). -/
def State.loseHalf (s : State) (half : Nat) : State :=
  let other := 518 - half
  if (half ≠ 257 && half ≠ 261) || s.halfOut ≠ [] then s
  else
    let lmax := s.tcAt other + 16384
    let late (q : LineQ) : LineQ :=
      if s.homeOf (lineAddr q.line) = half then { q with held := q.held.map fun h => { h with w := max h.w (lmax + s.eAt other) } } else q
    { s with
      halfOut := [half]
      panel := { s.panel with tookOver := lmax }
      regions := s.regions.filter (·.home ≠ half)
      renewals := s.renewals.filter fun (x : Nat × Nat × Nat × Nat) => x.1 ≠ half
      watches := s.watches.map fun (x : Watch) => if x.home = half then { x with home := other } else x
      lineq := s.lineq.map late
      net := s.net.map fun (m : Msg) => m.reroute half
      kelvia := s.kelvia.map fun (m : Msg) => m.reroute half }

/-- A replica leaves service 100 µs after its last calibration or when its error reaches E, and with it what holds it:
a die, a memory site, or a bridge with its ports or its half of the Kelvia Link. R25 does not say how a replica's error is
estimated: the model takes its exact offset from BN1's counter (DESIGN CHOICE, log 84). -/
def State.replicaOut (s : State) (unit : Nat) : State :=
  if s.panel.stage < 3 || unit = 257 || !s.panel.replicaIn unit || (s.now < s.panel.calibrated.get 0 unit + 100000 && (s.replica.get 0 unit).natAbs < s.eAt unit) then s
  else if unit < 128 then s.loseDie unit
  else
    let s := { s with panel := { s.panel with outUnits := s.panel.outUnits ++ [unit] } }
    if unit < 256 then s.loseSite (unit - 128)
    else if unit = 261 then s.loseHalf 261
    else ((List.range 48).filter fun p => 256 + portBridge p = unit).foldl (fun s p => s.portFail p) s

/-- Firmware retires a die: it takes no launches, its agents are dead, and its groups are bound again. -/
def State.retire (s : State) (die : Nat) : State :=
  if !s.panel.inService die then s
  else (({ s with panel := { s.panel with retired := s.panel.retired ++ [die] } }.declareDie die).notice 8 0 die 0 0 0).rebind

/-! ### Links and clocks (R19, R21, R422, R489) -/

/-- A lane fails; past four the link's width is changed. -/
def State.laneFail (s : State) (link : Nat) : State :=
  if !linkOk link then s
  else
    let n := s.panel.lanes.get 0 link + 1
    let start : Bool := 4 < n && !s.panel.half.contains link && s.panel.widthAt.get 0 link = 0
    { s with panel := { s.panel with lanes := s.panel.lanes.put 0 link n, widthAt := if start then s.panel.widthAt.put 0 link (s.now + 1) else s.panel.widthAt } }

def State.widthDone (s : State) (link : Nat) : State :=
  if s.panel.widthAt.get 0 link = 0 || s.widthWaits link then s
  else { s with panel := { s.panel with half := s.panel.half ++ [link], widthAt := s.panel.widthAt.put 0 link 0 } }

def State.clockDone (s : State) (die : Nat) : State :=
  if !s.clockMoves die then s
  else { s with panel := { s.panel with clock := s.panel.clock.put 1700 die (s.panel.clockTo.get 0 die), clockTo := s.panel.clockTo.put 0 die 0, clockAt := s.panel.clockAt.put 0 die 0 } }

/-! ### Power (R29 to R32, R39, R488) -/

/-- Every 10 µs; what throttling withholds is not known (log 35). -/
def State.powerSample (s : State) : State :=
  if s.now < s.panel.powerAt + 10000 then s
  else (List.range 128).foldl (fun s d => if s.panel.inService d then s.countDie d 6 (Config.counted s.steps d 6) else s) { s with panel := { s.panel with powerAt := s.now } }

/-- A window of 1 µs ends: the limit starts again, a change of the sites' class takes effect, and requests that waited for the
limit go on. -/
def State.hbmWindow (s : State) : State :=
  if s.now < s.panel.windowAt + 1000 then s
  else
    let homes := ((s.lineq.filter (·.q ≠ [])).map fun q => s.homeOf (lineAddr q.line)).eraseDups.filter (· < 256)
    homes.foldl (fun s home => s.pumpHome home) { s with panel := { s.panel with
      windowAt := s.now, hbmBytes := []
      siteBound := (List.range 128).any fun d => s.panel.inService d && s.panel.power.get 0 d = 1 } }

def State.selfRefresh (s : State) (site : Nat) : State :=
  let u := 128 + site
  if 128 ≤ site || s.panel.sitesOut.contains site || s.panel.selfRefresh.contains u || s.now < s.panel.hbmAt.get 0 u + 20000 then s
  else { s with panel := { s.panel with selfRefresh := s.panel.selfRefresh ++ [u] } }

/-- The scrub of a site's lines; the corrected errors it finds are not known (log 35). `bad` is a line that it finds
uncorrectable. -/
def State.scrub (s : State) (site : Nat) (bad : Option Nat) : State :=
  if 128 ≤ site || s.panel.sitesOut.contains site || s.now < s.panel.scrubAt.get 0 site + 86400000000000 then s
  else
    let n := Config.counted s.steps (128 + site) 8
    let s := ({ s with panel := { s.panel with scrubAt := s.panel.scrubAt.put 0 site s.now } }.hbm (128 + site)).count (siteBlock site + 0x100) 8 8 n
    let s := if Config.correctedThreshold < n then s.notice 6 1 site 0 0 0 else s
    match bad with
    | none => s
    | some line =>
      if s.homeOf (lineAddr line) ≠ 128 + site || s.eccLines.contains line then s
      else { s with eccLines := s.eccLines ++ [line] }.notice 7 1 site 0 (lineAddr line) 0

def State.setGating (s : State) (die g since : Nat) : State :=
  { s with panel := { s.panel with gating := s.panel.gating.put 0 die g, idleSince := s.panel.idleSince.put 0 die since } }

/-- The die dispatcher counts the time a die stays idle, and after the gating delay starts the gating sequence. -/
def State.gatingDelayed (s : State) (die : Nat) : State :=
  if 128 ≤ die || !s.panel.joined.contains die || s.dieDown die || s.panel.gating.get 0 die ≠ 0 then s
  else if !s.dieIdle die then s.setGating die 0 0
  else match s.panel.idleSince.get 0 die with
    | 0 => s.setGating die 0 (s.now + 1)
    | n + 1 => if n + s.panel.gatingDelay ≤ s.now then s.setGating die 1 (n + 1) else s

/-- Power is switched off: what the die's vaults and caches held is gone. A die that is no longer idle aborts the
sequence. -/
def State.powerOff (s : State) (die : Nat) : State :=
  if s.panel.gating.get 0 die ≠ 1 || s.dieDown die then s
  else if !s.dieIdle die then s.setGating die 0 0
  else
    let span := 1280 * 2 ^ 19
    let lo := die * span
    { s.setGating die 2 s.now with
      vault := s.vault.filter fun p => !(lo ≤ p.1 && p.1 < lo + span)
      eccVault := s.eccVault.filter fun g => !(lo ≤ 8 * g && 8 * g < lo + span)
      tlbs := s.tlbs.filter (·.die ≠ die)
      tables := s.tables.filter (·.die ≠ die)
      l1 := s.l1.filter (·.die ≠ die) }

/-- A firmware command wakes a gated die, or aborts its gating sequence. -/
def State.wake (s : State) (die : Nat) : State :=
  match s.panel.gating.get 0 die with
  | 1 => s.setGating die 0 0
  | 2 => { s with panel := { s.panel with gating := s.panel.gating.put 0 die 3 } }
  | _ => s

/-- The die is powered again. -/
def State.wakeDone (s : State) (die : Nat) : State :=
  if s.panel.gating.get 0 die ≠ 3 then s
  else (s.countDie die 5 ((s.now - s.panel.idleSince.get 0 die) / 1000)).setGating die 0 0

/-! ### Events -/

/-- The patrol scrub of a site, each 24 h (R491). -/
def execPatrolScrub (s : State) : Res := .next (s.scrub s.arg.n (if s.arg.flag then some s.arg.m else none))

/-- Self-refresh after 20 µs without an access (R32). -/
def execHbmSelfRefresh (s : State) : Res := .next (s.selfRefresh s.arg.n)

/-- The boundary of a 1 µs window (R39). -/
def execHbmBwWindow (s : State) : Res := .next s.hbmWindow

/-- A calibration message (R23, R24). -/
def execTcCalibration (s : State) : Res := .next (s.calibrate s.arg.n s.arg.z)

/-- A replica is taken out of service (R25). -/
def execReplicaOutOfService (s : State) : Res := .next (s.replicaOut s.arg.n)

/-- A home or a fence unit adopts E = 16 (R26): the module is in reduced service again, stage 4 (R4, R490; DEDUCED, log 82). -/
def State.raiseE (s : State) (unit : Nat) : State :=
  if 264 ≤ unit then s
  else { s with ebound := s.ebound.put 16 unit 16, panel := { s.panel with stage := if s.panel.stage = 5 then 4 else s.panel.stage, reduced := true } }

/-- Firmware raises E at a unit (R26). -/
def execERaise (s : State) : Res := .next (s.raiseE s.arg.n)

/-- Once every replica is within 4 ns, a home or a fence unit adopts E = 4 (R26). -/
def execELower (s : State) : Res := .next (if s.arg.n < 264 && s.within 4 then { s with ebound := s.ebound.put 16 s.arg.n 4 } else s)

/-- A link loses a lane (R19). -/
def execLinkLaneFail (s : State) : Res := .next (s.laneFail s.arg.n)

/-- A link goes on at half width (R489). -/
def execLinkWidthChangeDone (s : State) : Res := .next (s.widthDone s.arg.n)

/-- A link is disabled: messages sent from now on whose row-first route crosses it travel column-first, once those of their pair
that are on the old route are drained (R21). -/
def State.cutLink (s : State) (link : Nat) : State :=
  if !linkOk link || s.panel.linksOut.contains link then s
  else { s with panel := { s.panel with linksOut := s.panel.linksOut ++ [link], linkCut := s.panel.linkCut.put 0 link (s.nextId + 1) } }

/-- A link is disabled (R21). -/
def execLinkDisableReroute (s : State) : Res := .next (s.cutLink s.arg.n)

/-- A half of the Kelvia Link agent goes out of service (R88). -/
def execKelviaHalfFail (s : State) : Res := .next (s.loseHalf s.arg.n)

/-- A die's clock change completes (R422, R489). -/
def execDieClockChangeDone (s : State) : Res := .next (s.clockDone s.arg.n)

/-- The power sample of every 10 µs (R488). -/
def execPowerSample (s : State) : Res := .next s.powerSample

/-- The gating delay of an idle die (R29). -/
def execGatingDelayExpire (s : State) : Res := .next (s.gatingDelayed s.arg.n)

/-- The gating sequence switches power off (R29). -/
def execGatingPowerSwitch (s : State) : Res := .next (s.powerOff s.arg.n)

/-- A die starts to wake (R30). -/
def execDieWake (s : State) : Res := .next (s.wake s.arg.n)

/-- A die has woken (R30). -/
def execDieWakeDone (s : State) : Res := .next (s.wakeDone s.arg.n)

/-- Firmware retires a die (R27, R79, R412). -/
def execFirmwareRetireDie (s : State) : Res := .next (s.retire s.arg.n)

/-- A die stops without having been taken out of service (R79). -/
def execComputeDieFailure (s : State) : Res :=
  .next (if s.panel.joined.contains s.arg.n && !s.dieDown s.arg.n then { s with panel := { s.panel with failed := s.panel.failed ++ [s.arg.n] } } else s)

/-- A memory site fails and takes the module out of service (R27, R491). -/
def execMemorySiteFailure (s : State) : Res := .next (s.loseSite s.arg.n)

/-- A held notice is tried again (R482). -/
def execNoticeRetry (s : State) : Res := .next (s.sendNotice s.arg.n)

end Sys2Proof.Machine
end

