-- ==== Sys2Proof/Machine/Digest.lean ====
section
/-! DEFINITION. SHA3-256, which R494 names and FIPS 202 defines (log 36): the permutation on 25 lanes, and the digest of
one block of 64 bytes. -/

namespace Sys2Proof.Machine

/-- Rotation counts of the lanes x + 5·y. -/
def keccakTurns : List Nat := [0, 1, 62, 28, 27, 36, 44, 6, 55, 20, 3, 10, 43, 25, 39, 41, 45, 15, 21, 8, 18, 2, 61, 56, 14]

/-- The constant of each of the 24 rounds. -/
def keccakConstants : List DWord :=
  [0x1, 0x8082, 0x800000000000808a, 0x8000000080008000, 0x808b, 0x80000001, 0x8000000080008081, 0x8000000000008009,
   0x8a, 0x88, 0x80008009, 0x8000000a] ++
  [0x8000808b, 0x800000000000008b, 0x8000000000008089, 0x8000000000008003, 0x8000000000008002, 0x8000000000000080, 0x800a,
   0x800000008000000a, 0x8000000080008081, 0x8000000000008080, 0x80000001, 0x8000000080008008]

/-- One round: column parities are added in, the lanes turn and change places, rows mix, and the constant is added. -/
def keccakRound (a : List DWord) (k : DWord) : List DWord :=
  let lane (l : List DWord) (x y : Nat) : DWord := l.getD (x % 5 + 5 * (y % 5)) 0
  let col := (List.range 5).map fun x => lane a x 0 ^^^ lane a x 1 ^^^ lane a x 2 ^^^ lane a x 3 ^^^ lane a x 4
  let turned := (List.range 25).map fun j =>
    (a.getD j 0 ^^^ col.getD ((j + 4) % 5) 0 ^^^ (col.getD ((j + 1) % 5) 0).rotateLeft 1).rotateLeft (keccakTurns.getD j 0)
  let moved := (List.range 25).map fun j => lane turned (j + 3 * (j / 5)) j
  let mixed := (List.range 25).map fun j => lane moved j (j / 5) ^^^ (~~~lane moved (j + 1) (j / 5) &&& lane moved (j + 2) (j / 5))
  mixed.set 0 (mixed.getD 0 0 ^^^ k)

/-- The digest of 64 bytes, the first 32 of them `a` and the others `b`, each number's low byte first: one block of 136
bytes, its padding 0x06 after the message and 0x80 at the end. -/
def sha3 (a b : BitVec 256) : BitVec 256 :=
  let words (x : BitVec 256) : List DWord := (List.range 4).map fun j => x.extractLsb' (64 * j) 64
  let block := words a ++ words b ++ [0x6] ++ List.replicate 7 0 ++ [0x8000000000000000] ++ List.replicate 8 0
  let out := keccakConstants.foldl keccakRound block
  BitVec.ofNat 256 ((List.range 4).foldr (fun j n => (out.getD j 0).toNat + n * 2 ^ 64) 0)

end Sys2Proof.Machine
end

