-- ==== Sys2Proof/Machine/Service.lean ====
section
/-! DEFINITION. Service space (R478 to R487, R493 to R495), the debugger (R476, R495), LOST clears over ranges (R81),
attestation (R494), and bring-up and reset (R25, R490). -/

namespace Sys2Proof.Machine

/-! ### The registers (R478, R479, R480, R482 to R484, R487, R494, R495) -/

/-- A register of service space, or the part of one that the eight bytes at an offset show. -/
inductive SvcReg where
  | status | moduleId | svcErr | dead
  | spanRoute (k : Nat)
  | queue (n part : Nat)                      -- part: eight bytes of the entry
  | root (asid : Nat)
  | spanMap (first : Nat)                     -- four entries
  | fqBase | fqLog | fqTail | fqHead | fqReply
  | nrBase | nrLog | nrTail | nrHead | nrDropped
  | cmBase (k : Nat) | cmLimit (k : Nat)
  | meas (part : Nat) | nonce (part : Nat) | attGo | attPub (part : Nat) | attOut (part : Nat)
  | dieState (d : Nat) | dbgCmd (d : Nat) | dbgSel (d : Nat) | dbgData (d : Nat)
  | inc (d kind first : Nat)                  -- four agents
  | count | control                           -- of an event counter
  | lclrBase (m : Nat) | lclrCount (m : Nat) | lclrDone (m : Nat)
deriving DecidableEq, Repr

/-- Counter registers: `n` counters of 16 bytes from `base`. -/
def counterReg (r base n : Nat) : Option SvcReg :=
  if r < base || base + 16 * n ≤ r then none else if (r - base) % 16 = 0 then some .count else some .control

/-- Registers of a compute die's block, by offset in it: only enabled clusters and their cores have any (R14). -/
def State.dieReg (s : State) (d r : Nat) : Option SvcReg :=
  if r = 0 then some (.dieState d)
  else if r = 0x200 then some (.dbgCmd d)
  else if r = 0x208 then some (.dbgSel d)
  else if r = 0x210 then some (.dbgData d)
  else if 0x10000 ≤ r && r < 0x1c000 then
    (let kind := (r - 0x10000) / 0x2000; let first := (r - 0x10000) % 0x2000 / 2; if first < s.incUnits kind then some (.inc d kind first) else none)
  else (counterReg r 0x100 8 <|> counterReg r 0x40000 (4 * s.coresPerDie)) <|> counterReg r 0x60000 (2 * (s.coresPerDie / 4))

def siteReg (m r : Nat) : Option SvcReg :=
  if r = 0x200 then some (.lclrBase m) else if r = 0x208 then some (.lclrCount m) else if r = 0x210 then some (.lclrDone m) else counterReg r 0x100 8

/-- Registers of the fault and notice block. -/
def faultReg (r : Nat) : Option SvcReg :=
  match r with
  | 0x00 => some .fqBase
  | 0x08 => some .fqLog
  | 0x10 => some .fqTail
  | 0x18 => some .fqHead
  | 0x20 => some .fqReply
  | 0x40 => some .nrBase
  | 0x48 => some .nrLog
  | 0x50 => some .nrTail
  | 0x58 => some .nrHead
  | 0x60 => some .nrDropped
  | _ => if 0x100 ≤ r && r < 0x200 then some (if r % 16 = 0 then .cmBase ((r - 0x100) / 16) else .cmLimit ((r - 0x100) / 16)) else none

/-- Registers of the firmware and attestation block. -/
def attReg (r : Nat) : Option SvcReg :=
  if r < 0x100 then some (.meas (r / 8))
  else if r < 0x120 then some (.nonce ((r - 0x100) / 8))
  else if r = 0x120 then some .attGo
  else if 0x1000 ≤ r && r < 0x1520 then some (.attPub ((r - 0x1000) / 8))
  else if 0x2000 ≤ r && r < 0x2a9c then some (.attOut ((r - 0x2000) / 8))
  else none

def globalReg (r : Nat) : Option SvcReg :=
  if r = 0 then some .status
  else if r = 8 then some .moduleId
  else if r = 0x10 then some .svcErr
  else if r = 0x18 then some .dead
  else if 0x20 ≤ r && r < 0x220 then some (.spanRoute ((r - 0x20) / 8))
  else none

/-- The register at an offset that is a multiple of 8. -/
def State.svcReg (s : State) (o : Nat) : Option SvcReg :=
  if o < 0x10000 then globalReg o
  else if o < 0x30000 then some (.queue ((o - 0x10000) / 32) ((o - 0x10000) % 32 / 8))
  else if o < 0x30800 then some (.root ((o - 0x30000) / 8))
  else if o < 0x31000 then none
  else if o < 0x39000 then some (.spanMap ((o - 0x31000) / 2))
  else if o < 0x3a000 then faultReg (o - 0x39000)
  else if o < 0x40000 then none
  else if o < 0x50000 then attReg (o - 0x40000)
  else if 0x10000000 ≤ o && o < 0x18000000 then s.dieReg ((o - 0x10000000) / 0x100000) (o % 0x100000)
  else if 0x20000000 ≤ o && o < 0x28000000 then siteReg ((o - 0x20000000) / 0x100000) (o % 0x100000)
  else none

/-- Registers that end after the lower four of their eight bytes: control words, and the last bytes of the report. -/
def SvcReg.short : SvcReg → Bool
  | .control | .attOut 339 => true
  | _ => false

/-- The register that holds the byte at an offset. -/
def State.svcAt (s : State) (off : Nat) : Option SvcReg := (s.svcReg (off / 8 * 8)).filter fun r => !(r.short && 4 ≤ off % 8)

/-! ### The debugger (R476, R495) -/

/-- The team that a die's last command named, if it is on the die. -/
def State.dbgTeam (s : State) (die cmd : Nat) : Option TeamKey :=
  let t : TeamKey := ⟨cmd / 2 ^ 32 % 2 ^ 32, cmd / 2 ^ 8 % 2 ^ 24⟩
  match s.team? t with
  | some tm => if tm.resident && tm.die = die then some t else none
  | none => none

/-- Every warp of the team takes the halt at its next boundary. -/
def State.dbgHalt (s : State) (die cmd : Nat) : State :=
  match s.dbgTeam die cmd with
  | none => s
  | some t =>
    { s.setReg (dieBlock die + 0x200) (cmd % 2 ^ 64) with
      warps := s.warps.map fun p => if p.1.teamKey = t && p.1.ctx = 0 && p.2.r.live ≠ 0 then (p.1, { p.2 with pending := { p.2.pending with halt := true } }) else p }

/-- The team's warps go on at their interrupted PCs. -/
def State.dbgResume (s : State) (die cmd : Nat) : State :=
  match s.dbgTeam die cmd with
  | none => s
  | some t =>
    { s with warps := s.warps.map fun p => if p.1.teamKey = t && p.1.ctx = 0 then (p.1, { p.2 with halted := false, pending := { p.2.pending with halt := false } }) else p }

/-- What DBG_SEL selects in the halted team: the warp, its image's kind and count, and the byte offset. -/
structure DbgSel where
  k : WarpKey
  w : Warp
  team : Team
  kind : Nat
  count : Nat
  off : Nat

def State.dbgSelected (s : State) (die : Nat) : Option DbgSel :=
  let sel := s.reg (dieBlock die + 0x208)
  match s.dbgTeam die (s.reg (dieBlock die + 0x200)) with
  | none => none
  | some t =>
    let k : WarpKey := ⟨t.grid, t.team, sel % 16, 0⟩
    match s.warp? k, s.team? t with
    | some w, some tm =>
      let kind := sel / 16 % 8
      let h := s.header k
      let count := match kind with | 0 => h.nV | 1 => h.nF | _ => h.nS
      let off := sel / 2 ^ 32 / 8 * 8
      if w.halted && kind < 6 && off < imageSize h kind count then some ⟨k, w, tm, kind, count, off⟩ else none
    | _, _ => none

/-- Eight bytes of the selected image; nothing is selected where no team is halted. -/
def State.dbgRead (s : State) (die : Nat) : Nat :=
  match s.dbgSelected die with
  | none => 0
  | some d => imageField (d.w.image (s.header d.k) d.team d.kind 0 d.count) d.off 8

/-- Write them; a hidden state that CLOAD.hw would refuse is discarded and counted. -/
def State.dbgWrite (s : State) (die v : Nat) : State :=
  match s.dbgSelected die with
  | none => s
  | some d =>
    let h := s.header d.k
    let img := d.w.image h d.team d.kind 0 d.count
    let img := img - imageField img d.off 8 * 256 ^ d.off + v % 2 ^ 64 * 256 ^ d.off
    if d.kind = 4 && hwBad h img then s.svcErr
    else if d.kind = 5 then s.modTeam d.k.teamKey fun t => t.loadBar img
    else
      let r := d.w.r.loadImage h d.kind 0 d.count img
      let s := if d.kind = 4 then s.spillOut d.k d.w 0 r.stack else s
      s.setWarp d.k { d.w with r := if d.kind = 4 && !r.tmode then { r with pc := r.ipc, mask := r.imask &&& r.live } else r }

/-! ### Reads (R478) -/

/-- SVC_STATUS (R479). -/
def State.svcStatus (s : State) : Nat :=
  (s.serviceDies.length * 2 ^ 24) + s.eAt 257 % 256 * 2 ^ 16 + s.panel.stage % 16 * 16 + (if s.reg rSvcErr ≠ 0 then 2 else 0) + (if s.panel.reduced then 1 else 0)

/-- Four entries of 16 bits. -/
def pack16 (f : Nat → Nat) : Nat := f 0 % 65536 + f 1 % 65536 * 2 ^ 16 + f 2 % 65536 * 2 ^ 32 + f 3 % 65536 * 2 ^ 48

/-- What the eight bytes at an offset read; write-only registers read 0. -/
def State.svcRead (s : State) (o : Nat) (r : SvcReg) : Nat :=
  match r with
  | .status => s.svcStatus
  | .dead | .fqReply | .nonce _ | .dbgCmd _ | .lclrCount _ => 0
  | .queue n part => imageField (((s.queue? n).map Queue.image).getD 0) (8 * part) 8
  | .root a => s.roots.get 0 a
  | .spanMap i => pack16 fun j => s.reg (0x31000 + 2 * (i + j))
  | .attPub i => (List.range 8).foldr (fun j n => (Config.publicKeyByte (8 * i + j)).toNat + 256 * n) 0
  | .dieState d => (if s.panel.inService d then 1 else 0) + (if s.panel.gating.get 0 d = 2 then 2 else 0) + (if s.panel.retired.contains d then 4 else 0)
  | .dbgData d => s.dbgRead d
  | .inc d kind i => pack16 fun j => s.incOf (agentId kind d (i + j))
  | _ => s.reg o

/-- A read of 4 or 8 bytes at a natural boundary; elsewhere and outside every register it reads 0 and is counted. -/
def State.serviceRead (s : State) (off size : Nat) : Nat × State :=
  match s.svcAt off with
  | some r =>
    if (size ≠ 4 && size ≠ 8) || off % size ≠ 0 || (s.panel.stage = 15 && (off < 0x40000 || 0x50000 ≤ off)) then (0, s.svcErr)
    else (s.svcRead (off / 8 * 8) r / 256 ^ (off % 8) % 256 ^ size, s)
  | none => (0, s.svcErr)

/-! ### Writes -/

/-- MODULE_ID, until it is locked. -/
def State.writeModuleId (s : State) (v : Nat) : State := if s.panel.modLocked then s else s.setReg rModuleId (v % 64)

/-- The bits written as 1 are cleared. -/
def State.clearSvcErr (s : State) (v : Nat) : State := s.setReg rSvcErr (s.reg rSvcErr - (s.reg rSvcErr &&& v % 2 ^ 32))

/-- The size of a ring; values outside 6 to 16 are discarded. -/
def State.writeLog (s : State) (reg v : Nat) : State := if 6 ≤ v % 256 && v % 256 ≤ 16 then s.setReg reg (v % 256) else s

/-- NR_DROPPED := 0. What a write of another value does R484 does not say: it is discarded (DESIGN CHOICE, log 85). -/
def State.clearDropped (s : State) (v : Nat) : State := if v = 0 then s.setReg rNrDropped 0 else s

abbrev rAttGo : Nat := 0x40120

def State.attStart (s : State) (v : Nat) : State := if v % 2 = 1 then s.setReg rAttGo 1 else s

/-- Incarnations of agents of one kind on a die, from the first, as 16-bit fields; firmware's alone. -/
def State.writeIncs (s : State) (d kind first n v : Nat) : State :=
  { s with incs := (List.range n).foldl (fun m j => m.put 0 (agentId kind d (first + j)) (v / 2 ^ (16 * j) % 2 ^ 16)) s.incs }

/-- INC by firmware; any other write is discarded and counted. -/
def State.incWrite (s : State) (off v size : Nat) (firmware : Bool) : State :=
  let d := (off - 0x10000000) / 0x100000
  match s.dieReg d (off % 0x100000) with
  | some (.inc _ kind first) => if firmware && 0x10000000 ≤ off && d < 128 then s.writeIncs d kind first (size / 2) v else s.svcErr
  | _ => s.svcErr

/-- Start a LOST clear of 1 to 2^20 lines from LCLR_BASE; one at a time runs at a site. -/
def State.lclrStart (s : State) (site v : Nat) : State :=
  if 128 ≤ site || v = 0 || 2 ^ 20 < v || s.clears.any (·.site = site) then s
  else { s with clears := s.clears ++ [(⟨site, lineOf (s.reg (siteBlock site + 0x200)), v⟩ : Clear)] }.setReg (siteBlock site + 0x210) (2 ^ 63)

/-- The clear is done: LOST flags of the range's lines at the site are cleared and counted. -/
def State.lclrDone (s : State) (site : Nat) : State :=
  match s.clears.find? (·.site = site) with
  | none => s
  | some c =>
    let hit (r : Region) : Bool := r.home = 128 + site && r.lost && r.size = 0 && c.line ≤ r.base && r.base < c.line + c.count
    let n := (s.regions.filter hit).length
    let s := { s with
      regions := s.regions.map fun (r : Region) => if hit r then { r with lost := false, st := if r.st = LineSt.lost then LineSt.invalid else r.st } else r
      clears := s.clears.filter fun (x : Clear) => x.site ≠ site }
    (s.setReg (siteBlock site + 0x210) n).pumpHome (128 + site)

/-- Write eight bytes of a register; `v` is the whole new value. -/
def State.svcWrite (s : State) (o : Nat) (r : SvcReg) (v : Nat) : State :=
  match r with
  | .status | .fqTail | .nrTail | .meas _ | .attPub _ | .attOut _ | .dieState _ | .lclrDone _ => s
  | .moduleId => s.writeModuleId v
  | .svcErr => s.clearSvcErr v
  | .dead => s.declareDead (v % 2 ^ 32) (v / 2 ^ 32 % 2 ^ 16)
  | .spanRoute _ => s.setReg o (v % 2 ^ 48)
  | .queue n part =>
    let img := ((s.queue? n).map Queue.image).getD 0
    s.writeQueue n (img - imageField img (8 * part) 8 * 256 ^ (8 * part) + v * 256 ^ (8 * part))
  | .root a => { s with roots := s.roots.put 0 a (v % 2 ^ 48) }
  | .spanMap i => (List.range 4).foldl (fun s j => s.setReg (0x31000 + 2 * (i + j)) (v / 2 ^ (16 * j) % 2 ^ 16 &&& 0x80ff)) s
  | .fqBase | .nrBase | .cmBase _ | .cmLimit _ => s.setReg o (v % 2 ^ 48 / 4096 * 4096)
  | .fqLog | .nrLog => s.writeLog o v
  | .fqHead | .nrHead | .nonce _ | .count => s.setReg o v
  | .fqReply => s.reply' (BitVec.ofNat 64 v) (v / 2 ^ 32 % 2 = 1)
  | .nrDropped => s.clearDropped v
  | .attGo => s.attStart v
  | .dbgCmd d => if v % 256 = 1 then s.dbgHalt d v else if v % 256 = 2 then s.dbgResume d v else s
  | .dbgSel _ => s.setReg o (v % 2 ^ 7 + v / 2 ^ 35 * 2 ^ 35)
  | .dbgData d => s.dbgWrite d v
  | .inc _ _ _ => s.svcErr
  | .control => s.setReg o (v % 2 ^ 32 &&& 0xc00000ff)
  | .lclrBase _ => s.setReg o (v % 2 ^ 48 / 128 * 128)
  | .lclrCount m => s.lclrStart m v

/-- A write of 4 or 8 bytes by the companion: four bytes leave the register's others as they read. A write elsewhere is
discarded and counted, and so is every write outside the firmware and attestation block once verification has failed
(R478, R490). -/
def State.serviceWrite (s : State) (off v size : Nat) : State :=
  let o := off / 8 * 8
  match s.svcAt off with
  | none => s.svcErr
  | some r =>
    if (size ≠ 4 && size ≠ 8) || off % size ≠ 0 || (s.panel.stage = 15 && (off < 0x40000 || 0x50000 ≤ off)) then s.svcErr
    else if size = 8 then s.svcWrite o r (v % 2 ^ 64)
    else
      let old := match r with | .svcErr => 0 | _ => s.svcRead o r
      s.svcWrite o r (if off % 8 = 0 then old / 2 ^ 32 * 2 ^ 32 + v % 2 ^ 32 else v % 2 ^ 32 * 2 ^ 32 + old % 2 ^ 32)

/-! ### Attestation (R494) -/

/-- The report's bytes in order, as one number. -/
def State.report (s : State) : Nat :=
  let words (base n : Nat) : Nat := (List.range n).foldr (fun i r => s.reg (base + 8 * i) % 2 ^ 64 + r * 2 ^ 64) 0
  s.reg rModuleId + words 0x40000 32 * 256 ^ 8 + words 0x40100 4 * 256 ^ 264 +
    (List.range 2420).foldr (fun i r => (Config.signatureByte s.steps i).toNat + r * 256) 0 * 256 ^ 296

def State.attDone (s : State) : State :=
  if s.reg rAttGo = 0 then s
  else
    let v := s.report
    ((List.range 340).foldl (fun s i => s.setReg (0x42000 + 8 * i) (imageField v (8 * i) 8)) s).setReg rAttGo 0

/-! ### Bring-up and reset (R25, R35, R490, R494) -/

/-- MEAS := SHA3-256(MEAS ‖ digest). -/
def State.measure (s : State) (i : Nat) (digest : BitVec 256) : State :=
  let base := 0x40000 + 32 * (i % 8)
  let old := (List.range 4).foldr (fun j n => s.reg (base + 8 * j) % 2 ^ 64 + n * 2 ^ 64) 0
  let m := (sha3 (BitVec.ofNat 256 old) digest).toNat
  (List.range 4).foldl (fun s j => s.setReg (base + 8 * j) (imageField m (8 * j) 8)) s

/-- The boot ROM takes an image: it is measured, or at stage 0 verification has failed. -/
def State.bootVerify (s : State) (good : Bool) (i : Nat) (digest : BitVec 256) : State :=
  if s.panel.stage = 15 then s
  else if good then (let s := s.measure i digest; if s.panel.stage = 0 then { s with panel := { s.panel with stage := 1 } } else s)
  else if s.panel.stage = 0 then { s with panel := { s.panel with stage := 15 } }
  else s

/-- Firmware sets the boundary S, in GiB, as the sites' directories are loaded; until then it is 0 (DESIGN CHOICE, log 86). -/
def State.sitesTrained (s : State) (gib : Nat) : State :=
  if s.panel.stage ≠ 1 || s.panel.sitesOut ≠ [] || 44 < gib then s else { s with boundary := gib * 2 ^ 30, panel := { s.panel with stage := 2 } }

/-- The Kelvia Link is up on a half and the reference TC runs: calibration starts. -/
def State.kelviaUp (s : State) : State :=
  if s.panel.stage ≠ 2 then s
  else { s with panel := { s.panel with stage := 3, calibrated := (List.range 136).foldl (fun m u => m.put 0 (128 + u) s.now) s.panel.calibrated } }

/-- A die that has passed self-test and whose replica lies within the bound joins at the current level; firmware sets N
of R415 and the gating delay. -/
def State.dieJoin (s : State) (die n delay : Nat) : State :=
  if s.panel.stage < 3 || s.panel.stage = 15 || 128 ≤ die || s.panel.joined.contains die || s.dieDown die || !s.nearAll die (s.replica.get 0 die) s.skewBound then s
  else
    { s with
      clear := if n = 0 then s.clear else s.clear.put 65536 die n
      panel := { s.panel with
        stage := max s.panel.stage 4
        joined := s.panel.joined ++ [die]
        calibrated := s.panel.calibrated.put 0 die s.now
        gatingDelay := if delay = 0 then s.panel.gatingDelay else delay
        clock := if s.panel.reduced then s.panel.clock.put 1700 die 1000 else s.panel.clock } }

/-- Full service: every replica lies within 4 ns, E is lowered, and each die's clock changes. -/
def State.fullService (s : State) : State :=
  if s.panel.stage ≠ 4 || !s.within 4 then s
  else
    { s with
      ebound := allUnits.foldl (fun m u => m.put 16 u 4) s.ebound
      panel := { s.panel with
        stage := 5
        reduced := false
        modLocked := true
        clockTo := s.panel.joined.foldl (fun m d => m.put 0 d (classClock (s.panel.power.get 0 d))) s.panel.clockTo
        clockAt := s.panel.joined.foldl (fun m d => m.put 0 d (s.now + 1)) s.panel.clockAt } }

/-- A reset of the module: every unit is as after reset. The companion's memory, and what the machine is yet to do, are
not the module's. -/
def State.moduleReset (s : State) : State :=
  { State.reset with steps := s.steps, gradeB := s.gradeB, agenda := s.agenda, mem := s.mem.filter fun p => 2 ^ 47 ≤ p.1 }

/-! ### Events -/

/-- A write of MODULE_ID (R479). -/
def execModuleIdWrite (s : State) : Res := .next (s.writeModuleId s.arg.v.toNat)

/-- A write of SVC_ERR (R479). -/
def execSvcErrClear (s : State) : Res := .next (s.clearSvcErr s.arg.v.toNat)

/-- A write of DEAD (R479, R485). -/
def execDeadWrite (s : State) : Res := .next (s.declareDead (s.arg.v.toNat % 2 ^ 32) (s.arg.v.toNat / 2 ^ 32 % 2 ^ 16))

/-- A write of FQ_LOG (R480). -/
def execFqLogWrite (s : State) : Res := .next (s.writeLog rFqLog s.arg.v.toNat)

/-- A write of 0 to NR_DROPPED (R484). -/
def execNrDroppedClear (s : State) : Res := .next (s.clearDropped s.arg.v.toNat)

/-- A write of ATT_GO (R494). -/
def execAttGoStart (s : State) : Res := .next (s.attStart s.arg.v.toNat)

/-- The report is complete (R494). -/
def execAttestationDone (s : State) : Res := .next s.attDone

/-- DBG_CMD 1 of a die (R476, R495). -/
def execDbgHalt (s : State) : Res := .next (s.dbgHalt s.arg.n s.arg.v.toNat)

/-- DBG_CMD 2 of a die (R476, R495). -/
def execDbgResume (s : State) : Res := .next (s.dbgResume s.arg.n s.arg.v.toNat)

/-- A write of DBG_DATA at its offset (R495). -/
def execDbgDataWrite (s : State) : Res :=
  .next (match s.svcReg s.arg.a.toNat with
    | some (.dbgData d) => s.dbgWrite d s.arg.v.toNat
    | _ => s.svcErr)

/-- A write of INC registers; the flag says that firmware writes (R484). -/
def execIncWrite (s : State) : Res := .next (s.incWrite s.arg.a.toNat s.arg.v.toNat (if s.arg.k = 0 then 2 else s.arg.k) s.arg.flag)

/-- A write of LCLR_COUNT (R81, R484). -/
def execLclrStart (s : State) : Res := .next (s.lclrStart s.arg.n s.arg.v.toNat)

/-- A LOST clear over a range completes (R81, R484). -/
def execLclrDone (s : State) : Res := .next (if s.panel.sitesOut.contains s.arg.n then s else s.lclrDone s.arg.n)

/-- Any other write of service space, of four bytes or of eight (R478). -/
def execServiceRegisterWrite (s : State) : Res := .next (s.serviceWrite s.arg.a.toNat s.arg.v.toNat (if s.arg.k = 4 then 4 else 8))

/-- An access outside a defined register: a write is discarded, a read gives 0, and either is counted (R478). -/
def execServiceUndefinedAccess (s : State) : Res := .next (if (s.svcAt s.arg.a.toNat).isNone then s.svcErr else s)

/-- The boot ROM verifies and measures an image of the firmware (R490, R494). -/
def execBootFirmwareVerify (s : State) : Res := .next (s.bootVerify s.arg.flag s.arg.n s.arg.img)

/-- Every memory site has trained (R490). -/
def execMemorySitesTrained (s : State) : Res := .next (s.sitesTrained s.arg.n)

/-- The Kelvia Link and the reference TC are up (R490). -/
def execKelviaLinkUp (s : State) : Res := .next s.kelviaUp

/-- A die joins service (R490). -/
def execDieJoin (s : State) : Res := .next (s.dieJoin s.arg.n s.arg.m s.arg.k)

/-- Full service is reached (R490). -/
def execFullServiceReached (s : State) : Res := .next s.fullService

/-- A reset of the module (R25). -/
def execModuleReset (s : State) : Res := .next s.moduleReset

end Sys2Proof.Machine
end

