-- ==== Sys2Proof/Machine/Sprout.lean ====
section
/-! DEFINITION. Sprouts: RECRUIT, HEND and HJOIN, opcodes 0x14 to 0x16 (R442 to R453). -/

namespace Sys2Proof.Machine

/-! ### Donors (R444, R445) -/

/-- Threads of a warp whose storage running sprouts hold. -/
def State.lent (s : State) (k : WarpKey) : Mask :=
  s.warps.foldl (fun m p => match p.2.sprout with
    | some q => if q.host = some k && p.2.r.live ≠ 0 then m ||| q.donors else m
    | none => m) 0

/-- Sprout contexts of a core in use. -/
def State.contextsUsed (s : State) (die core : Nat) : List Nat :=
  (s.warps.filter fun p => p.2.die = die && p.2.core = core && p.2.sprout.isSome && p.2.r.live ≠ 0).map fun p => p.2.slot

/-- Free warp slots that one more warp of the kernel fits in, up to n of them. -/
def fitCount (h : Header) (l : Load) (slots : Nat) : Nat → Nat
  | 0 => 0
  | n + 1 =>
    let l := l.add (h.load 1)
    if slots ≠ 0 && l.fits then 1 + fitCount h l (slots - 1) n else 0

/-- A group of donors: the warp whose exited threads lend their storage, or a free warp slot. -/
abbrev Donors := Option WarpKey × List Nat

/-- The donor groups in the order of R445; a group counts while a context is free. -/
def State.donors (s : State) (k : WarpKey) (w : Warp) : List Donors :=
  let free (p : WarpKey × Warp) : Donors := (some p.1, lanesOf (fullMask p.2.width &&& ~~~p.2.r.live &&& ~~~s.lent p.1))
  let team := (List.range (((s.team? k.teamKey).map (·.warps)).getD 0)).filterMap fun i =>
    let q : WarpKey := { k with warp := i }
    if q = k then none else (s.warp? q).map fun o => free (q, o)
  let slots := fitCount (s.header k) (s.coreLoad w.die w.core) (s.freeSlots w.die w.core).length 4
  let all := free (k, w) :: team ++ List.replicate slots (none, List.range w.width)
  (all.filter fun g => g.2 ≠ []).take (4 - (s.contextsUsed w.die w.core).length)

def donorCount (l : List Donors) : Nat := l.foldl (fun n g => n + g.2.length) 0

/-- The first n donors, group by group. -/
def takeDonors : Nat → List Donors → List Donors
  | _, [] => []
  | n, g :: rest => if n = 0 then [] else (g.1, g.2.take n) :: takeDonors (n - g.2.length) rest

/-- A boundary cause is pending for the team. -/
def State.boundaryPending (s : State) (t : TeamKey) : Bool :=
  s.warps.any fun p => p.1.teamKey = t && (p.2.pending.first.isSome || p.2.trapping.any fun x => x.cause = 13 || x.cause = 14)

/-! ### RECRUIT -/

/-- Registers of the lend set (R244). -/
def lendRegs (l : List (Nat × Nat)) : List Nat := l.flatMap fun p => (List.range p.2).map (p.1 + ·)

/-- One sprout's registers (R446). -/
def Regs.lend (r : Regs) (h : Header) (from' : Regs) (lane0 lane idx count : Nat) : Regs :=
  let r := (lendRegs h.lendV).foldl (fun r n => r.setV n lane (from'.getV n lane0)) r
  let r := (lendRegs h.lendF).foldl (fun r n => r.setF n lane (from'.getF n lane0)) r
  { r with
    floor := r.floor.put 0 lane (from'.floorOf lane0)
    hidx := r.hidx.put 0 lane (BitVec.ofNat 32 idx)
    hcount := r.hcount.put 0 lane (BitVec.ofNat 32 count) }

/-- Start one sprout warp on a group of donors, from sprout number `first`. -/
def State.startSprouts (s : State) (k : WarpKey) (w : Warp) (label : DWord) (lane0 count first : Nat) (g : Donors) : State :=
  let h := s.header k
  let ctx := ((List.range 4).find? fun c => !(s.contextsUsed w.die w.core).contains c).getD 0
  let args := ((s.team? k.teamKey).bind (·.args)).getD 0
  let r := (Regs.start label (maskOf g.2)).setArgs h args
  let r := ((g.2.zipIdx).foldl (fun r p => r.lend h w.r lane0 p.1 (first + p.2) count) r).retag h
  let o := Warp.start r w.width w.die w.core ctx s.nextId (s.activeCount w.die w.core < 8)
  { s with nextId := s.nextId + 1 }.setWarp { k with ctx := ctx + 1 } { o with sprout := some ⟨k, g.1, maskOf g.2, none⟩, lastIssue := s.now }

def State.startGroups (s : State) (k : WarpKey) (w : Warp) (label : DWord) (lane0 count : Nat) : List Donors → Nat → State
  | [], _ => s
  | g :: rest, first => (s.startSprouts k w label lane0 count first g).startGroups k w label lane0 count rest (first + g.2.length)

/-- A lend register of the recruiter's thread is empty. -/
def lendEmpty (h : Header) (w : Warp) (lane : Nat) : Bool :=
  (lendRegs h.lendV).any (fun n => w.isEmpty .v n lane) || (lendRegs h.lendF).any fun n => w.isEmpty .f n lane

/-- Poison in a lend register of the recruiter's thread (R458). -/
def lendBad (h : Header) (w : Warp) (lane : Nat) : Bool :=
  (lendRegs h.lendV).any (fun n => w.r.bad.contains ⟨.v, n, lane⟩) || (lendRegs h.lendF).any fun n => w.r.bad.contains ⟨.f, n, lane⟩

/-- The first refusal code that applies, and the number of sprouts otherwise (R444). -/
def Cx.recruitCode (c : Cx) (ds : List Donors) : Except Nat Nat :=
  let h := c.s.header c.k
  let l := lowest c.m
  let n := min (c.i32 l c.x.a).toNat h.hlimit
  let m := max 1 (min (c.i32 l c.x.b).toNat n)
  let helpers := ((c.s.grid? c.k.grid).map (·.helpers)).getD false
  if c.w.sprout.isSome then .error 3
  else if h.hlimit = 0 || !helpers then .error 6
  else if c.m ≠ bitMask l then .error 2
  else if c.w.r.recr.state ≠ 0 then .error 4
  else if c.s.boundaryPending c.k.teamKey then .error 5
  else if n = 0 || donorCount ds < m then .error 1
  else .ok (min n (donorCount ds))

/-- The status of a RECRUIT, whose register is empty until it is filled (R176, R444). -/
def Cx.statusOut (c : Cx) (s : State) (v : Word) : Out :=
  { id := s.nextId, kind := .sprouts, op := c.op, x := c.x, ctr := none, mask := c.m
    lanes := [⟨lowest c.m, 0, 0, 0, 4, 0, 0, true, v.toNat, false, false, 0⟩], pieces := [], acks := []
    dests := ((sig c.op c.x).d.regs c.x.d).map fun p => ⟨p.1, p.2, 0⟩
    finished := false, acq := false, oldest := 0, back := none, slot := s.now + s.cyclesNs c.w.die 40 + 1, stop := none }

/-- The end of a RECRUIT: E at once, and D within 40 cycles (R444). -/
def Cx.recruited (c : Cx) (s : State) (len : Nat) (v : Word) (e : Tri) (rec' : Recr) : Res :=
  let r := { (lanesOf c.m).foldl (fun r l => putE l c.x.e e r) c.w.r with recr := rec' }
  { s with nextId := s.nextId + 1 }.done c.k { c.w with outs := c.w.outs ++ [c.statusOut s v] } r len

def recruit (op : Op) (x : Ext) (len : Nat) (s : State) : Res :=
  frame op x s fun c =>
    let l := lowest c.m
    let h := c.s.header c.k
    if c.m = 0 then c.done len c.w.r
    else if lendEmpty h c.w l then .next (c.s.hold' c.k)
    else if lendBad h c.w l then c.trapIn cEcc 0 l 0
    else
      let ds := c.s.donors c.k c.w
      match c.recruitCode ds with
      | .error code => c.recruited c.s len (BitVec.ofNat 32 (2 ^ 31 + code)) Tri.ff c.w.r.recr
      | .ok g =>
        if !(c.w.settled && !c.w.acquiring && c.s.fenceHolds c.w 0) then .next (c.s.hold' c.k)
        else
          let rop := ropOf c.x
          let rec' : Recr := { Recr.none with state := 1, rop := rop.1, fl := rop.2.1, sgn := rop.2.2, g := g, lane := l }
          c.recruited (c.s.startGroups c.k c.w c.label l g (takeDonors g ds) 0) len (BitVec.ofNat 32 g) Tri.tt rec'

/-! ### HEND (R448) -/

def hend (op : Op) (x : Ext) (len : Nat) (s : State) : Res :=
  frame op x s fun c =>
    if c.m = 0 then c.done len c.w.r
    else match c.w.sprout with
    | none => c.trapIn cIllegal 0 wholeWarp 0
    | some p =>
      let rec' := ((c.s.warp? p.owner).map (·.r.recr)).getD Recr.none
      let rop := ropOf c.x
      if rop.1 ≠ 0 && rop ≠ (rec'.rop, rec'.fl, rec'.sgn) then c.trapIn cIllegal 0 (lowest c.w.r.mask) 0
      else if !c.w.settled then .next (c.s.hold' c.k)
      else
        let v (l : Nat) : Option FReg :=
          if rop.1 = 0 then none
          else if rop.2.1 then some (FReg.ofRaw (if c.x.fzi then (c.iv l c.x.a).write .fp32 else c.flt l c.x.a))
          else some ⟨(c.i32 l c.x.a).zeroExtend 64, 0⟩
        .next (c.s.hendThreads c.k c.w c.m len v)

/-! ### HJOIN (R453) -/

/-- The identity of a reduction without a contribution. -/
def Recr.identity (c : Recr) : FReg :=
  if c.fl then
    (if c.rop = 1 then FReg.zero else FReg.ofRaw ((Iv.empty).write .fp32))
  else match c.rop with
    | 2 => ⟨if c.sgn then 0x7fffffff else 0xffffffff, 0⟩
    | 3 => ⟨if c.sgn then 0x80000000 else 0, 0⟩
    | _ => ⟨0, 0⟩

/-- The value HJOIN writes. -/
def Recr.value (c : Recr) : FReg := if c.accFlag then ⟨c.acc, c.accDec⟩ else c.identity

/-- The registers that HJOIN will write: empty while it waits (R176, R453). -/
def Cx.joinMarks (c : Cx) : List Dest :=
  ((writesOf c.op (c.w.named c.op c.x)).filter (· ≠ (.p, 15))).map fun p => ⟨p.1, p.2, if p.1 = .s then 0 else c.w.r.recr.lane⟩

def hjoin (op : Op) (x : Ext) (len : Nat) (s : State) : Res :=
  frame op x s fun c =>
    let rec' := c.w.r.recr
    let zeroD : Bool := match c.x.d with
      | .reg n => n = 0
      | _ => true
    if c.m = 0 then c.done len c.w.r
    else if c.w.sprout.isSome then c.trapIn cIllegal 0 wholeWarp 0
    else if rec'.state = 0 || !c.m.getLsbD rec'.lane || (c.x.m 3 1 = 1) ≠ rec'.fl || (rec'.rop = 0 && !zeroD) then c.trapIn cIllegal 0 wholeWarp 0
    else if rec'.state = 1 || c.w.release ≠ 0 then .next (c.s.stall c.k (.hjoin c.joinMarks))
    else if rec'.fault ≠ 0 then
      let r := { c.w.r with hfault := rec'.fault, recr := { rec' with fault := 0, faddr := 0 } }
      c.s.precise c.k { c.w with r := r, wait := .none } cHelper 0 0 rec'.lane rec'.faddr
    else if !((c.s.sproutsOf c.k).all fun p => c.s.fenceHolds p.2 0) then .next (c.s.stall c.k (.hjoin c.joinMarks))
    else
      let w := c.s.joinSprouts c.k c.w
      let base := match c.x.a with
        | .s n => n.val
        | _ => 0
      let r := (List.range 16).foldl (fun r i => r.setS c.nS (base + i) (rec'.done.extractLsb' (32 * i) 32)) w.r
      let v := if rec'.fl && c.x.fzo then FReg.ofRaw (((rec'.value.raw.read .fp32).flush .fp32 true).write .fp32) else rec'.value
      let r := if rec'.rop = 0 then r
        else match c.x.d with
          | .reg n => if rec'.fl then r.setF n.toNat rec'.lane v else r.setV n.toNat rec'.lane (loWord v.bits)
          | _ => r
      let r := (putE rec'.lane c.x.e (Tri.ofBool (rec'.state = 2)) r).written (bitMask rec'.lane) op (c.w.named op c.x)
      let r := { r with recr := Recr.none }
      (c.s.dropWarps (ofOwner c.k)).done c.k { w with wait := .none } r len

/-- Recruits sprouts from idle threads, or refuses with a code (R444). -/
def execRecruit (x : Ext) (s : State) : Res :=
  recruit .recruit x (extLen x) s

/-- Ends the sprouts that take part, with their contributions (R448). -/
def execHend (x : Ext) (s : State) : Res :=
  hend .hend x (extLen x) s

/-- Waits for a recruitment and takes its results (R453). -/
def execHjoin (x : Ext) (s : State) : Res :=
  hjoin .hjoin x (extLen x) s

/-! ### Budget and release (R452) -/

/-- The sprout warp has run its budget. -/
def State.overBudget (s : State) (k : WarpKey) (w : Warp) : Bool :=
  match w.sprout with
  | some p => p.first.any fun t => t + s.cyclesNs w.die (s.header k).hbudget ≤ s.now
  | none => false

/-- A sprout warp reaches HBUDGET cycles and the recruitment is released (R452). -/
def execSproutBudgetExpire (s : State) : Res :=
  match s.warp? s.arg.w with
  | some w =>
    (match w.sprout with
      | some p => .next (if !s.dieDown w.die && w.r.live ≠ 0 && s.overBudget s.arg.w w then s.releaseOf p.owner false else s)
      | none => .next s)
  | none => .next s

/-- Once the sprouts' writes meet the .team conditions, STATE becomes RELEASED (R452). -/
def execRecruitmentReleaseDone (s : State) : Res :=
  match s.warp? s.arg.w with
  | some w => .next (if !s.dieDown w.die && w.release ≠ 0 && s.releaseHolds s.arg.w then (s.releaseDone s.arg.w).tryLeave s.arg.w.teamKey else s)
  | none => .next s

end Sys2Proof.Machine
end

