-- ==== Sys2Proof/Machine/System.lean ====
section
/-! DEFINITION. TRAP and the system instructions, opcodes 0x10 and 0xf0 to 0xf9 (R28, R52, R470 to R475). -/

namespace Sys2Proof.Machine

/-! ### TRAP -/

/-- TRAP takes SWTRAP after itself. -/
def trapInstr (op : Op) (x : Ext) (len : Nat) (s : State) : Res :=
  noSprout op x s fun c =>
    if c.m = 0 then c.done len c.w.r
    else if !c.w.settled then .next (c.s.hold' c.k)
    else
      let l := lowest c.m
      let v := c.i32 l x.a
      let r := { c.w.r with pc := c.w.r.pc + BitVec.ofNat 64 len }
      .next (c.s.trap c.k { c.w with r := r } ⟨cSwtrap, v.toNat % 256, 0, l, v.zeroExtend 64, r.pc, true, false, false⟩)

/-! ### Special registers (R175, R317, R459) -/

/-- The upper half of a special register that `.64` reads. -/
def upperHalf : SReg → SReg
  | .tc => .tchi
  | .faddr => .faddrhi
  | .lpc => .lpchi
  | r => r

def srd (op : Op) (x : Ext) (len : Nat) (s : State) : Res :=
  frame op x s fun c =>
    match x.a with
    | .sr q =>
      let wide : Bool := x.m 0 1 = 1
      c.done len (c.putVS (if wide then 2 else 1) (fun l => pair (c.s.readSReg c.k c.w l q) (if wide then c.s.readSReg c.k c.w l (upperHalf q) else 0)) c.w.r)
    | _ => c.trapIn cIllegal 0 wholeWarp 0

/-- A write of ABORT, the one bit of %tstat that SWR changes. -/
def writeTstat (old v : Word) : Word := old &&& ~~~0x100 ||| v &&& 0x100

/-- What SWR does to the warp. -/
def Warp.writeSReg (w : Warp) (q : SReg) (wide : Bool) (v : DWord) : Warp :=
  match q with
  | .mrp =>
    if loWord v = 0 then (let w := w.takeStops; { w with r := { w.r with mrecs := [] } }) else w
  | .tstat => { w with r := { w.r with tstat := writeTstat w.r.tstat (loWord v) } }
  | .lpc => { w with r := { w.r with lpc := if wide then v else pair (loWord v) (hiWord w.r.lpc) } }
  | .lpchi => { w with r := { w.r with lpc := pair (loWord w.r.lpc) (loWord v) } }
  | _ => w

def swr (op : Op) (x : Ext) (len : Nat) (s : State) : Res :=
  frame op x s fun c =>
    match x.d with
    | .sr q =>
      if c.m = 0 then c.done len c.w.r
      else if q ∉ [SReg.mrp, .tstat, .lpc, .lpchi] || (q ≠ .mrp && !c.w.r.tmode) then c.trapIn cIllegal 0 wholeWarp 0
      else
        let n := if x.m 0 1 = 1 then 2 else 1
        let w := c.w.writeSReg q (n = 2) (c.int n (lowest c.m) x.a)
        c.s.done c.k w w.r len
    | _ => c.trapIn cIllegal 0 wholeWarp 0

/-! ### TOPO (R9, R11, R22, R28) -/

/-- The memory site at coordinates, if they lie on the panel. -/
def siteNum (x y : Int) : Option Nat :=
  if x < 0 || y < 0 || 15 < x || 15 < y then none else (List.range 128).find? fun n => siteAt n = (x.toNat, y.toNat)

def noTopo : Nat := 0xffffffff

/-- The word of R28. The current E is the executing die's: where a change of E is under way, units may differ (DESIGN CHOICE,
log 87). -/
def State.topo (s : State) (die q : Nat) : Nat :=
  let code := q % 256
  let arg := q / 256 % 2 ^ 24
  let here := dieAt die
  let near (dx dy : Int) : Nat := (siteNum ((here.1 : Int) + dx) ((here.2 : Int) + dy)).getD noTopo
  match code with
  | 0 => die
  | 1 => here.1 + here.2 * 16
  | 2 => s.coresPerDie / 4
  | 3 => s.coresPerDie
  | 4 => if s.gradeB then 1 else 0
  | 5 => ((List.range 128).filter s.panel.inService).length
  | 6 => near 0 (-1)
  | 7 => near 1 0
  | 8 => near 0 1
  | 9 => near (-1) 0
  | 10 => if 127 < arg then noTopo else hopCount die (128 + arg)
  | 11 => (s.panel.ringAt die 1).getD die
  | 12 => (if s.panel.reduced then 1 else 0) + s.eAt die % 256 * 256
  | 13 => if 127 < arg then noTopo else if s.panel.inService arg then 1 else 0
  | _ => noTopo

def topo (op : Op) (x : Ext) (len : Nat) (s : State) : Res :=
  frame op x s fun c => c.done len (c.putVS 1 (fun l => BitVec.ofNat 64 (c.s.topo c.w.die (c.i32 l x.a).toNat)) c.w.r)

/-! ### TIME and PERF -/

def time (op : Op) (x : Ext) (len : Nat) (s : State) : Res :=
  frame op x s fun c => c.done len (if c.m = 0 then c.w.r else c.putVS 2 (fun _ => BitVec.ofNat 64 (c.s.tcAt c.w.die)) c.w.r)

/-- The counter a PERF query names: offset in service space. -/
def perfOffset (w : Warp) (q : Nat) : Option Nat :=
  let i := q / 16 % 16
  match q % 16 with
  | 0 => if i < 4 then some (dieBlock w.die + 0x40000 + 64 * w.core + 16 * i) else none
  | 1 => if i < 2 then some (dieBlock w.die + 0x60000 + 32 * (w.core / 4) + 16 * i) else none
  | 2 => if i < 8 then some (dieBlock w.die + 0x100 + 16 * i) else none
  | 3 => if i < 8 then some (siteBlock (q / 256 % 128) + 0x100 + 16 * i) else none
  | _ => none

def State.perfValue (s : State) (w : Warp) (q : Nat) : DWord :=
  match perfOffset w q with
  | none => BitVec.allOnes 64
  | some o => if s.reg (o + 8) / 2 ^ 31 % 2 = 1 then BitVec.ofNat 64 (s.reg o) else 0

def perf (op : Op) (x : Ext) (len : Nat) (s : State) : Res :=
  frame op x s fun c => c.done len (c.putVS 2 (fun l => c.s.perfValue c.w (c.i32 l x.a).toNat) c.w.r)

/-! ### RTE (R318, R464, R471) -/

/-- An instruction that only trap mode has. -/
def trapOnly (op : Op) (x : Ext) (s : State) (body : Cx → Res) : Res :=
  frame op x s fun c => if c.m ≠ 0 && (c.w.sprout.isSome || !c.w.r.tmode) then c.trapIn cIllegal 0 wholeWarp 0 else body c

def rte (op : Op) (x : Ext) (s : State) : Res :=
  trapOnly op x s fun c =>
    let preempted : Bool := c.w.r.fcause.toNat % 256 = 14
    let abort := c.w.r.tstat.getLsbD 8
    if preempted || abort then
      if !c.w.quiet then .next (c.s.hold' c.k)
      else if !c.s.fenceHolds c.w (if preempted then 3 else 4) then .next (c.s.stall c.k (.fence (if preempted then 3 else 4)))
      else if preempted then .next ((c.s.setWarp c.k { c.w with parked := true, active := false, wait := .none }).tryLeave c.k.teamKey)
      else .next (c.s.endGrid c.k.grid 17)
    else
      let s := c.s.matReplay c.k 4
      match s.warp? c.k with
      | none => .next s
      | some w => .next (if w.r.mrecs ≠ [] then s.hold' c.k else s.leaveTrap c.k w)

/-! ### CSAVE and CLOAD (R472) -/

/-- Line-sized parts of a byte range: address, offset, bytes. -/
def lineParts (va n : Nat) : List (Nat × Nat × Nat) :=
  (vlines va n).map fun l =>
    let lo := max va (l * 128)
    (lo, lo - va, min (va + n) (l * 128 + 128) - lo)

/-- The barrier image waits for the team's warps to be in trap mode and its started copies to land. -/
def State.barHeld (s : State) (t : TeamKey) : Bool := s.copying t || (s.liveWarps t).any fun p => !p.2.r.tmode

/-- The frame of the two: the address, the kind, the first register and the count. -/
def contextFrame (op : Op) (x : Ext) (len : Nat) (s : State) (body : Cx → Nat → Nat → Nat → Nat → Res) : Res :=
  trapOnly op x s fun c =>
    let kind := x.m 0 3
    let first := if kind ≤ 2 then c.uni32 x.b else 0
    let count := if kind ≤ 2 then c.uni32 x.c else 0
    let va := c.uni64 x.a
    if c.m = 0 then c.done len c.w.r
    else if !rangeOk (c.s.header c.k) true kind first count then c.trapIn cAlloc 0 wholeWarp 0
    else if va % 16 ≠ 0 then c.trapIn cMisalign 0 wholeWarp (BitVec.ofNat 64 va)
    else if kind ≤ 2 && count = 0 then c.done len c.w.r
    else if 2 ^ 56 < va + imageSize (c.s.header c.k) kind count then c.trapIn cProt 6 wholeWarp (BitVec.ofNat 64 va)
    else if kind = 5 && c.s.barHeld c.k.teamKey then .next (c.s.hold' c.k)
    else body c kind first count va

/-- Send an image as stores of the warp, one request a line. -/
def Cx.sendImage (c : Cx) (id v : Nat) (s : State) : List ((Nat × Nat × Nat) × Nat) → List (Nat × Bool) → State × List (Nat × Bool)
  | [], as => (s, as)
  | (p, pa) :: rest, as =>
    let tag := s.nextId
    let line := lineOf pa
    let s := (s.l1Drop c.w.die c.w.core line).request c.w.die c.w.core
      { id := 0, ty := .storeReq, src := 0, dst := 0, addr := lineAddr line, mask := byteMask (pa % 128) p.2.2,
        data := BitVec.ofNat 1024 (imageField v p.2.1 p.2.2 * 256 ^ (pa % 128)) }
      (Req.of line 0 false [.out c.k id])
    c.sendImage id v s rest (as ++ [(tag, isCompanion (lineAddr line))])

def csave (op : Op) (x : Ext) (len : Nat) (s : State) : Res :=
  contextFrame op x len s fun c kind first count va =>
    let h := c.s.header c.k
    let ps := lineParts va (imageSize h kind count)
    if !c.mayStart .kg false || c.w.empties ≠ [] then .next (c.s.hold' c.k)
    else match c.flushPas (c.s.asidOf c.k) c.s (ps.map fun p => (0, p.1)) [] with
      | .error r => r
      | .ok (s, pas) =>
        if !s.canSend c.k c.w ps.length then .next (s.holdIssue c.k)
        else if s.imageBad c.k c.w kind first count then (if kind = 4 then .next (s.endGrid c.k.grid 17) else s.precise c.k c.w cEcc 0 0 wholeWarp 0)
        else
          let v := match c.s.team? c.k.teamKey with
            | some t => c.w.image h t kind first count
            | none => 0
          let id := s.nextId
          let (s, as) := c.sendImage id v { s with nextId := id + 1 } (ps.zip (pas.map (·.2))) []
          .next (s.addOut c.k { c.newOut s .flush .kg [] [] false false with id := id, acks := as } len .none)

/-- The pipe that reads a context image. -/
def Cx.imagePipe (c : Cx) : Pipe := ⟨.stream c.k 8, c.k, c.w, kLoad, c.w.agent, c.w.core / 4⟩

/-- Ask for every line that is missing, until a walk or a page stands in the way. -/
def State.imageAsk (s : State) (p : Pipe) (va size : Nat) : Nat → State × Asked
  | 0 => (s, .going)
  | fuel + 1 =>
    if (vlines va size).all fun l => (s.lookAt p.reader l).isSome then (s, .going)
    else match s.lookAsk p va size with
      | (s, .going) => s.imageAsk p va size fuel
      | r => r

/-- The latest perform time of the lines that a reader has read. -/
def State.looksW (s : State) (r : Reader) : Nat :=
  s.looks.foldl (fun n l => if l.reader = r then max n ((l.got.map (·.w)).getD 0) else n) 0

/-- The image has come: registers are filled, or the team's barrier registers. -/
def Cx.loaded (c : Cx) (len kind first count img : Nat) : Res :=
  let h := c.s.header c.k
  if kind = 4 && hwBad h img then c.trapIn cIllegal 0 wholeWarp 0
  else
    let rd : Reader := .stream c.k 8
    let r := (c.w.r.raiseAll (fullMask c.w.width) (c.s.looksW rd)).loadImage h kind first count img
    let s := c.s.dropLooks rd
    let s := if kind = 5 then s.modTeam c.k.teamKey fun t => t.loadBar img else if kind = 4 then s.spillOut c.k c.w 0 r.stack else s
    s.done c.k c.w (if kind ≤ 1 then r.tagged (fullMask c.w.width) false ((List.range count).map fun i => (if kind = 0 then File.v else .f, first + i)) else r) len

def cload (op : Op) (x : Ext) (len : Nat) (s : State) : Res :=
  contextFrame op x len s fun c kind first count va =>
    let n := imageSize (c.s.header c.k) kind count
    let p := c.imagePipe
    if !c.w.quiet then .next (c.s.hold' c.k)
    else match c.s.lookBytes p.reader va n with
      | .val img => c.loaded len kind first count img
      | .bad cause d => (c.s.dropLooks p.reader).precise c.k c.w cause d 0 wholeWarp (BitVec.ofNat 64 va)
      | .need => match c.s.imageAsk p va n (n / 128 + 2) with
        | (s, .going) => .next (s.hold' c.k)
        | (s, .walk id) => .next (s.stall c.k (.walk id wholeWarp (BitVec.ofNat 64 va)))
        | (s, .page fl) => .next (s.stall c.k (.page fl wholeWarp (BitVec.ofNat 64 va)))
        | (s, .bad cause d fl) => ((s.spent fl).dropLooks p.reader).precise c.k c.w cause d 0 wholeWarp (BitVec.ofNat 64 va)

/-! ### RGNCLR (R475) -/

/-- A page that RGNCLR skips, because its fault was declined. -/
def State.skipsPage (s : State) (k : WarpKey) (page : Nat) : Bool := s.unitWaits.contains ⟨0, .rgn k (page * 2 ^ 16)⟩

/-- The pages of the range that translate, with their bases; none while one is still waited for. -/
def State.rgnPages (s : State) (k : WarpKey) (w : Warp) : List Nat → List (Nat × Nat) → State × Option (List (Nat × Nat))
  | [], acc => (s, some acc)
  | p :: ps, acc =>
    if s.skipsPage k p then s.rgnPages k w ps acc
    else match s.unitReach w.die (s.asidOf k) kLoad (p * 2 ^ 16) (.rgn k (p * 2 ^ 16)) with
      | (s, .at pa) => s.rgnPages k w ps ((p, pa) :: acc)
      | (s, .wait) => (s, none)
      | (s, .declined) => ({ s with unitWaits := s.unitWaits ++ [(⟨0, .rgn k (p * 2 ^ 16)⟩ : UnitWait)] }).rgnPages k w ps acc

/-- The page's translation permits writes. -/
def State.writable (s : State) (die asid va : Nat) : Bool := s.tlbs.any fun t => t.hits 2 die 0 asid va && t.w

/-- The pages that a finished RGNCLR skipped are forgotten. -/
def State.dropRgn (s : State) (k : WarpKey) : State :=
  { s with unitWaits := s.unitWaits.filter fun (u : UnitWait) => match u.use with
      | .rgn j _ => j ≠ k
      | _ => true }

/-- Send one clear request. -/
def State.sendClear (s : State) (w : Warp) (a : Nat) : State :=
  s.post { id := 0, ty := .lostClear, tag := s.nextId, src := w.die, dst := s.homeOf a, agent := w.agent, inc := s.incOf w.agent, addr := a }

def rgnclr (op : Op) (x : Ext) (len : Nat) (s : State) : Res :=
  trapOnly op x s fun c =>
    let va := c.uni64 x.a
    let n := c.uni32 x.b
    let out (s : State) (v : Nat) : Res :=
      s.done c.k { c.w with wait := .none } ((c.putInt 1 (lowest c.m) x.d (BitVec.ofNat 64 v) c.w.r).written c.m op x) len
    if c.m = 0 then c.done len c.w.r
    else match c.w.wait with
      | .rgnclr [] v => out c.s v
      | .rgnclr _ _ => .next c.s
      | _ =>
        if va % 128 ≠ 0 then c.trapIn cMisalign 0 wholeWarp (BitVec.ofNat 64 va)
        else if n = 0 || 4096 < n then c.trapIn cAlloc 0 wholeWarp 0
        else if 2 ^ 56 < va + 128 * n then c.trapIn cProt 6 wholeWarp (BitVec.ofNat 64 (max va (2 ^ 56)))
        else if !c.w.settled then .next (c.s.hold' c.k)
        else match c.s.rgnPages c.k c.w (pagesOf va (128 * n)) [] with
          | (s, none) => .next (s.hold' c.k)
          | (s, some pas) =>
            let asid := c.s.asidOf c.k
            let lines := ((List.range n).map fun i => va + 128 * i).filter fun a => (pas.any fun p => p.1 = a / 2 ^ 16) && s.writable c.w.die asid a
            let s := s.dropRgn c.k
            if lines = [] then out s 0
            else
              let tags := (List.range lines.length).map (s.nextId + ·)
              .next ((lines.foldl (fun s a => s.sendClear c.w (pagePa pas a)) s).stall c.k (.rgnclr tags 0))

/-! ### TLBINV (R52, R475) -/

def tlbinv (op : Op) (x : Ext) (len : Nat) (s : State) : Res :=
  noSprout op x s fun c =>
    if c.m = 0 then c.done len c.w.r
    else match c.w.wait with
      | .inval 0 => c.s.done c.k { c.w with wait := .none } c.w.r len
      | .inval _ => .next c.s
      | _ =>
        if !c.w.settled then .next (c.s.hold' c.k)
        else
          let (s, id) := c.s.startInval (some c.k) c.w.die c.w.agent (c.s.asidOf c.k) (x.m 0 2) (c.uni64 x.a) (c.uni32 x.b * 2 ^ 16)
          .next (s.stall c.k (.inval id))

/-! ### The instructions -/

/-- Takes SWTRAP after the instruction (R471). -/
def execTrap (a : BitVec 7) (s : State) : Res :=
  trapInstr .trap (Ext.base .trap false 0 a 0) 4 s

/-- Extended-form TRAP (R471). -/
def execTrapX (x : Ext) (s : State) : Res :=
  trapInstr .trap x (extLen x) s

/-- Reads a special register (R471). -/
def execSrd (x : Ext) (s : State) : Res :=
  srd .srd x (extLen x) s

/-- Writes a special register (R175, R471). -/
def execSwr (x : Ext) (s : State) : Res :=
  swr .swr x (extLen x) s

/-- Reads a word about the panel (R28). -/
def execTopo (a d : BitVec 7) (s : State) : Res :=
  topo .topo (Ext.base .topo false 0 a d) 4 s

/-- Extended-form TOPO (R28). -/
def execTopoX (x : Ext) (s : State) : Res :=
  topo .topo x (extLen x) s

/-- Reads the die's TC replica (R471). -/
def execTime (d : BitVec 7) (s : State) : Res :=
  time .time (Ext.base .time false 0 0 d) 4 s

/-- Extended-form TIME (R471). -/
def execTimeX (x : Ext) (s : State) : Res :=
  time .time x (extLen x) s

/-- Reads an event counter (R471). -/
def execPerf (x : Ext) (s : State) : Res :=
  perf .perf x (extLen x) s

/-- Leaves the trap handler, parks the warp, or ends the grid (R471). -/
def execRte (s : State) : Res :=
  rte .rte (Ext.base .rte false 0 0 0) s

/-- Extended-form RTE (R471). -/
def execRteX (s : State) : Res :=
  rte .rte Ext.fixed s

/-- Writes a context image (R472). -/
def execCsave (x : Ext) (s : State) : Res :=
  csave .csave x (extLen x) s

/-- Reads a context image (R472). -/
def execCload (x : Ext) (s : State) : Res :=
  cload .cload x (extLen x) s

/-- Clears the LOST flags of a range of lines (R475). -/
def execRgnclr (x : Ext) (s : State) : Res :=
  rgnclr .rgnclr x (extLen x) s

/-- Invalidates translations of the launch's ASID on every die in service (R475). -/
def execTlbinv (x : Ext) (s : State) : Res :=
  tlbinv .tlbinv x (extLen x) s

end Sys2Proof.Machine
end

