-- ==== Sys2Proof/Machine/Warpwide.lean ====
section
/-! DEFINITION. The warp-wide instructions, opcodes 0xe0 to 0xe5 (R385 to R390). -/

namespace Sys2Proof.Machine

/-- The member mask that C names, without bits at or above the width (R385). -/
def Cx.members (c : Cx) : Mask :=
  fullMask c.w.width &&& match c.x.c with
    | .s n => c.w.r.getS c.nS (n.val + 3) ++ c.w.r.getS c.nS (n.val + 2) ++ c.w.r.getS c.nS (n.val + 1) ++ c.w.r.getS c.nS n.val
    | _ => BitVec.allOnes 128

/-- Validity where invalid members are left out. -/
def Cx.allValid (c : Cx) : Tri := Tri.ofBool (c.members &&& ~~~c.m = 0)

/-- A warp-wide instruction: the MASK check, then a result for each taking-part thread with its validity; every source
is read before anything is written (R385). -/
def warpWide (op : Op) (x : Ext) (len : Nat) (s : State) (f : Cx → Nat → (Regs → Regs) × Tri) : Res :=
  frame op x s fun c =>
    let out := c.m &&& ~~~c.members
    if out ≠ 0 then c.trapIn cMask 0 (lowest out) 0
    else c.done len (((lanesOf c.m).map fun l => (l, f c l)).foldl (fun r p => putE p.1 c.x.e p.2.2 (p.2.1 r)) c.w.r)

/-- VOTE's result over the valid members (R387). -/
def voteTri (o : Nat) (xs : List Tri) : Tri :=
  match o with
  | 0 => xs.foldl Tri.and Tri.tt
  | 1 => xs.foldl Tri.or Tri.ff
  | _ => match xs with
    | [] => Tri.tt
    | x :: rest => Tri.ofBool (rest.all (· = x))

/-- A ballot's word (R387). -/
def Cx.ballot (c : Cx) (what : Tri) : Word :=
  let win := c.x.imm.toNat % 4
  BitVec.ofNat 32 ((List.range 32).foldl (fun n i =>
    let l := 32 * win + i
    if l < c.w.width && c.m.getLsbD l && c.pred l c.x.a = what then n + 2 ^ i else n) 0)

def vote (op : Op) (x : Ext) (len : Nat) (s : State) : Res :=
  warpWide op x len s fun c l =>
    let o := x.m 0 3
    let r : Regs → Regs :=
      if o ≤ 2 then putP l x.d (voteTri o ((lanesOf c.m).map fun i => c.pred i x.a))
      else c.putInt 1 l x.d ((c.ballot (if o = 3 then Tri.tt else Tri.und)).zeroExtend 64)
    (r, c.allValid)

/-- The lane SHFL reads, when it is a valid member (R385, R388). -/
def Cx.source (c : Cx) (lane : Nat) : Option Nat :=
  let b := (c.i32 lane c.x.b).toNat
  let i : Option Nat := match c.x.m 4 2 with
    | 0 => some b
    | 1 => if b ≤ lane then some (lane - b) else none
    | 2 => some (lane + b)
    | _ => some (lane ^^^ b)
  i.filter fun i => i < c.w.width && c.m.getLsbD i && c.members.getLsbD i

def shfl (fl : Bool) (op : Op) (x : Ext) (len : Nat) (s : State) : Res :=
  warpWide op x len s fun c l =>
    let from' := c.source l
    let i := from'.getD l
    let n := tyN x.ty
    (if fl then putF l x.d ((c.flt i x.a).moved false false) else c.putInt n l x.d (c.int n i x.a), Tri.ofBool from'.isSome)

/-- MATCH (R389). -/
def matchLanes (op : Op) (x : Ext) (len : Nat) (s : State) : Res :=
  warpWide op x len s fun c l =>
    let n := tyN x.ty
    let same := (lanesOf c.m).filter fun i => c.int n i x.a = c.int n l x.a
    (c.putInt n l x.d (BitVec.ofNat 64 (same.length + (same.head?).getD 0 * 2 ^ 16)), c.allValid)

/-- Integer identity of a combination (R390). -/
def redIdentity (o : Nat) (sgn : Bool) (w : Nat) : Nat :=
  match o with
  | 1 => if sgn then 2 ^ (w - 1) - 1 else 2 ^ w - 1
  | 2 => if sgn then 2 ^ (w - 1) else 0
  | 3 => 2 ^ w - 1
  | _ => 0

/-- One float combination, as a stored pair. -/
def redFloat (o : Nat) (x y : Raw) : Raw :=
  let a := x.read .fp32; let b := y.read .fp32
  (match o with
    | 0 => Iv.add .fp32 a b
    | 1 => Iv.imin a b
    | 2 => Iv.imax a b
    | _ => Iv.hull a b).write .fp32

/-- The combination of A over lanes, in ascending order (R390). -/
def Cx.combine (c : Cx) (lane : Nat) (ls : List Nat) : Regs → Regs :=
  let x := c.x
  let o := x.m 4 4
  if x.m 8 1 = 1 then
    match ls with
    | [] => putF lane x.d ((Iv.mk Pt.zero Pt.zero Dec.com).write .fp32)
    | i :: rest => putF lane x.d (rest.foldl (fun v j => redFloat o v (c.flt j x.a)) (((c.flt i x.a).read .fp32).write .fp32))
  else
    let n := tyN x.ty
    let w := 32 * n
    c.putInt n lane x.d (BitVec.ofNat 64 (ls.foldl (fun v j => atomInt o (tySigned x.ty) w v (c.int n j x.a).toNat) (redIdentity o (tySigned x.ty) w)))

def redux (op : Op) (x : Ext) (len : Nat) (s : State) : Res :=
  warpWide op x len s fun c l => (c.combine l (lanesOf c.m), c.allValid)

def scan (op : Op) (x : Ext) (len : Nat) (s : State) : Res :=
  warpWide op x len s fun c l => (c.combine l ((lanesOf c.m).filter fun i => if x.m 9 1 = 1 then i < l else i ≤ l), c.allValid)

/-! ### The instructions -/

/-- Warp vote or ballot over predicates (R387). -/
def execVote (x : Ext) (s : State) : Res :=
  vote .vote x (extLen x) s

/-- Integer shuffle between lanes (R388). -/
def execShfl (x : Ext) (s : State) : Res :=
  shfl false .shfl x (extLen x) s

/-- Interval shuffle between lanes (R388). -/
def execFshfl (x : Ext) (s : State) : Res :=
  shfl true .fshfl x (extLen x) s

/-- Counts equal values and gives each group's leader (R389). -/
def execMatchV (x : Ext) (s : State) : Res :=
  matchLanes .matchV x (extLen x) s

/-- Warp-wide reduction (R390). -/
def execRedux (x : Ext) (s : State) : Res :=
  redux .redux x (extLen x) s

/-- Warp-wide prefix scan (R390). -/
def execScan (x : Ext) (s : State) : Res :=
  scan .scan x (extLen x) s

end Sys2Proof.Machine
end

