-- ==== Sys2Proof/Machine/Dispatch.lean ====
section
/-! DEFINITION. The meaning of every instruction and step: one arm per constructor. -/

namespace Sys2Proof.Machine

def exec (i : Instr) (s : State) : Host.Outcome State Fault Refusal :=
  match i with
  | .nop => Sys2Proof.Machine.execNop s
  | .nopX x => Sys2Proof.Machine.execNopX x s
  | .bra j => Sys2Proof.Machine.execBra j s
  | .braX j g gs => Sys2Proof.Machine.execBraX j g gs s
  | .brc c tC lit => Sys2Proof.Machine.execBrc c tC lit s
  | .brm p3 p2 p1 p0 jn lit => Sys2Proof.Machine.execBrm p3 p2 p1 p0 jn lit s
  | .join => Sys2Proof.Machine.execJoin s
  | .joinX => Sys2Proof.Machine.execJoinX s
  | .call j => Sys2Proof.Machine.execCall j s
  | .callX j g gs => Sys2Proof.Machine.execCallX j g gs s
  | .ret => Sys2Proof.Machine.execRet s
  | .retX => Sys2Proof.Machine.execRetX s
  | .jmpx a => Sys2Proof.Machine.execJmpx a s
  | .jmpxX x => Sys2Proof.Machine.execJmpxX x s
  | .exit => Sys2Proof.Machine.execExit s
  | .exitX x => Sys2Proof.Machine.execExitX x s
  | .barsync => Sys2Proof.Machine.execBarsync s
  | .barsyncX x => Sys2Proof.Machine.execBarsyncX x s
  | .waitk x => Sys2Proof.Machine.execWaitk x s
  | .waitm x => Sys2Proof.Machine.execWaitm x s
  | .yield => Sys2Proof.Machine.execYield s
  | .yieldX x => Sys2Proof.Machine.execYieldX x s
  | .sleep a => Sys2Proof.Machine.execSleep a s
  | .sleepX x => Sys2Proof.Machine.execSleepX x s
  | .brkpt => Sys2Proof.Machine.execBrkpt s
  | .brkptX => Sys2Proof.Machine.execBrkptX s
  | .trap a => Sys2Proof.Machine.execTrap a s
  | .trapX x => Sys2Proof.Machine.execTrapX x s
  | .split x => Sys2Proof.Machine.execSplit x s
  | .spawn x => Sys2Proof.Machine.execSpawn x s
  | .poolq a d => Sys2Proof.Machine.execPoolq a d s
  | .poolqX x => Sys2Proof.Machine.execPoolqX x s
  | .recruit x => Sys2Proof.Machine.execRecruit x s
  | .hend x => Sys2Proof.Machine.execHend x s
  | .hjoin x => Sys2Proof.Machine.execHjoin x s
  | .iadd u b a d => Sys2Proof.Machine.execIadd u b a d s
  | .iaddX x => Sys2Proof.Machine.execIaddX x s
  | .isub u b a d => Sys2Proof.Machine.execIsub u b a d s
  | .isubX x => Sys2Proof.Machine.execIsubX x s
  | .imul u b a d => Sys2Proof.Machine.execImul u b a d s
  | .imulX x => Sys2Proof.Machine.execImulX x s
  | .imulh u b a d => Sys2Proof.Machine.execImulh u b a d s
  | .imulhX x => Sys2Proof.Machine.execImulhX x s
  | .imad u b a d => Sys2Proof.Machine.execImad u b a d s
  | .imadX x => Sys2Proof.Machine.execImadX x s
  | .idiv u b a d => Sys2Proof.Machine.execIdiv u b a d s
  | .idivX x => Sys2Proof.Machine.execIdivX x s
  | .irem u b a d => Sys2Proof.Machine.execIrem u b a d s
  | .iremX x => Sys2Proof.Machine.execIremX x s
  | .imin u b a d => Sys2Proof.Machine.execImin u b a d s
  | .iminX x => Sys2Proof.Machine.execIminX x s
  | .imax u b a d => Sys2Proof.Machine.execImax u b a d s
  | .imaxX x => Sys2Proof.Machine.execImaxX x s
  | .iabs u a d => Sys2Proof.Machine.execIabs u a d s
  | .iabsX x => Sys2Proof.Machine.execIabsX x s
  | .iand u b a d => Sys2Proof.Machine.execIand u b a d s
  | .iandX x => Sys2Proof.Machine.execIandX x s
  | .ior u b a d => Sys2Proof.Machine.execIor u b a d s
  | .iorX x => Sys2Proof.Machine.execIorX x s
  | .ixor u b a d => Sys2Proof.Machine.execIxor u b a d s
  | .ixorX x => Sys2Proof.Machine.execIxorX x s
  | .inot u a d => Sys2Proof.Machine.execInot u a d s
  | .inotX x => Sys2Proof.Machine.execInotX x s
  | .shl u b a d => Sys2Proof.Machine.execShl u b a d s
  | .shlX x => Sys2Proof.Machine.execShlX x s
  | .shr u b a d => Sys2Proof.Machine.execShr u b a d s
  | .shrX x => Sys2Proof.Machine.execShrX x s
  | .sar u b a d => Sys2Proof.Machine.execSar u b a d s
  | .sarX x => Sys2Proof.Machine.execSarX x s
  | .rot u b a d => Sys2Proof.Machine.execRot u b a d s
  | .rotX x => Sys2Proof.Machine.execRotX x s
  | .bfx u b a d => Sys2Proof.Machine.execBfx u b a d s
  | .bfxX x => Sys2Proof.Machine.execBfxX x s
  | .bfi u b a d => Sys2Proof.Machine.execBfi u b a d s
  | .bfiX x => Sys2Proof.Machine.execBfiX x s
  | .popc u a d => Sys2Proof.Machine.execPopc u a d s
  | .popcX x => Sys2Proof.Machine.execPopcX x s
  | .clz u a d => Sys2Proof.Machine.execClz u a d s
  | .clzX x => Sys2Proof.Machine.execClzX x s
  | .brev u a d => Sys2Proof.Machine.execBrev u a d s
  | .brevX x => Sys2Proof.Machine.execBrevX x s
  | .lea u b a d => Sys2Proof.Machine.execLea u b a d s
  | .leaX x => Sys2Proof.Machine.execLeaX x s
  | .mov u a d => Sys2Proof.Machine.execMov u a d s
  | .movX x => Sys2Proof.Machine.execMovX x s
  | .movl u d lit => Sys2Proof.Machine.execMovl u d lit s
  | .movlX x => Sys2Proof.Machine.execMovlX x s
  | .sel x => Sys2Proof.Machine.execSel x s
  | .icmp x => Sys2Proof.Machine.execIcmp x s
  | .plop x => Sys2Proof.Machine.execPlop x s
  | .pmov x => Sys2Proof.Machine.execPmov x s
  | .cvti u a d => Sys2Proof.Machine.execCvti u a d s
  | .cvtiX x => Sys2Proof.Machine.execCvtiX x s
  | .idot4 u b a d => Sys2Proof.Machine.execIdot4 u b a d s
  | .idot4X x => Sys2Proof.Machine.execIdot4X x s
  | .fadd b a d => Sys2Proof.Machine.execFadd b a d s
  | .faddX x => Sys2Proof.Machine.execFaddX x s
  | .fsub b a d => Sys2Proof.Machine.execFsub b a d s
  | .fsubX x => Sys2Proof.Machine.execFsubX x s
  | .fmul b a d => Sys2Proof.Machine.execFmul b a d s
  | .fmulX x => Sys2Proof.Machine.execFmulX x s
  | .ffma b a d => Sys2Proof.Machine.execFfma b a d s
  | .ffmaX x => Sys2Proof.Machine.execFfmaX x s
  | .fdiv b a d => Sys2Proof.Machine.execFdiv b a d s
  | .fdivX x => Sys2Proof.Machine.execFdivX x s
  | .fsqrt a d => Sys2Proof.Machine.execFsqrt a d s
  | .fsqrtX x => Sys2Proof.Machine.execFsqrtX x s
  | .fsqr a d => Sys2Proof.Machine.execFsqr a d s
  | .fsqrX x => Sys2Proof.Machine.execFsqrX x s
  | .frcp a d => Sys2Proof.Machine.execFrcp a d s
  | .frcpX x => Sys2Proof.Machine.execFrcpX x s
  | .frsqrt a d => Sys2Proof.Machine.execFrsqrt a d s
  | .frsqrtX x => Sys2Proof.Machine.execFrsqrtX x s
  | .fabs a d => Sys2Proof.Machine.execFabs a d s
  | .fabsX x => Sys2Proof.Machine.execFabsX x s
  | .fneg a d => Sys2Proof.Machine.execFneg a d s
  | .fnegX x => Sys2Proof.Machine.execFnegX x s
  | .fmin b a d => Sys2Proof.Machine.execFmin b a d s
  | .fminX x => Sys2Proof.Machine.execFminX x s
  | .fmax b a d => Sys2Proof.Machine.execFmax b a d s
  | .fmaxX x => Sys2Proof.Machine.execFmaxX x s
  | .fhull b a d => Sys2Proof.Machine.execFhull b a d s
  | .fhullX x => Sys2Proof.Machine.execFhullX x s
  | .fisect b a d => Sys2Proof.Machine.execFisect b a d s
  | .fisectX x => Sys2Proof.Machine.execFisectX x s
  | .fmk b a d => Sys2Proof.Machine.execFmk b a d s
  | .fmkX x => Sys2Proof.Machine.execFmkX x s
  | .flo a d => Sys2Proof.Machine.execFlo a d s
  | .floX x => Sys2Proof.Machine.execFloX x s
  | .fhi a d => Sys2Proof.Machine.execFhi a d s
  | .fhiX x => Sys2Proof.Machine.execFhiX x s
  | .fmid a d => Sys2Proof.Machine.execFmid a d s
  | .fmidX x => Sys2Proof.Machine.execFmidX x s
  | .frad a d => Sys2Proof.Machine.execFrad a d s
  | .fradX x => Sys2Proof.Machine.execFradX x s
  | .fwid a d => Sys2Proof.Machine.execFwid a d s
  | .fwidX x => Sys2Proof.Machine.execFwidX x s
  | .fmig a d => Sys2Proof.Machine.execFmig a d s
  | .fmigX x => Sys2Proof.Machine.execFmigX x s
  | .fmag a d => Sys2Proof.Machine.execFmag a d s
  | .fmagX x => Sys2Proof.Machine.execFmagX x s
  | .fbis x => Sys2Proof.Machine.execFbis x s
  | .fcmp x => Sys2Proof.Machine.execFcmp x s
  | .fset x => Sys2Proof.Machine.execFset x s
  | .fclass a d => Sys2Proof.Machine.execFclass a d s
  | .fclassX x => Sys2Proof.Machine.execFclassX x s
  | .fdec a d => Sys2Proof.Machine.execFdec a d s
  | .fdecX x => Sys2Proof.Machine.execFdecX x s
  | .fcvt a d => Sys2Proof.Machine.execFcvt a d s
  | .fcvtX x => Sys2Proof.Machine.execFcvtX x s
  | .fcvti a d => Sys2Proof.Machine.execFcvti a d s
  | .fcvtiX x => Sys2Proof.Machine.execFcvtiX x s
  | .fpown b a d => Sys2Proof.Machine.execFpown b a d s
  | .fpownX x => Sys2Proof.Machine.execFpownX x s
  | .fldexp b a d => Sys2Proof.Machine.execFldexp b a d s
  | .fldexpX x => Sys2Proof.Machine.execFldexpX x s
  | .fmov a d => Sys2Proof.Machine.execFmov a d s
  | .fmovX x => Sys2Proof.Machine.execFmovX x s
  | .fsel x => Sys2Proof.Machine.execFsel x s
  | .fmovl d lit => Sys2Proof.Machine.execFmovl d lit s
  | .fmovlX x => Sys2Proof.Machine.execFmovlX x s
  | .rmax x => Sys2Proof.Machine.execRmax x s
  | .rsum x => Sys2Proof.Machine.execRsum x s
  | .rstat x => Sys2Proof.Machine.execRstat x s
  | .smxu x => Sys2Proof.Machine.execSmxu x s
  | .smxa x => Sys2Proof.Machine.execSmxa x s
  | .rnorm x => Sys2Proof.Machine.execRnorm x s
  | .dadd b a d => Sys2Proof.Machine.execDadd b a d s
  | .daddX x => Sys2Proof.Machine.execDaddX x s
  | .dsub b a d => Sys2Proof.Machine.execDsub b a d s
  | .dsubX x => Sys2Proof.Machine.execDsubX x s
  | .dmul b a d => Sys2Proof.Machine.execDmul b a d s
  | .dmulX x => Sys2Proof.Machine.execDmulX x s
  | .dfma b a d => Sys2Proof.Machine.execDfma b a d s
  | .dfmaX x => Sys2Proof.Machine.execDfmaX x s
  | .ddiv b a d => Sys2Proof.Machine.execDdiv b a d s
  | .ddivX x => Sys2Proof.Machine.execDdivX x s
  | .dsqrt a d => Sys2Proof.Machine.execDsqrt a d s
  | .dsqrtX x => Sys2Proof.Machine.execDsqrtX x s
  | .dcmp x => Sys2Proof.Machine.execDcmp x s
  | .dcvt a d => Sys2Proof.Machine.execDcvt a d s
  | .dcvtX x => Sys2Proof.Machine.execDcvtX x s
  | .fexp a d => Sys2Proof.Machine.execFexp a d s
  | .fexpX x => Sys2Proof.Machine.execFexpX x s
  | .fexp2 a d => Sys2Proof.Machine.execFexp2 a d s
  | .fexp2X x => Sys2Proof.Machine.execFexp2X x s
  | .flog a d => Sys2Proof.Machine.execFlog a d s
  | .flogX x => Sys2Proof.Machine.execFlogX x s
  | .flog2 a d => Sys2Proof.Machine.execFlog2 a d s
  | .flog2X x => Sys2Proof.Machine.execFlog2X x s
  | .ftanh a d => Sys2Proof.Machine.execFtanh a d s
  | .ftanhX x => Sys2Proof.Machine.execFtanhX x s
  | .fsig a d => Sys2Proof.Machine.execFsig a d s
  | .fsigX x => Sys2Proof.Machine.execFsigX x s
  | .ferf a d => Sys2Proof.Machine.execFerf a d s
  | .ferfX x => Sys2Proof.Machine.execFerfX x s
  | .fsin a d => Sys2Proof.Machine.execFsin a d s
  | .fsinX x => Sys2Proof.Machine.execFsinX x s
  | .fcos a d => Sys2Proof.Machine.execFcos a d s
  | .fcosX x => Sys2Proof.Machine.execFcosX x s
  | .fgelu a d => Sys2Proof.Machine.execFgelu a d s
  | .fgeluX x => Sys2Proof.Machine.execFgeluX x s
  | .fsilu a d => Sys2Proof.Machine.execFsilu a d s
  | .fsiluX x => Sys2Proof.Machine.execFsiluX x s
  | .fgate b a d => Sys2Proof.Machine.execFgate b a d s
  | .fgateX x => Sys2Proof.Machine.execFgateX x s
  | .ld a d => Sys2Proof.Machine.execLd a d s
  | .ldX x => Sys2Proof.Machine.execLdX x s
  | .st b a => Sys2Proof.Machine.execSt b a s
  | .stX x => Sys2Proof.Machine.execStX x s
  | .ldf a d => Sys2Proof.Machine.execLdf a d s
  | .ldfX x => Sys2Proof.Machine.execLdfX x s
  | .stf b a => Sys2Proof.Machine.execStf b a s
  | .stfX x => Sys2Proof.Machine.execStfX x s
  | .sld x => Sys2Proof.Machine.execSld x s
  | .sst x => Sys2Proof.Machine.execSst x s
  | .atom b a d => Sys2Proof.Machine.execAtom b a d s
  | .atomX x => Sys2Proof.Machine.execAtomX x s
  | .atomf b a d => Sys2Proof.Machine.execAtomf b a d s
  | .atomfX x => Sys2Proof.Machine.execAtomfX x s
  | .red b a => Sys2Proof.Machine.execRed b a s
  | .redX x => Sys2Proof.Machine.execRedX x s
  | .cas b a d => Sys2Proof.Machine.execCas b a d s
  | .casX x => Sys2Proof.Machine.execCasX x s
  | .fence => Sys2Proof.Machine.execFence s
  | .fenceX x => Sys2Proof.Machine.execFenceX x s
  | .pref a => Sys2Proof.Machine.execPref a s
  | .prefX x => Sys2Proof.Machine.execPrefX x s
  | .cctl => Sys2Proof.Machine.execCctl s
  | .cctlX x => Sys2Proof.Machine.execCctlX x s
  | .smap x => Sys2Proof.Machine.execSmap x s
  | .sunmap x => Sys2Proof.Machine.execSunmap x s
  | .sflush x => Sys2Proof.Machine.execSflush x s
  | .sqry x => Sys2Proof.Machine.execSqry x s
  | .cpy x => Sys2Proof.Machine.execCpy x s
  | .cpyg x => Sys2Proof.Machine.execCpyg x s
  | .cpya x => Sys2Proof.Machine.execCpya x s
  | .cpyq x => Sys2Proof.Machine.execCpyq x s
  | .binit x => Sys2Proof.Machine.execBinit x s
  | .barr x => Sys2Proof.Machine.execBarr x s
  | .bwait x => Sys2Proof.Machine.execBwait x s
  | .btest x => Sys2Proof.Machine.execBtest x s
  | .mma x => Sys2Proof.Machine.execMma x s
  | .mmaq x => Sys2Proof.Machine.execMmaq x s
  | .mmai x => Sys2Proof.Machine.execMmai x s
  | .mtrn x => Sys2Proof.Machine.execMtrn x s
  | .mperm x => Sys2Proof.Machine.execMperm x s
  | .mred x => Sys2Proof.Machine.execMred x s
  | .xopen x => Sys2Proof.Machine.execXopen x s
  | .xnext x => Sys2Proof.Machine.execXnext x s
  | .xnext2 x => Sys2Proof.Machine.execXnext2 x s
  | .xisect x => Sys2Proof.Machine.execXisect x s
  | .xunion x => Sys2Proof.Machine.execXunion x s
  | .xskip x => Sys2Proof.Machine.execXskip x s
  | .xclose x => Sys2Proof.Machine.execXclose x s
  | .xsave x => Sys2Proof.Machine.execXsave x s
  | .xload x => Sys2Proof.Machine.execXload x s
  | .xpos x => Sys2Proof.Machine.execXpos x s
  | .vote x => Sys2Proof.Machine.execVote x s
  | .shfl x => Sys2Proof.Machine.execShfl x s
  | .fshfl x => Sys2Proof.Machine.execFshfl x s
  | .matchV x => Sys2Proof.Machine.execMatchV x s
  | .redux x => Sys2Proof.Machine.execRedux x s
  | .scan x => Sys2Proof.Machine.execScan x s
  | .srd x => Sys2Proof.Machine.execSrd x s
  | .swr x => Sys2Proof.Machine.execSwr x s
  | .topo a d => Sys2Proof.Machine.execTopo a d s
  | .topoX x => Sys2Proof.Machine.execTopoX x s
  | .time d => Sys2Proof.Machine.execTime d s
  | .timeX x => Sys2Proof.Machine.execTimeX x s
  | .perf x => Sys2Proof.Machine.execPerf x s
  | .rte => Sys2Proof.Machine.execRte s
  | .rteX => Sys2Proof.Machine.execRteX s
  | .csave x => Sys2Proof.Machine.execCsave x s
  | .cload x => Sys2Proof.Machine.execCload x s
  | .rgnclr x => Sys2Proof.Machine.execRgnclr x s
  | .tlbinv x => Sys2Proof.Machine.execTlbinv x s
  | .trapEntry => Sys2Proof.Machine.execTrapEntry s
  | .fenceComplete => Sys2Proof.Machine.execFenceComplete s
  | .sleepEnd => Sys2Proof.Machine.execSleepEnd s
  | .waitmTimeout => Sys2Proof.Machine.execWaitmTimeout s
  | .warpActivate => Sys2Proof.Machine.execWarpActivate s
  | .scratchClear => Sys2Proof.Machine.execScratchClear s
  | .readReq => Sys2Proof.Machine.execReadReq s
  | .readGrant => Sys2Proof.Machine.execReadGrant s
  | .exclReq => Sys2Proof.Machine.execExclReq s
  | .exclWaitExpire => Sys2Proof.Machine.execExclWaitExpire s
  | .exclGrant => Sys2Proof.Machine.execExclGrant s
  | .storeReq => Sys2Proof.Machine.execStoreReq s
  | .writePerform => Sys2Proof.Machine.execWritePerform s
  | .storeAck => Sys2Proof.Machine.execStoreAck s
  | .atomReq => Sys2Proof.Machine.execAtomReq s
  | .atomAck => Sys2Proof.Machine.execAtomAck s
  | .forward => Sys2Proof.Machine.execForward s
  | .fwdData => Sys2Proof.Machine.execFwdData s
  | .writeback => Sys2Proof.Machine.execWriteback s
  | .recall => Sys2Proof.Machine.execRecall s
  | .renew => Sys2Proof.Machine.execRenew s
  | .renewTimer => Sys2Proof.Machine.execRenewTimer s
  | .holderLeaseBound => Sys2Proof.Machine.execHolderLeaseBound s
  | .watchSet => Sys2Proof.Machine.execWatchSet s
  | .watchFire => Sys2Proof.Machine.execWatchFire s
  | .watchTimeout => Sys2Proof.Machine.execWatchTimeout s
  | .lostNotice => Sys2Proof.Machine.execLostNotice s
  | .unknownMessage => Sys2Proof.Machine.execUnknownMessage s
  | .xexpReached => Sys2Proof.Machine.execXexpReached s
  | .holderDeadTimeout => Sys2Proof.Machine.execHolderDeadTimeout s
  | .sharedExpire => Sys2Proof.Machine.execSharedExpire s
  | .lenDouble => Sys2Proof.Machine.execLenDouble s
  | .regionMerge => Sys2Proof.Machine.execRegionMerge s
  | .lostClearRequest => Sys2Proof.Machine.execLostClearRequest s
  | .homeMemoryFailure => Sys2Proof.Machine.execHomeMemoryFailure s
  | .patrolScrub => Sys2Proof.Machine.execPatrolScrub s
  | .hbmSelfRefresh => Sys2Proof.Machine.execHbmSelfRefresh s
  | .hbmBwWindow => Sys2Proof.Machine.execHbmBwWindow s
  | .tcCalibration => Sys2Proof.Machine.execTcCalibration s
  | .replicaOutOfService => Sys2Proof.Machine.execReplicaOutOfService s
  | .eRaise => Sys2Proof.Machine.execERaise s
  | .eLower => Sys2Proof.Machine.execELower s
  | .linkLaneFail => Sys2Proof.Machine.execLinkLaneFail s
  | .linkWidthChangeDone => Sys2Proof.Machine.execLinkWidthChangeDone s
  | .linkDisableReroute => Sys2Proof.Machine.execLinkDisableReroute s
  | .kelviaHalfFail => Sys2Proof.Machine.execKelviaHalfFail s
  | .dieClockChangeDone => Sys2Proof.Machine.execDieClockChangeDone s
  | .powerSample => Sys2Proof.Machine.execPowerSample s
  | .gatingDelayExpire => Sys2Proof.Machine.execGatingDelayExpire s
  | .gatingPowerSwitch => Sys2Proof.Machine.execGatingPowerSwitch s
  | .dieWake => Sys2Proof.Machine.execDieWake s
  | .dieWakeDone => Sys2Proof.Machine.execDieWakeDone s
  | .firmwareRetireDie => Sys2Proof.Machine.execFirmwareRetireDie s
  | .walkDone => Sys2Proof.Machine.execWalkDone s
  | .faultRecordRetry => Sys2Proof.Machine.execFaultRecordRetry s
  | .translationInvalidate => Sys2Proof.Machine.execTranslationInvalidate s
  | .queueTableWrite => Sys2Proof.Machine.execQueueTableWrite s
  | .queueTailBind => Sys2Proof.Machine.execQueueTailBind s
  | .slotRotation => Sys2Proof.Machine.execSlotRotation s
  | .launchAdmit => Sys2Proof.Machine.execLaunchAdmit s
  | .dieReserve => Sys2Proof.Machine.execDieReserve s
  | .priorityPreempt => Sys2Proof.Machine.execPriorityPreempt s
  | .teamPlace => Sys2Proof.Machine.execTeamPlace s
  | .progressSwap => Sys2Proof.Machine.execProgressSwap s
  | .timeSliceSwap => Sys2Proof.Machine.execTimeSliceSwap s
  | .dieGroupSwap => Sys2Proof.Machine.execDieGroupSwap s
  | .preemptRequest => Sys2Proof.Machine.execPreemptRequest s
  | .teamResume => Sys2Proof.Machine.execTeamResume s
  | .watchdogFirstLimit => Sys2Proof.Machine.execWatchdogFirstLimit s
  | .watchdogSecondLimit => Sys2Proof.Machine.execWatchdogSecondLimit s
  | .gridComplete => Sys2Proof.Machine.execGridComplete s
  | .poolGridTermination => Sys2Proof.Machine.execPoolGridTermination s
  | .shellerFullWarp => Sys2Proof.Machine.execShellerFullWarp s
  | .shellerPartialWarp => Sys2Proof.Machine.execShellerPartialWarp s
  | .stealSearch => Sys2Proof.Machine.execStealSearch s
  | .stealRequest => Sys2Proof.Machine.execStealRequest s
  | .stealReply => Sys2Proof.Machine.execStealReply s
  | .copyChunkSend => Sys2Proof.Machine.execCopyChunkSend s
  | .copyArrive => Sys2Proof.Machine.execCopyArrive s
  | .matrixGrant => Sys2Proof.Machine.execMatrixGrant s
  | .rowGroupCommit => Sys2Proof.Machine.execRowGroupCommit s
  | .lookaheadRead => Sys2Proof.Machine.execLookaheadRead s
  | .sproutBudgetExpire => Sys2Proof.Machine.execSproutBudgetExpire s
  | .recruitmentReleaseDone => Sys2Proof.Machine.execRecruitmentReleaseDone s
  | .spanIncomingPut => Sys2Proof.Machine.execSpanIncomingPut s
  | .spanIncomingGet => Sys2Proof.Machine.execSpanIncomingGet s
  | .spanIncomingAtomic => Sys2Proof.Machine.execSpanIncomingAtomic s
  | .spanAck => Sys2Proof.Machine.execSpanAck s
  | .spanTimeout => Sys2Proof.Machine.execSpanTimeout s
  | .spanPortFail => Sys2Proof.Machine.execSpanPortFail s
  | .spanPortRestore => Sys2Proof.Machine.execSpanPortRestore s
  | .noticeRetry => Sys2Proof.Machine.execNoticeRetry s
  | .moduleIdWrite => Sys2Proof.Machine.execModuleIdWrite s
  | .svcErrClear => Sys2Proof.Machine.execSvcErrClear s
  | .deadWrite => Sys2Proof.Machine.execDeadWrite s
  | .fqLogWrite => Sys2Proof.Machine.execFqLogWrite s
  | .fqReplyResolve => Sys2Proof.Machine.execFqReplyResolve s
  | .fqReplyDecline => Sys2Proof.Machine.execFqReplyDecline s
  | .nrDroppedClear => Sys2Proof.Machine.execNrDroppedClear s
  | .attGoStart => Sys2Proof.Machine.execAttGoStart s
  | .attestationDone => Sys2Proof.Machine.execAttestationDone s
  | .dbgHalt => Sys2Proof.Machine.execDbgHalt s
  | .dbgResume => Sys2Proof.Machine.execDbgResume s
  | .dbgDataWrite => Sys2Proof.Machine.execDbgDataWrite s
  | .incWrite => Sys2Proof.Machine.execIncWrite s
  | .lclrStart => Sys2Proof.Machine.execLclrStart s
  | .lclrDone => Sys2Proof.Machine.execLclrDone s
  | .serviceRegisterWrite => Sys2Proof.Machine.execServiceRegisterWrite s
  | .serviceUndefinedAccess => Sys2Proof.Machine.execServiceUndefinedAccess s
  | .bootFirmwareVerify => Sys2Proof.Machine.execBootFirmwareVerify s
  | .memorySitesTrained => Sys2Proof.Machine.execMemorySitesTrained s
  | .kelviaLinkUp => Sys2Proof.Machine.execKelviaLinkUp s
  | .dieJoin => Sys2Proof.Machine.execDieJoin s
  | .fullServiceReached => Sys2Proof.Machine.execFullServiceReached s
  | .moduleReset => Sys2Proof.Machine.execModuleReset s
  | .computeDieFailure => Sys2Proof.Machine.execComputeDieFailure s
  | .memorySiteFailure => Sys2Proof.Machine.execMemorySiteFailure s
  | .companionMemoryResponse => Sys2Proof.Machine.execCompanionMemoryResponse s
  | .vaultAccessComplete => Sys2Proof.Machine.execVaultAccessComplete s
  | .outstandingDecrementSend => Sys2Proof.Machine.execOutstandingDecrementSend s
  | .lostClearAnswer => Sys2Proof.Machine.execLostClearAnswer s
  | .invalidationAcknowledge => Sys2Proof.Machine.execInvalidationAcknowledge s

end Sys2Proof.Machine
end

