-- ==== Sys2Proof/Machine/Run.lean ====
section
/-! DEFINITION. A decoded layout runs the instruction it is: the same meanings as `exec`, reached from the layout, so
that a step can be computed (`View.instr` cannot be, see there). `run_exec` in Laws proves the two equal. -/

namespace Sys2Proof.Machine

/-- The base-form instruction of an opcode. -/
def runBase (op : Op) (u : Bool) (b a d : BitVec 7) (s : State) : Res :=
  match op with
  | .nop => execNop s
  | .join => execJoin s
  | .ret => execRet s
  | .jmpx => execJmpx a s
  | .exit => execExit s
  | .barsync => execBarsync s
  | .yield => execYield s
  | .sleep => execSleep a s
  | .brkpt => execBrkpt s
  | .trap => execTrap a s
  | .poolq => execPoolq a d s
  | .iadd => execIadd u b a d s
  | .isub => execIsub u b a d s
  | .imul => execImul u b a d s
  | .imulh => execImulh u b a d s
  | .imad => execImad u b a d s
  | .idiv => execIdiv u b a d s
  | .irem => execIrem u b a d s
  | .imin => execImin u b a d s
  | .imax => execImax u b a d s
  | .iabs => execIabs u a d s
  | .iand => execIand u b a d s
  | .ior => execIor u b a d s
  | .ixor => execIxor u b a d s
  | .inot => execInot u a d s
  | .shl => execShl u b a d s
  | .shr => execShr u b a d s
  | .sar => execSar u b a d s
  | .rot => execRot u b a d s
  | .bfx => execBfx u b a d s
  | .bfi => execBfi u b a d s
  | .popc => execPopc u a d s
  | .clz => execClz u a d s
  | .brev => execBrev u a d s
  | .lea => execLea u b a d s
  | .mov => execMov u a d s
  | .cvti => execCvti u a d s
  | .idot4 => execIdot4 u b a d s
  | .fadd => execFadd b a d s
  | .fsub => execFsub b a d s
  | .fmul => execFmul b a d s
  | .ffma => execFfma b a d s
  | .fdiv => execFdiv b a d s
  | .fsqrt => execFsqrt a d s
  | .fsqr => execFsqr a d s
  | .frcp => execFrcp a d s
  | .frsqrt => execFrsqrt a d s
  | .fabs => execFabs a d s
  | .fneg => execFneg a d s
  | .fmin => execFmin b a d s
  | .fmax => execFmax b a d s
  | .fhull => execFhull b a d s
  | .fisect => execFisect b a d s
  | .fmk => execFmk b a d s
  | .flo => execFlo a d s
  | .fhi => execFhi a d s
  | .fmid => execFmid a d s
  | .frad => execFrad a d s
  | .fwid => execFwid a d s
  | .fmig => execFmig a d s
  | .fmag => execFmag a d s
  | .fclass => execFclass a d s
  | .fdec => execFdec a d s
  | .fcvt => execFcvt a d s
  | .fcvti => execFcvti a d s
  | .fpown => execFpown b a d s
  | .fldexp => execFldexp b a d s
  | .fmov => execFmov a d s
  | .dadd => execDadd b a d s
  | .dsub => execDsub b a d s
  | .dmul => execDmul b a d s
  | .dfma => execDfma b a d s
  | .ddiv => execDdiv b a d s
  | .dsqrt => execDsqrt a d s
  | .dcvt => execDcvt a d s
  | .fexp => execFexp a d s
  | .fexp2 => execFexp2 a d s
  | .flog => execFlog a d s
  | .flog2 => execFlog2 a d s
  | .ftanh => execFtanh a d s
  | .fsig => execFsig a d s
  | .ferf => execFerf a d s
  | .fsin => execFsin a d s
  | .fcos => execFcos a d s
  | .fgelu => execFgelu a d s
  | .fsilu => execFsilu a d s
  | .fgate => execFgate b a d s
  | .ld => execLd a d s
  | .st => execSt b a s
  | .ldf => execLdf a d s
  | .stf => execStf b a s
  | .atom => execAtom b a d s
  | .atomf => execAtomf b a d s
  | .red => execRed b a s
  | .cas => execCas b a d s
  | .fence => execFence s
  | .pref => execPref a s
  | .cctl => execCctl s
  | .topo => execTopo a d s
  | .time => execTime d s
  | .rte => execRte s
  | _ => .next s

/-- The extended-form instruction of an opcode. -/
def runExt (op : Op) (x : Ext) (s : State) : Res :=
  match op with
  | .nop => execNopX x s
  | .join => execJoinX s
  | .ret => execRetX s
  | .jmpx => execJmpxX x s
  | .exit => execExitX x s
  | .barsync => execBarsyncX x s
  | .waitk => execWaitk x s
  | .waitm => execWaitm x s
  | .yield => execYieldX x s
  | .sleep => execSleepX x s
  | .brkpt => execBrkptX s
  | .trap => execTrapX x s
  | .split => execSplit x s
  | .spawn => execSpawn x s
  | .poolq => execPoolqX x s
  | .recruit => execRecruit x s
  | .hend => execHend x s
  | .hjoin => execHjoin x s
  | .iadd => execIaddX x s
  | .isub => execIsubX x s
  | .imul => execImulX x s
  | .imulh => execImulhX x s
  | .imad => execImadX x s
  | .idiv => execIdivX x s
  | .irem => execIremX x s
  | .imin => execIminX x s
  | .imax => execImaxX x s
  | .iabs => execIabsX x s
  | .iand => execIandX x s
  | .ior => execIorX x s
  | .ixor => execIxorX x s
  | .inot => execInotX x s
  | .shl => execShlX x s
  | .shr => execShrX x s
  | .sar => execSarX x s
  | .rot => execRotX x s
  | .bfx => execBfxX x s
  | .bfi => execBfiX x s
  | .popc => execPopcX x s
  | .clz => execClzX x s
  | .brev => execBrevX x s
  | .lea => execLeaX x s
  | .mov => execMovX x s
  | .movl => execMovlX x s
  | .sel => execSel x s
  | .icmp => execIcmp x s
  | .plop => execPlop x s
  | .pmov => execPmov x s
  | .cvti => execCvtiX x s
  | .idot4 => execIdot4X x s
  | .fadd => execFaddX x s
  | .fsub => execFsubX x s
  | .fmul => execFmulX x s
  | .ffma => execFfmaX x s
  | .fdiv => execFdivX x s
  | .fsqrt => execFsqrtX x s
  | .fsqr => execFsqrX x s
  | .frcp => execFrcpX x s
  | .frsqrt => execFrsqrtX x s
  | .fabs => execFabsX x s
  | .fneg => execFnegX x s
  | .fmin => execFminX x s
  | .fmax => execFmaxX x s
  | .fhull => execFhullX x s
  | .fisect => execFisectX x s
  | .fmk => execFmkX x s
  | .flo => execFloX x s
  | .fhi => execFhiX x s
  | .fmid => execFmidX x s
  | .frad => execFradX x s
  | .fwid => execFwidX x s
  | .fmig => execFmigX x s
  | .fmag => execFmagX x s
  | .fbis => execFbis x s
  | .fcmp => execFcmp x s
  | .fset => execFset x s
  | .fclass => execFclassX x s
  | .fdec => execFdecX x s
  | .fcvt => execFcvtX x s
  | .fcvti => execFcvtiX x s
  | .fpown => execFpownX x s
  | .fldexp => execFldexpX x s
  | .fmov => execFmovX x s
  | .fsel => execFsel x s
  | .fmovl => execFmovlX x s
  | .rmax => execRmax x s
  | .rsum => execRsum x s
  | .rstat => execRstat x s
  | .smxu => execSmxu x s
  | .smxa => execSmxa x s
  | .rnorm => execRnorm x s
  | .dadd => execDaddX x s
  | .dsub => execDsubX x s
  | .dmul => execDmulX x s
  | .dfma => execDfmaX x s
  | .ddiv => execDdivX x s
  | .dsqrt => execDsqrtX x s
  | .dcmp => execDcmp x s
  | .dcvt => execDcvtX x s
  | .fexp => execFexpX x s
  | .fexp2 => execFexp2X x s
  | .flog => execFlogX x s
  | .flog2 => execFlog2X x s
  | .ftanh => execFtanhX x s
  | .fsig => execFsigX x s
  | .ferf => execFerfX x s
  | .fsin => execFsinX x s
  | .fcos => execFcosX x s
  | .fgelu => execFgeluX x s
  | .fsilu => execFsiluX x s
  | .fgate => execFgateX x s
  | .ld => execLdX x s
  | .st => execStX x s
  | .ldf => execLdfX x s
  | .stf => execStfX x s
  | .sld => execSld x s
  | .sst => execSst x s
  | .atom => execAtomX x s
  | .atomf => execAtomfX x s
  | .red => execRedX x s
  | .cas => execCasX x s
  | .fence => execFenceX x s
  | .pref => execPrefX x s
  | .cctl => execCctlX x s
  | .smap => execSmap x s
  | .sunmap => execSunmap x s
  | .sflush => execSflush x s
  | .sqry => execSqry x s
  | .cpy => execCpy x s
  | .cpyg => execCpyg x s
  | .cpya => execCpya x s
  | .cpyq => execCpyq x s
  | .binit => execBinit x s
  | .barr => execBarr x s
  | .bwait => execBwait x s
  | .btest => execBtest x s
  | .mma => execMma x s
  | .mmaq => execMmaq x s
  | .mmai => execMmai x s
  | .mtrn => execMtrn x s
  | .mperm => execMperm x s
  | .mred => execMred x s
  | .xopen => execXopen x s
  | .xnext => execXnext x s
  | .xnext2 => execXnext2 x s
  | .xisect => execXisect x s
  | .xunion => execXunion x s
  | .xskip => execXskip x s
  | .xclose => execXclose x s
  | .xsave => execXsave x s
  | .xload => execXload x s
  | .xpos => execXpos x s
  | .vote => execVote x s
  | .shfl => execShfl x s
  | .fshfl => execFshfl x s
  | .matchV => execMatchV x s
  | .redux => execRedux x s
  | .scan => execScan x s
  | .srd => execSrd x s
  | .swr => execSwr x s
  | .topo => execTopoX x s
  | .time => execTimeX x s
  | .perf => execPerf x s
  | .rte => execRteX s
  | .csave => execCsave x s
  | .cload => execCload x s
  | .rgnclr => execRgnclr x s
  | .tlbinv => execTlbinv x s
  | _ => .next s

/-- Run the instruction of a legal layout; nothing where the layout has none. -/
def runView (v : View) (s : State) : Res :=
  match v with
  | .base op u b a d => runBase op u b a d s
  | .ext op x => runExt op x s
  | .litBase .movl u d l => execMovl u d l s
  | .litBase _ _ d l => execFmovl d l s
  | .jump .bra j => execBra j s
  | .jump _ j => execCall j s
  | .jumpX .bra j g gs => execBraX j g gs s
  | .jumpX _ j g gs => execCallX j g gs s
  | .brc c tC l => execBrc c tC l s
  | .brm p3 p2 p1 p0 jn l => execBrm p3 p2 p1 p0 jn l s

end Sys2Proof.Machine
end

