-- ==== Sys2Proof/Machine/Issue.lean ====
section
/-! DEFINITION. One issue from a warp: causes at the boundary, fetch, decode, execution (R216, R237, R392, R462). -/

namespace Sys2Proof.Machine

/-- What an issue adds to the core's counters; cycles, passes and conflicts are not modelled (R493; log 35). -/
def State.countIssue (s : State) (die core : Nat) : State :=
  [1, 2, 3, 4, 7, 8].foldl (fun s code => s.countCore die core code (Config.counted s.steps (die * 1280 + core) code)) s

/-- Bookkeeping of an issue that the warp did not stall at (R415, R452). -/
def State.issued (s : State) (k : WarpKey) : State :=
  match s.warp? k with
  | none => s
  | some w =>
    if !w.active then s
    else { (s.countIssue w.die w.core).modWarp k fun w => { w with lastIssue := s.now, issued := w.issued + 1, sprout := w.sprout.map fun p => { p with first := some (p.first.getD s.now) } } with
           coreIssue := s.coreIssue.put 0 (w.die * 1280 + w.core) s.now }

/-- Execute a decoded layout on the warp. -/
def State.runInstr (s : State) (k : WarpKey) (v : View) : Res :=
  match runView v { s with cur := some k } with
  | .next s => .next (s.issued k)
  | r => r

/-- Decode fetched words and execute: an illegal word traps (R236, R237). -/
def State.runWords (s : State) (k : WarpKey) (w : Warp) (ws : List Word) : Res :=
  match decodeView ws with
  | .error _ => s.precise k w cIllegal 0 0 wholeWarp 0
  | .ok (v, _) => s.runInstr k v

/-- Fetch at the program counter and execute. -/
def State.fetchRun (s : State) (k : WarpKey) (w : Warp) : Res :=
  match s.fetchInstr k w w.r.pc with
  | (s, .words ws) => s.runWords k w ws
  | (s, .wait wt) => .next (s.stall k wt)
  | (s, .bad c d fl va) => (s.spent fl).precise k w c d 0 wholeWarp va

/-- A warp that waits on a walk or a page does not fetch. -/
def Warp.held (w : Warp) : Bool :=
  match w.wait with
  | .walk _ _ _ | .page _ _ _ | .barsync _ _ | .acks => true
  | _ => false

/-- A warp that issues: the status of a RECRUIT that is due is filled (R444), and an HJOIN that is executed again no longer holds
its destinations empty (R453). -/
def Warp.readied (w : Warp) (nS now : Nat) : Warp :=
  let w := w.fillStatus nS (some now)
  { w with wait := match w.wait with
    | .hjoin _ => .none
    | wt => wt }

/-- The warp that issues no longer stands among those held for room (R57). -/
def State.readied (s : State) (k : WarpKey) (w : Warp) : State := { s.setWarp k w with held := s.held.filter (· ≠ k) }

/-- Issue from a warp. -/
def State.issue (s : State) (k : WarpKey) : Res :=
  match s.warp? k with
  | none => .next s
  | some w =>
    if !s.mayIssue k w then .next s
    else if w.due.isSome && w.sprout.isNone && w.delivery ≠ .later then .next (s.takeBoundary k w)
    else if w.held then .next s
    else
      let v := w.readied (s.header k).nS s.now
      (s.readied k v).fetchRun k v

end Sys2Proof.Machine
end

