-- ==== Sys2Proof/Machine/Step.lean ====
section
/-! DEFINITION. The step of the machine, and the placing of one instruction where the next step fetches. -/

namespace Sys2Proof.Machine

/-- Time passes, and watchdogs count it (R418). -/
def State.tick (s : State) : State :=
  { s.countTime (Config.elapsed s.steps) with now := s.now + Config.elapsed s.steps, steps := s.steps + 1 }

/-- One step: time passes, and the first entry of the agenda is done: an issue from a warp, or a step of the part.
With nothing on the agenda only time passes. Instructions are no steps of the part. -/
def step (s : State) : Res :=
  match s.agenda with
  | [] => .next s.tick
  | .issue k :: rest => { s.tick with agenda := rest }.issue k
  | .event i a :: rest =>
    if i.encoded then .next { s.tick with agenda := rest }
    else exec i { s.tick with agenda := rest, arg := a, cur := none }

/-- The warp that `withFetchWord` lets issue. -/
def probeKey : WarpKey := ⟨1, 0, 0, 0⟩

/-- Its kernel header: every register declared, with a handler at the entry point. -/
def probeHeader : Header := ⟨32, 128, 128, 384, 16, true, 4, 458752, [], [], [], [], 0, 0, 0⟩

def probeGrid : Grid := ⟨probeHeader, 0x10000, (32, 1, 1), 1, 1, false, false, false, 0, 458752, 0x100000, none, 0, 0, Launch.none⟩

def probeTeam : Team := ⟨0, 0, 0, 0, 1, true, 458752, [], [], [], [0], 0, 0, [], some 0, 1, 0, none⟩

/-- The code page of the placed warp: executable, at its own physical address. -/
def probeTlb : Tlb := ⟨0, 0, 0, 0, 16, 1, 0x10000, false, true, false, false⟩

/-- The state with a one-warp team placed on core 0 of die 0 and the instruction's words at its program counter, so
that the next step fetches and runs them (log 2). -/
def State.withFetchWord (s : State) (nbits w : Nat) : State :=
  { s with
    agenda := [.issue probeKey]
    grids := s.grids.put 1 probeGrid
    teams := s.teams.put ⟨1, 0⟩ probeTeam
    warps := s.warps.put probeKey (Warp.start (Regs.start 0x10000 (fullMask 32)) 32 0 0 0 0 true)
    tlbs := [probeTlb]
    faults := []
    mem := writeBytes s.mem 0x10000 20 (w % 2 ^ nbits) }

end Sys2Proof.Machine
end

