-- ==== Sys2Proof/Safety.lean ====
section
/-! DEFINITION. The terms claims are stated in: what counts as a safe step, the canonical form of memory, and
which registers an instruction leaves alone. -/

namespace Sys2Proof.Machine

/-- The canonical form of memory: addresses strictly rising, and no entry equal to what an unlisted address
reads as (0, log 1). -/
def Memory.wf (m : Store Byte) : Bool := Store.wf 0 m

/-- The invariant of the machine's memory: one list of bytes for every value of memory. -/
def State.Inv (s : State) : Prop := Memory.wf s.mem = true

/-! ### The instruction a layout holds, and when it executes -/

/-- Opcode, operand fields and length in bytes of a layout. -/
def formOf : View → Op × Ext × Nat
  | .base op u b a d => (op, Ext.base op u b a d, 4)
  | .ext op x => (op, x, extLen x)
  | .litBase op u d l => (op, Ext.base op u 0 0 d (some l), 12)
  | .jump op _ => (op, guardOnly 15 0, 4)
  | .jumpX op _ g gs => (op, guardOnly g gs, 12)
  | .brc _ _ _ => (.brc, Ext.fixed, 20)
  | .brm _ _ _ _ _ _ => (.brm, Ext.fixed, 20)

/-- Opcode, operand fields and length of an encoded instruction. -/
def instrForm (i : Instr) : Option (Op × Ext × Nat) := i.view.map formOf

/-- Warp k, in state w, executes an instruction with these fields: it is the executing warp, the encoding is legal
(R236), every register named is declared (R182), and none of them is empty (R177, R178). -/
structure Able (s : State) (k : WarpKey) (w : Warp) (op : Op) (x : Ext) : Prop where
  running : s.running = some (k, w)
  legal : x.check op = none
  declared : s.namesOk k w op x = true
  ready : readiness (s.header k).nS w (w.r.takes x) op (w.named op x) = .go

/-- What the executing instruction sees. -/
def cx (s : State) (k : WarpKey) (w : Warp) (op : Op) (x : Ext) : Cx := ⟨s, k, w, op, x, (s.header k).nS, w.r.takes x⟩

/-- The encoded instruction i, with the operand fields of c and this length, is what c's warp executes, and it may
execute. -/
structure Executes (i : Instr) (c : Cx) (len : Nat) : Prop where
  form : instrForm i = some (c.op, c.x, len)
  able : Able c.s c.k c.w c.op c.x
  regs : c.nS = (c.s.header c.k).nS
  mask : c.m = c.w.r.takes c.x

/-- The same instruction seen with other registers: what its operands read afterwards. -/
def Cx.after (c : Cx) (r : Regs) : Cx := { c with w := { c.w with r := r } }

/-- The instruction moves past its words, and of the whole state only the registers of its warp change, to r. -/
def Runs (i : Instr) (c : Cx) (len : Nat) (r : Regs) : Prop :=
  exec i c.s = .next (c.s.setWarp c.k { c.w with r := r }) ∧ r.pc = c.w.r.pc + BitVec.ofNat 64 len

/-- In every thread that takes part, p holds of the thread's operands as they read afterwards. -/
def EachThread (i : Instr) (c : Cx) (len : Nat) (p : Cx → Nat → Prop) : Prop :=
  ∃ r, Runs i c len r ∧ ∀ l ∈ lanesOf c.m, p (c.after r) l

/-- The instruction traps precisely: the state is the one that the trap leads to, and nothing of the instruction is
performed. -/
def Traps (i : Instr) (c : Cx) (cause detail aux lane : Nat) (addr : DWord) : Prop :=
  exec i c.s = .next (c.s.trap c.k c.w ⟨cause, detail, aux, lane, addr, c.w.r.pc, false, false, false⟩)

/-- The next state is the same but for the executing warp, which becomes v. -/
def Becomes (i : Instr) (c : Cx) (v : Warp) : Prop := exec i c.s = .next (c.s.setWarp c.k v)

/-- The warp with other registers. -/
def Cx.with (c : Cx) (r : Regs) : Warp := { c.w with r := r }

/-- The same after a push on the warp's stack: what the hardware does not hold goes to the spill area (R371). -/
def Pushes (i : Instr) (c : Cx) (r : Regs) : Prop :=
  exec i c.s = .next ((c.s.spillOut c.k c.w c.w.r.cur.length r.cur).setWarp c.k (c.with r))

/-- The program counter past the instruction, and nothing else. -/
def Cx.past (c : Cx) (len : Nat) : Regs := { c.w.r with pc := c.w.r.pc + BitVec.ofNat 64 len }

/-- The warp stays at the instruction and leaves the active set: the scheduler lets others issue and it executes the
instruction again. -/
def Waits (i : Instr) (c : Cx) : Prop := exec i c.s = .next (c.s.hold' c.k)

/-- The active threads for which p holds. -/
def IsSet (m : Mask) (r : Regs) (p : Nat → Prop) : Prop := ∀ l, l < 128 → (m.getLsbD l = true ↔ r.mask.getLsbD l = true ∧ p l)

/-- The fields of a stack's entries but for the image of the address after a JOIN, which is found again when the entry
is popped (R372, log 29). -/
def shape (es : List SEntry) : List (Mask × DWord × DWord × Nat) :=
  es.map fun e => (e.mask, if e.kind = 1 then 0 else e.pc, e.join, e.kind)

/-- The current mask, program counter and pushed entries of a division into paths (R372). -/
def Divided (i : Instr) (c : Cx) (paths : List (Mask × DWord)) (jaddr : DWord) : Prop :=
  match paths.filter fun p => p.1 ≠ 0 with
  | [] => True
  | first :: rest =>
    if c.w.r.cur.length + (rest.length + 1) ≤ stackSize (c.s.header c.k) c.w then
      ∃ r, Pushes i c r ∧ r.mask = first.1 ∧ r.pc = first.2 ∧ r.live = c.w.r.live ∧
        shape r.cur = rest.map (fun p => (p.1, p.2, jaddr, 0)) ++ (c.w.r.mask, 0, jaddr, 1) :: shape c.w.r.cur
    else Traps i c cAlloc 0 0 wholeWarp 0

/-! ### Integers as the rules compute them -/

/-- An integer operand of n words: 32 or 64 bits (R223, R224). -/
def Cx.src (c : Cx) (n lane : Nat) (x : Sel) : BitVec (32 * n) := (c.int n lane x).setWidth (32 * n)

/-- Read as signed or unsigned. -/
def valueOf (sgn : Bool) {w : Nat} (x : BitVec w) : Int := if sgn then x.toInt else x.toNat

/-- The exact value of R250. -/
def exactArith (op : Op) (w : Nat) (a b d : Int) : Int :=
  match op with
  | .iadd => a + b
  | .isub => a - b
  | .imul => a * b
  | .imulh => (a * b).fdiv (2 ^ w)
  | .imad => a * b + d
  | .imin => min a b
  | .imax => max a b
  | .iabs => if a < 0 then -a else a
  | _ => 0

/-- An exact value reduced modulo 2 to the w, or clamped to the type's range. -/
def narrow (sgn sat : Bool) (w : Nat) (e : Int) : BitVec w :=
  let lo : Int := if sgn then -2 ^ (w - 1) else 0
  let hi : Int := if sgn then 2 ^ (w - 1) - 1 else 2 ^ w - 1
  BitVec.ofInt w (if sat then max lo (min hi e) else e)

/-- Quotient and remainder of R251. -/
def quotRem (sgn sat : Bool) (w : Nat) (a b : Int) : Int × Int :=
  if b = 0 then (0, a)
  else if sgn ∧ a = -2 ^ (w - 1) ∧ b = -1 then (if sat then 2 ^ (w - 1) - 1 else -2 ^ (w - 1), 0)
  else (a.tdiv b, a - a.tdiv b * b)

/-- Logic, shifts by n and reversal, R252. -/
def bitwise (op : Op) {w : Nat} (a b : BitVec w) (n : Nat) : BitVec w :=
  match op with
  | .iand => a &&& b
  | .ior => a ||| b
  | .ixor => a ^^^ b
  | .inot => ~~~a
  | .shl => a <<< n
  | .shr => a >>> n
  | .sar => a.sshiftRight n
  | .rot => a.rotateLeft n
  | _ => a.reverse

/-- Set bits, and leading zero bits, R252. -/
def countBits (op : Op) {w : Nat} (a : BitVec w) : Nat :=
  if op = .popc then ((List.range w).filter fun i => a.getLsbD i).length
  else ((List.range w).map fun i => a.getMsbD i).findIdx id

/-- Position and length of the effective field of R253. -/
def effField (w : Nat) (spec : Word) : Nat × Nat :=
  let pos := (spec.extractLsb' 0 8).toNat
  let len := (spec.extractLsb' 8 8).toNat
  (min pos w, min len (w - min pos w))

/-- ICMP's conditions, R257. -/
def holdsCond (cc : Nat) (a b : Int) : Prop :=
  match cc with
  | 0 => a = b
  | 1 => a ≠ b
  | 2 => a < b
  | 3 => a ≤ b
  | 4 => b < a
  | _ => b ≤ a

/-- Predicates in the order FALSE, UNDECIDED, TRUE of Kleene's logic (R211). -/
def level (x : Tri) : Nat := if x = Tri.tt then 2 else if x = Tri.ff then 0 else 1

/-- PLOP's results as levels, R258. -/
def kleene (o a b c : Nat) : Nat :=
  match o with
  | 0 => 2 - a
  | 1 => min a b
  | 2 => max a b
  | 3 => if a = 1 ∨ b = 1 then 1 else if a = b then 0 else 2
  | 4 => if a = 1 then 0 else 2
  | 5 => if a = 1 then 2 else 0
  | 6 => min a (min b c)
  | 7 => max a (max b c)
  | 8 => min a (2 - b)
  | 9 => if a = 1 then 0 else a
  | _ => if a = 1 then 2 else a

/-- Words that an instruction writes to D: to a V register in every thread that takes part, to an S register once,
with the value of the lowest of them. -/
def WordTo (i : Instr) (c : Cx) (len n : Nat) (f : Nat → BitVec (32 * n)) : Prop :=
  ∃ r, Runs i c len r ∧ (∀ k, c.x.d = .reg k → ∀ l ∈ lanesOf c.m, (c.after r).src n l c.x.d = f l) ∧
    ∀ k, c.x.d = .s k → c.m ≠ 0 → (c.after r).src n 0 c.x.d = f (lowest c.m)

/-! ### Intervals as sets of reals -/

/-- The value of a dyadic. -/
noncomputable def Dy.real (d : Dy) : ℝ := d.m * (2 : ℝ) ^ d.e

/-- A bound as an extended real. -/
noncomputable def Pt.ext (f : Fmt) : Pt → EReal
  | .nan => 0
  | .inf neg => if neg then ⊥ else ⊤
  | .fin neg c => if neg then ((-(f.mag c).real : ℝ) : EReal) else ((f.mag c).real : EReal)

/-- A point of the interval. -/
def Iv.Holds (f : Fmt) (x : Iv) (u : ℝ) : Prop := ∃ a b d, x = .mk a b d ∧ a.ext f ≤ (u : EReal) ∧ (u : EReal) ≤ b.ext f

/-- The format an opcode computes in. -/
def opFmt (op : Op) : Fmt := if op ∈ [Op.dadd, .dsub, .dmul, .dfma, .ddiv, .dsqrt, .dcmp] then .fp64 else .fp32

/-- The interval a floating operand holds (R194), and as the instruction takes it, after FZI (R207). -/
def Cx.held (c : Cx) (f : Fmt) (lane : Nat) (x : Sel) : Iv := if f = .fp64 then (c.dbl lane x).read .fp64 else (c.flt lane x).read .fp32
def Cx.taken (c : Cx) (f : Fmt) (lane : Nat) (x : Sel) : Iv := (c.held f lane x).flush f c.x.fzi

/-- The operations that are defined at every point (R263), and those that are not, where they are defined. -/
noncomputable def realOp (op : Op) (x y z : ℝ) : ℝ :=
  match op with
  | .fadd | .dadd => x + y
  | .fsub | .dsub => x - y
  | .fmul | .dmul => x * y
  | .ffma | .dfma => x * y + z
  | .fdiv | .ddiv => x / y
  | .fsqr => x * x
  | .frcp => 1 / x
  | .fsqrt | .dsqrt => Real.sqrt x
  | _ => 0

/-- The point at which the operation is defined. -/
def realDom (op : Op) (x y : ℝ) : Prop :=
  match op with
  | .fdiv | .ddiv => y ≠ 0
  | .frcp => x ≠ 0
  | .fsqrt | .dsqrt => 0 ≤ x
  | _ => True

/-- Floating opcodes whose result R263 or R283 gives, outside `.pt`: one, two or three floating operands. -/
def fltOps1 : List Op := [.fsqrt, .fsqr, .frcp, .frsqrt, .fabs, .fneg, .fpown, .fldexp, .dsqrt, .fexp, .fexp2, .flog, .flog2,
  .ftanh, .fsig, .ferf, .fsin, .fcos, .fgelu, .fsilu]
def fltOps2 : List Op := [.fadd, .fsub, .fmul, .fdiv, .fmin, .fmax, .fgate, .dadd, .dsub, .dmul, .ddiv]
def fltOps3 : List Op := [.ffma, .dfma]

/-- Floating sources of an opcode, in order. -/
def fltSources (op : Op) (x : Ext) : List Sel :=
  if op ∈ fltOps1 then [x.a] else if op ∈ fltOps2 then [x.a, x.b] else [x.a, x.b, x.d]

/-- The instruction has `.pt`. -/
def isPoint (op : Op) (x : Ext) : Bool :=
  if op ∈ [Op.fexp, .fexp2, .flog, .flog2, .ftanh, .fsig, .ferf, .fsin, .fcos, .fgelu, .fsilu, .fgate] then x.m 3 1 = 1
  else op ∉ [Op.fabs, .fneg, .fmin, .fmax] && x.m 0 1 = 1

/-- Relations of R208 between [a, b] and [c, d]: when TRUE, and when FALSE. -/
def relTrue (rel : Nat) (a b c d : EReal) : Prop :=
  match rel with
  | 0 => b < c
  | 1 => b ≤ c
  | 2 => a = b ∧ b = c ∧ c = d
  | 3 => b < c ∨ d < a
  | 4 => d < a
  | _ => d ≤ a
def relFalse (rel : Nat) (a b c d : EReal) : Prop :=
  match rel with
  | 0 => d ≤ a
  | 1 => d < a
  | 2 => b < c ∨ d < a
  | 3 => a = b ∧ b = c ∧ c = d
  | 4 => b ≤ c
  | _ => b < c

/-! ### Instructions that change registers only -/

/-- Opcodes whose whole effect is on V, F, P and S registers. -/
def registerOps : List Op :=
  [.iadd, .isub, .imul, .imulh, .imad, .idiv, .irem, .imin, .imax, .iabs, .iand, .ior, .ixor, .inot, .shl, .shr, .sar, .rot, .bfx, .bfi,
   .popc, .clz, .brev, .lea, .mov, .movl, .sel, .icmp, .plop, .pmov, .cvti, .idot4,
   .fadd, .fsub, .fmul, .ffma, .fdiv, .fsqrt, .fsqr, .frcp, .frsqrt, .fabs, .fneg, .fmin, .fmax, .fhull, .fisect, .fmk, .flo, .fhi,
   .fmid, .frad, .fwid, .fmig, .fmag, .fbis, .fcmp, .fset, .fclass, .fdec, .fcvt, .fcvti, .fpown, .fldexp, .fmov, .fsel, .fmovl,
   .rmax, .rsum, .rstat, .smxu, .smxa, .rnorm, .dadd, .dsub, .dmul, .dfma, .ddiv, .dsqrt, .dcmp, .dcvt,
   .fexp, .fexp2, .flog, .flog2, .ftanh, .fsig, .ferf, .fsin, .fcos, .fgelu, .fsilu, .fgate,
   .vote, .shfl, .fshfl, .matchV, .redux, .scan, .srd, .topo, .time, .perf]

/-- None of the traps that values can bring: a zero divisor without NT (R251), a scratch address that an access
would not have (R254), a thread that is no member (R385). -/
def NoValueTrap (c : Cx) : Prop :=
  match c.op with
  | .idiv | .irem => ∀ l ∈ lanesOf c.m, c.src (tyN c.x.ty) l c.x.b ≠ 0 ∨ c.x.m 5 1 = 1
  | .lea => c.x.m 7 2 = 0 ∨ ∀ l ∈ lanesOf c.m, (c.s.scratchLoc c.k c.w (c.x.m 7 2) (leaSum c l).toNat 1).isBad = false
  | .vote | .shfl | .fshfl | .matchV | .redux | .scan => c.m &&& ~~~c.members = 0
  | _ => True

/-! ### Accesses to memory -/

/-- Space, size, alignment and kind of an instruction's access (R337, R348). -/
def Cx.access (c : Cx) : Acc :=
  let x := c.x
  let f := x.m 0 4
  match c.op with
  | .ld => ⟨x.m 3 2, szBytes (x.m 0 3), szBytes (x.m 0 3), kLoad, false⟩
  | .st => ⟨x.m 3 2, szBytes (x.m 0 3), szBytes (x.m 0 3), kStore, false⟩
  | .ldf => ⟨x.m 4 2, fmtBytes f, fmtAlign f, kLoad, f = 6⟩
  | .stf => ⟨x.m 4 2, fmtBytes f, fmtAlign f, kStore, false⟩
  | .sld => ⟨x.m 2 2, szBytes (x.m 0 2), szBytes (x.m 0 2), kLoad, false⟩
  | .sst => ⟨x.m 2 2, szBytes (x.m 0 2), szBytes (x.m 0 2), kStore, false⟩
  | _ => ⟨x.m 2 2, c.elemSize, c.elemSize, kAtomic, false⟩

/-- The threads that make an access: one for the warp on the scalar unit (R351). -/
def Cx.accLanes (c : Cx) : List Nat := if c.op = .sld ∨ c.op = .sst then [lowest c.m] else lanesOf c.m

/-- A thread's address (R233), and that of its first byte. -/
def Cx.accAddr (c : Cx) (lane : Nat) : DWord := c.addr c.access.sp c.access.size lane
def Cx.accByte (c : Cx) (lane : Nat) : Nat := if c.access.nibble then (c.accAddr lane).toNat / 2 else (c.accAddr lane).toNat

/-- The checks of R340 pass, with the places of the accesses and the state that the translations leave. -/
def Passes (c : Cx) (s' : State) (spots : List Spot) : Prop := c.checks c.access c.accLanes c.accAddr = .go s' spots

/-- The places that an access of n bytes covers. -/
def Spot.place (p : Spot) (n j : Nat) : Nat := if j < 128 - p.pa % 128 then p.pa + j else p.pb - (n - 1 - j)

/-- The two ends of an access lie in the lines of its first and its last byte, as they do when translations keep the
place in the page. -/
def Spot.Placed (p : Spot) (n : Nat) : Prop :=
  n ≤ p.pb + 1 + (128 - p.pa % 128) ∧ ∀ j < n, lineOf (p.place n j) = lineOf (if j < 128 - p.pa % 128 then p.pa else p.pb)

/-- What a store or an atomic writes or brings in a thread, as a number of the access's size. -/
def Cx.storeData (c : Cx) (lane : Nat) : Nat :=
  match c.op with
  | .stf => c.stfValue lane
  | .st => c.words (szN (c.x.m 0 3)) lane c.x.b % 256 ^ c.access.size
  | _ => c.words (szN (c.x.m 0 2)) lane c.x.b % 256 ^ c.access.size

/-- ORD of a store: 0, or a scope plus one (R337, R99). -/
def Cx.ordOf (c : Cx) : Nat := match c.op with | .st => c.x.m 5 3 | .stf => c.x.m 9 3 | _ => c.x.m 4 3

/-- The number that bytes make, the first the lowest. -/
def leNat (n : Nat) (f : Nat → Byte) : Nat := ((List.range n).map fun j => (f j).toNat * 256 ^ j).sum

/-- A message that a core has sent: on the mesh, or waiting for an entry (R57). -/
def State.sent (s : State) (m : Msg) : Prop := m ∈ s.net ∨ m ∈ s.rejected

/-! ### Steps of the part -/

/-- The step goes on, to a state for which p holds. -/
def Goes (e : Instr) (s : State) (p : State → Prop) : Prop := ∃ t, exec e s = .next t ∧ p t

/-- The message that the step delivers: it is on its way, nothing is before it that it may not overtake (R21), and its
receiver has not stopped. -/
structure Arrives (s : State) (m : Msg) : Prop where
  found : s.net.find? (fun o => o.id = s.arg.n) = some m
  first : s.overtaken m = false
  up : s.dieDown m.dst = false

/-- The home serves the request as it comes: it is in service, no request of the line waits, its sender is no dead incarnation,
and no holder must be asked. -/
structure Served (s : State) (m : Msg) : Prop where
  up : s.homeUp m.dst = true
  band : s.hbmFree m.dst (lineOf m.addr) = true
  idle : s.queueOf (lineOf m.addr) = ⟨lineOf m.addr, [], [], false⟩
  alive : s.isDead m.dst m.agent m.inc = false
  timely : s.deadDue m.dst m.agent m.inc = false
  free : s.lineState m.dst (lineOf m.addr) ∉ [LineSt.excl, .fwd, .recall]
  backed : isCompanion m.addr = true → s.backed m.addr = true

/-- Answer a to request q has left the home, as a message of the home's own agent: over the mesh, or to wait for the companion's
memory (R22, R84). -/
def State.answered (t : State) (home : Nat) (q a : Msg) : Prop :=
  ∃ id, { a with
      id := id, tag := q.tag, src := home, dst := if agentKind q.agent = 6 then t.halfOf q.addr else q.src
      agent := homeAgent home, inc := t.incOf (homeAgent home) } ∈
    (if 256 ≤ home ∧ a.ty ≠ .watchFire then t.kelvia else t.net)

/-- The time at which a write that comes now performs at its home, by its entry (R63). -/
def State.performs (s : State) (home line : Nat) (r : Region) : Nat :=
  max (max (s.tcAt home) (max r.lmax (s.takenOver line) + s.eAt home)) r.wmax

/-- An agent's holder entry for a lease line that it has been granted. -/
def State.holder (s : State) (agent line inc : Nat) (h : Hold) : Prop :=
  s.holds.find? (fun h => h.agent = agent && h.line = line && h.st = 1 && h.inc = inc) = some h

/-- No chunk of the copy is being written. -/
def State.resting (s : State) (copy : Nat) : Prop := ∀ c ∈ s.copies, c.id = copy → c.chunks = []

/-- A warp that goes on, on a die in service. -/
structure Working (s : State) (k : WarpKey) (w : Warp) : Prop where
  warp : s.warp? k = some w
  ordinary : k.ctx = 0
  live : w.r.live ≠ 0
  here : w.parked = false
  team : ∀ tm, s.team? k.teamKey = some tm → tm.resident = true ∧ s.dieDown tm.die = false

/-- Nothing but warps is at work: every team runs with its arguments, and no Pod, stream, paused copy, matrix entry or
queue waits for anything. -/
structure State.Calm (s : State) : Prop where
  teams : ∀ p ∈ s.teams, p.2.resident = true ∧ p.2.args.isSome = true ∧ s.dieDown p.2.die = false ∧
    ∃ q ∈ s.warps, q.1.teamKey = p.1 ∧ q.1.ctx = 0 ∧ q.2.r.live ≠ 0 ∧ q.2.parked = false
  pods : s.pods = []
  overs : ∀ q ∈ s.overs, q.op = Option.none
  streams : ∀ q ∈ s.warps, q.2.streaming = false
  copies : ∀ c ∈ s.copies, c.paused = Option.none
  mats : s.mats = []
  queues : ∀ q ∈ s.queues, q.mapped = false

/-! ### Safe steps -/

/-- A step is safe when the machine goes on: no instruction of a warp that runs stops it. -/
def State.safe (s : State) : Prop := ∃ t, step s = .next t

/-- The byte that reading a physical address gives. -/
def State.byteAt (s : State) (a : Nat) : Byte := s.mem.get 0 a

/-- No byte of memory reads differently. -/
def SameMemory (s t : State) : Prop := ∀ a, t.byteAt a = s.byteAt a

/-- The registers of `ws` in the threads of `m` are the only V, F, P and S registers that may read differently. -/
def OnlyWrites (nS : Nat) (ws : List (File × Nat)) (m : Mask) (r t : Regs) : Prop :=
  (∀ n l, l < 128 → ¬ ((File.v, n) ∈ ws ∧ m.getLsbD l = true) → t.getV n l = r.getV n l) ∧
  (∀ n l, l < 128 → ¬ ((File.f, n) ∈ ws ∧ m.getLsbD l = true) → t.getF n l = r.getF n l) ∧
  (∀ n l, l < 128 → ¬ ((File.p, n) ∈ ws ∧ m.getLsbD l = true) → t.getP n l = r.getP n l) ∧
  (∀ n, (∀ i, (File.s, i) ∈ ws → sWord nS i ≠ sWord nS n) → t.getS nS n = r.getS nS n)

/-- Every register beside V, F, P, S and the program counter is the same: streams, masks, stacks, trap and item
registers, floors, accumulators of recruitments and matrix records. -/
def RestKept (r t : Regs) : Prop :=
  t.x = r.x ∧ t.live = r.live ∧ t.mask = r.mask ∧ t.stack = r.stack ∧ t.hstack = r.hstack ∧ t.imask = r.imask ∧ t.ipc = r.ipc ∧
  t.tstat = r.tstat ∧ t.fcause = r.fcause ∧ t.faddr = r.faddr ∧ t.lpc = r.lpc ∧ t.hfault = r.hfault ∧
  t.item = r.item ∧ t.hidx = r.hidx ∧ t.hcount = r.hcount ∧
  t.floor = r.floor ∧ t.copySeq = r.copySeq ∧ t.spanRef = r.spanRef ∧ t.recr = r.recr ∧ t.mrecs = r.mrecs

end Sys2Proof.Machine
end

