-- ==== Sys2Proof/Certificates/Slice0/Obligations.lean ====
section
/-! DEFINITION. The statements about the model, one definition each. -/

section

open Sys2Proof Sys2Proof.Machine

/-! ### Encoding -/

/-- For every instruction that words encode and that passes the checks of R236, decoding the words of its encoding,
whatever words follow them, gives it back with its number of words. -/
def Obligations.DecodeInvertsEncode : Prop :=
  ∀ (i : Instr) (rest : List Word), i.wf = true → i.encoded = true →
    decode (encode i ++ rest) = .ok (i, (encode i).length)

/-- Whatever words decode to an instruction are its encoding: no two word sequences share an instruction, and none
has a bit that the decoder passes over (R236). -/
def Obligations.EncodeInvertsDecode : Prop :=
  ∀ (ws : List Word) (i : Instr) (n : Nat), decode ws = .ok (i, n) → encode i = ws.take n ∧ i.wf = true

/-! ### The step -/

/-- When the head of the agenda issues a warp that may issue, no boundary cause is taken, and the words at its program
counter are fetched and decode to an instruction, the step is exec of that instruction at the state in which time has
passed, a RECRUIT's status that is due has been filled, and the warp is the executing one, with the issue's bookkeeping
added to a next state.
When the head of the agenda is a step of the part, the step is exec of it on its argument, with no executing
warp, at the state in which time has passed. -/
def Obligations.StepRunsWhatStands : Prop :=
  (∀ (s s' : State) (k : WarpKey) (rest : List Slot) (w : Warp) (ws : List Word) (i : Instr) (n : Nat),
    s.agenda = .issue k :: rest →
    let s₀ : State := { s.tick with agenda := rest }
    let v := w.readied (s₀.header k).nS s₀.now
    s₀.warp? k = some w → s₀.mayIssue k w = true → w.pending.first = none → w.held = false →
    (s₀.readied k v).fetchInstr k v v.r.pc = (s', .words ws) → decode ws = .ok (i, n) →
    step s = (match exec i { s' with cur := some k } with
      | .next t => .next (t.issued k)
      | r => r)) ∧
  (∀ (s : State) (i : Instr) (a : EvArg) (rest : List Slot), s.agenda = .event i a :: rest → i.encoded = false →
    step s = exec i { s.tick with agenda := rest, arg := a, cur := none })

/-! ### What comes before an instruction's effect -/

/-- Decode's checks in their order (R237): words that are no instruction, or one that a check of R236 refuses, trap
ILLEGAL; a register that is not declared traps ALLOC (R182); an empty source with its T bit set traps FE (R177), with
its selector, its position and the thread; poison in a V or F register that a thread reads traps ECC (R458); each precisely,
with nothing of the instruction performed. -/
def Obligations.DecodeChecksTrap : Prop :=
  (∀ (s : State) (k : WarpKey) (w : Warp) (ws : List Word) (e : DecodeError), decode ws = .error e →
    s.runWords k w ws = .next (s.trap k w ⟨cIllegal, 0, 0, wholeWarp, 0, w.r.pc, false, false, false⟩)) ∧
  (∀ (i : Instr) (s : State) (k : WarpKey) (w : Warp) (op : Op) (x : Ext) (len : Nat),
    instrForm i = some (op, x, len) → s.running = some (k, w) →
    (x.check op ≠ none → Traps i (cx s k w op x) cIllegal 0 0 wholeWarp 0) ∧
    (x.check op = none → s.namesOk k w op x = false → Traps i (cx s k w op x) cAlloc 0 0 wholeWarp 0) ∧
    (∀ pos p lane, x.check op = none → s.namesOk k w op x = true →
      readiness (s.header k).nS w (w.r.takes x) op (w.named op x) = .fe pos p lane →
      Traps i (cx s k w op x) cFe (selOf p % 256) (selOf p / 256 % 4 + pos * 16) lane 0) ∧
    (∀ pos fl n l, x.check op = none → s.namesOk k w op x = true → fullness w (w.r.takes x) op (w.named op x) = .go →
      (pos, fl, n) ∈ readsOf op (w.named op x) → fl = .v ∨ fl = .f → l < 128 → (w.r.takes x).getLsbD l = true → (⟨fl, n, l⟩ : Dest) ∈ w.r.bad →
      ∃ lane ≤ l, Traps i (cx s k w op x) cEcc 0 0 lane 0))

/-! ### Integer, address and predicate instructions -/

/-- R250: with the sources read as signed or unsigned under the type, D becomes the exact value reduced modulo 2 to
the type's width, or clamped to the type's range under SAT.
R251: a zero divisor in a thread that takes part traps DIVZERO without NT, with nothing performed; otherwise D
becomes the quotient, truncated towards zero, or the remainder. -/
def Obligations.IntegerArithmetic : Prop :=
  (∀ (i : Instr) (c : Cx) (len : Nat), Executes i c len →
     c.op ∈ [Op.iadd, .isub, .imul, .imulh, .imad, .imin, .imax, .iabs] →
     let n := tyN c.x.ty
     let sgn := tySigned c.x.ty
     EachThread i c len fun t l =>
       t.src n l c.x.d = narrow sgn (c.x.m 4 1 = 1) (32 * n)
         (exactArith c.op (32 * n) (valueOf sgn (c.src n l c.x.a)) (valueOf sgn (c.src n l c.x.b)) (valueOf sgn (c.src n l c.x.d)))) ∧
  (∀ (i : Instr) (c : Cx) (len : Nat), Executes i c len → c.op ∈ [Op.idiv, .irem] →
     let n := tyN c.x.ty
     let sgn := tySigned c.x.ty
     let nt : Prop := c.x.m 5 1 = 1
     ((∀ l ∈ lanesOf c.m, c.src n l c.x.b ≠ 0 ∨ nt) →
       EachThread i c len fun t l =>
         let q := quotRem sgn (c.x.m 4 1 = 1) (32 * n) (valueOf sgn (c.src n l c.x.a)) (valueOf sgn (c.src n l c.x.b))
         t.src n l c.x.d = BitVec.ofInt (32 * n) (if c.op = .idiv then q.1 else q.2)) ∧
     (∀ l ∈ lanesOf c.m, c.src n l c.x.b = 0 → ¬ nt → (∀ j ∈ lanesOf c.m, j < l → c.src n j c.x.b ≠ 0) →
       Traps i c cDivzero 0 0 l 0))

/-- R252: logic, shifts by the unsigned 32-bit B, rotation, reversal, and the counts, whose D is a 32-bit
position.
R253: BFX takes the effective field out of A, extended under the type; BFI puts the low bits of A into D's
effective field and leaves D's other bits.
R255 and R256: MOV copies A, MOVL the literal, and SEL takes A, B or C as the predicate of IMM8 is TRUE, FALSE or
UNDECIDED.
R259: PMOV between predicates, to and from words, and all predicates of a thread packed in one word. -/
def Obligations.LogicFieldsAndMoves : Prop :=
  ((∀ (i : Instr) (c : Cx) (len : Nat), Executes i c len →
     let n := tyN c.x.ty
     (c.op ∈ [Op.iand, .ior, .ixor, .inot, .shl, .shr, .sar, .rot, .brev] →
       EachThread i c len fun t l => t.src n l c.x.d = bitwise c.op (c.src n l c.x.a) (c.src n l c.x.b) (c.src 1 l c.x.b).toNat) ∧
     (c.op ∈ [Op.popc, .clz] →
       EachThread i c len fun t l => t.src 1 l c.x.d = BitVec.ofNat 32 (countBits c.op (c.src n l c.x.a)))) ∧
   (∀ (i : Instr) (c : Cx) (len : Nat), Executes i c len →
     let n := tyN c.x.ty
     (c.op = .bfx →
       EachThread i c len fun t l =>
         let f := effField (32 * n) (c.src 1 l c.x.b)
         t.src n l c.x.d = if tySigned c.x.ty then ((c.src n l c.x.a).extractLsb' f.1 f.2).signExtend (32 * n)
           else ((c.src n l c.x.a).extractLsb' f.1 f.2).setWidth (32 * n)) ∧
     (c.op = .bfi →
       EachThread i c len fun t l =>
         let f := effField (32 * n) (c.src 1 l c.x.b)
         ∀ j, j < 32 * n → (t.src n l c.x.d).getLsbD j =
           if f.1 ≤ j ∧ j < f.1 + f.2 then (c.src n l c.x.a).getLsbD (j - f.1) else (c.src n l c.x.d).getLsbD j))) ∧
  ((∀ (i : Instr) (c : Cx) (len : Nat), Executes i c len →
     let n := tyN c.x.ty
     (c.op = .mov → EachThread i c len fun t l => t.src n l c.x.d = c.src n l c.x.a) ∧
     (c.op = .movl → EachThread i c len fun t l => t.src n l c.x.d = c.src n l .lit) ∧
     (c.op = .sel → EachThread i c len fun t l =>
       let p := c.w.r.getP c.x.imm.toNat l
       (p = Tri.tt → t.src n l c.x.d = c.src n l c.x.a) ∧ (p = Tri.ff → t.src n l c.x.d = c.src n l c.x.b) ∧
       (p = Tri.und → t.src n l c.x.d = c.src n l c.x.c))) ∧
   (∀ (i : Instr) (c : Cx) (len : Nat), Executes i c len → c.op = .pmov →
     let mode := c.x.m 0 3
     (mode = 0 → EachThread i c len fun t l => t.pred l c.x.d = if c.x.d = .p 15 then Tri.tt else c.pred l c.x.a) ∧
     (mode = 1 → WordTo i c len 1 fun l => (c.pred l c.x.a).setWidth 32) ∧
     (mode = 2 → EachThread i c len fun t l =>
       let code : Tri := (c.i32 l c.x.a).extractLsb' 0 2
       t.pred l c.x.d = if c.x.d = .p 15 then Tri.tt else if code = 3 then Tri.und else code) ∧
     (mode = 3 → WordTo i c len 1 fun l => BitVec.ofNat 32 ((List.range 16).map fun n => (c.w.r.getP n l).toNat * 4 ^ n).sum) ∧
     (mode = 4 → EachThread i c len fun t l => ∀ n, n < 15 →
       let code : Tri := (c.i32 l c.x.a).extractLsb' (2 * n) 2
       t.w.r.getP n l = if code = 3 then Tri.und else code)))

/-- R257, R258: ICMP writes TRUE or FALSE as the condition holds, PLOP the Kleene operation; a write to P15 is
discarded, and P15 still reads TRUE (R170). -/
def Obligations.PredicateResults : Prop :=
  ∀ (i : Instr) (c : Cx) (len : Nat), Executes i c len →
    let n := tyN c.x.ty
    let sgn := tySigned c.x.ty
    (c.op = .icmp → EachThread i c len fun t l =>
      (c.x.d = .p 15 → t.pred l c.x.d = Tri.tt) ∧
      (c.x.d ≠ .p 15 →
        (t.pred l c.x.d = Tri.tt ↔ holdsCond (c.x.m 4 4) (valueOf sgn (c.src n l c.x.a)) (valueOf sgn (c.src n l c.x.b))) ∧
        (t.pred l c.x.d = Tri.tt ∨ t.pred l c.x.d = Tri.ff))) ∧
    (c.op = .plop → EachThread i c len fun t l =>
      (c.x.d = .p 15 → t.pred l c.x.d = Tri.tt) ∧
      (c.x.d ≠ .p 15 → level (t.pred l c.x.d) = kleene (c.x.m 0 4) (level (c.pred l c.x.a)) (level (c.pred l c.x.b)) (level (c.pred l c.x.c))))

/-- R260, R261: CVTI reduces or clamps the source's value to the destination type and extends it under that type;
IDOT4 adds four exact products of bytes to D. -/
def Obligations.IntegerConversions : Prop :=
  ∀ (i : Instr) (c : Cx) (len : Nat), Executes i c len →
    let sat : Bool := c.x.m 4 1 = 1
    (c.op = .cvti → EachThread i c len fun t l =>
      let td := c.x.ty
      let ts := c.x.m 8 4
      let v := valueOf (tySigned ts) ((c.int (tyN ts) l c.x.a).setWidth (tyWidth ts))
      t.src (tyN td) l c.x.d = BitVec.ofInt (32 * tyN td) (valueOf (tySigned td) (narrow (tySigned td) sat (tyWidth td) v))) ∧
    (c.op = .idot4 → EachThread i c len fun t l =>
      let byteOf (sgn : Bool) (x : Word) (n : Nat) : Int := valueOf sgn (x.extractLsb' (8 * n) 8)
      let sa : Bool := c.x.m 5 1 = 1
      let sb : Bool := c.x.m 6 1 = 1
      let prod (n : Nat) : Int := byteOf sa (c.i32 l c.x.a) n * byteOf sb (c.i32 l c.x.b) n
      t.src 1 l c.x.d = narrow true sat 32 ((c.i32 l c.x.d).toInt + prod 0 + prod 1 + prod 2 + prod 3))

/-- R254: LEA's sum, and with `.s2v` and `.gs2v` the place in the die's vaults of the byte that a scratch access to the
sum would reach, with the traps of that access. -/
def Obligations.AddressArithmetic : Prop :=
  ∀ (i : Instr) (c : Cx) (len : Nat), Executes i c len → c.op = .lea →
    let n := tyN c.x.ty
    let sum (l : Nat) : BitVec (32 * n) :=
      narrow (tySigned c.x.ty) false (32 * n) (valueOf (tySigned c.x.ty) (c.src n l c.x.a) + (c.i32 l c.x.b).toInt * 2 ^ c.x.m 4 3)
    let place (l : Nat) : ScratchLoc := c.s.scratchLoc c.k c.w (c.x.m 7 2) (sum l).toNat 1
    (c.x.m 7 2 = 0 → EachThread i c len fun t l => t.src n l c.x.d = sum l) ∧
    (c.x.m 7 2 ≠ 0 → (∀ l ∈ lanesOf c.m, (place l).isBad = false) →
      EachThread i c len fun t l => ∀ a, place l = .at a → t.src 1 l c.x.d = BitVec.ofNat 32 a) ∧
    (c.x.m 7 2 ≠ 0 → ∀ l ∈ lanesOf c.m, ∀ cause detail, place l = .bad cause detail →
      (∀ j ∈ lanesOf c.m, j < l → (place j).isBad = false) → Traps i c cause detail 0 l ((sum l).setWidth 64))

/-- Every instruction whose whole effect is on registers completes where no value traps: of the whole state only the
warp's registers change, of them only its destinations in the threads that take part, and the program counter moves
past it. -/
def Obligations.RegisterInstructionsComplete : Prop :=
  ∀ (i : Instr) (c : Cx) (len : Nat), Executes i c len → c.op ∈ registerOps → NoValueTrap c →
    ∃ r, Runs i c len r ∧ OnlyWrites c.nS (writesOf c.op c.x) c.m c.w.r r ∧ RestKept c.w.r r

/-! ### Intervals -/

/-- R204: outside `.pt` an operation with a NaI operand gives NaI, and one with an empty operand otherwise the empty
set, decoration trv.
R206: a `.pt` operation writes one value as both bounds, with decoration trv, or NaI. -/
def Obligations.SpecialAndPointResults : Prop :=
  (∀ (i : Instr) (c : Cx) (len : Nat), Executes i c len → c.op ∈ fltOps1 ++ fltOps2 ++ fltOps3 → isPoint c.op c.x = false →
    let f := opFmt c.op
    EachThread i c len fun t l =>
      let vs := (fltSources c.op c.x).map (c.held f l)
      (.nai ∈ vs → t.held f l c.x.d = .nai) ∧ (.nai ∉ vs → .empty ∈ vs → t.held f l c.x.d = .empty)) ∧
  (∀ (i : Instr) (c : Cx) (len : Nat), Executes i c len → c.op ∈ [Op.fadd, .fsub, .fmul, .ffma, .fdiv, .fsqrt, .fsqr, .frcp, .frsqrt, .fpown, .fldexp] →
    isPoint c.op c.x = true →
    EachThread i c len fun t l =>
      let v := t.flt l c.x.d
      v.lo = v.hi ∧ ((v.dec = Dec.trv ∧ Fmt.fp32.decode v.lo ≠ .nan) ∨ (v.dec = Dec.ill ∧ v.lo = 0x7fc00000)))

/-- R202: the result of an operation that is defined everywhere contains the operation's value at all points of its
operands.
R202, R263: the result of division, reciprocal or square root contains the value at all points of the operands at
which the operation is defined. -/
def Obligations.Encloses : Prop :=
  (∀ (i : Instr) (c : Cx) (len : Nat), Executes i c len →
    c.op ∈ [Op.fadd, .fsub, .fmul, .ffma, .fsqr, .dadd, .dsub, .dmul, .dfma] → isPoint c.op c.x = false →
    let f := opFmt c.op
    EachThread i c len fun t l => ∀ x y z : ℝ,
      (c.taken f l c.x.a).Holds f x → (c.op ≠ .fsqr → (c.taken f l c.x.b).Holds f y) →
      (c.op ∈ [Op.ffma, .dfma] → (c.taken f l c.x.d).Holds f z) → (t.held f l c.x.d).Holds f (realOp c.op x y z)) ∧
  (∀ (i : Instr) (c : Cx) (len : Nat), Executes i c len → c.op ∈ [Op.fdiv, .frcp, .fsqrt, .ddiv, .dsqrt] → isPoint c.op c.x = false →
    let f := opFmt c.op
    EachThread i c len fun t l => ∀ x y : ℝ,
      (c.taken f l c.x.a).Holds f x → (c.op ∈ [Op.fdiv, .ddiv] → (c.taken f l c.x.b).Holds f y) → realDom c.op x y →
      (t.held f l c.x.d).Holds f (realOp c.op x y 0))

/-- R267: FNEG, FABS, FMIN and FMAX give exact bounds, with the operands' least decoration, and com or, when a bound is
infinite, def.
R268: FHULL and FISECT; a NaI operand gives NaI, and every other result has decoration trv. -/
def Obligations.BoundsHullAndIntersection : Prop :=
  (∀ (i : Instr) (c : Cx) (len : Nat), Executes i c len → c.op ∈ [Op.fneg, .fabs, .fmin, .fmax] →
     EachThread i c len fun t l => ∀ a b da,
       c.taken .fp32 l c.x.a = .mk a b da →
       ∀ e g dy, (c.op ∈ [Op.fmin, .fmax] → c.taken .fp32 l c.x.b = .mk e g dy) → (c.op ∈ [Op.fneg, .fabs] → dy = Dec.com) →
       ∃ lo hi d, t.held .fp32 l c.x.d = (Iv.mk lo hi d).flush .fp32 c.x.fzo ∧ lo ≠ .fin true 0 ∧ hi ≠ .fin true 0 ∧
         d = Dec.min (Dec.min da dy) (if lo.isFin && hi.isFin then Dec.com else Dec.dfn) ∧
         (lo.ext .fp32, hi.ext .fp32) =
           let A := a.ext .fp32; let B := b.ext .fp32; let E := e.ext .fp32; let G := g.ext .fp32
           if c.op = .fneg then (-B, -A)
           else if c.op = .fabs then (if 0 ≤ A then (A, B) else if B ≤ 0 then (-B, -A) else (0, max (-A) B))
           else if c.op = .fmin then (min A E, min B G) else (max A E, max B G)) ∧
  (∀ (i : Instr) (c : Cx) (len : Nat), Executes i c len → c.op ∈ [Op.fhull, .fisect] → c.x.fzo = false →
     EachThread i c len fun t l =>
       let x := c.taken .fp32 l c.x.a
       let y := c.taken .fp32 l c.x.b
       let v := t.held .fp32 l c.x.d
       (x = .nai ∨ y = .nai → v = .nai) ∧
       (x ≠ .nai → y ≠ .nai → (v = .empty ∨ ∃ lo hi, v = .mk lo hi Dec.trv) ∧
         ∀ u : ℝ,
           (c.op = .fisect → (v.Holds .fp32 u ↔ x.Holds .fp32 u ∧ y.Holds .fp32 u)) ∧
           (c.op = .fhull → (v.Holds .fp32 u ↔ ∃ p q : ℝ, p ≤ u ∧ u ≤ q ∧ (x.Holds .fp32 p ∨ y.Holds .fp32 p) ∧ (x.Holds .fp32 q ∨ y.Holds .fp32 q)))))

/-- R269, R270: FMK builds an interval from two bit patterns, and FLO and FHI give the patterns of the bounds.
R279: FMOV and FSEL copy an interval, bounds and decoration, and FMOVL an IV64 literal.
R276: FDEC reads, sets and lowers a decoration.
R272: FBIS cuts [a, b] at a point strictly inside, or refuses and copies it. -/
def Obligations.IntervalParts : Prop :=
  (∀ (i : Instr) (c : Cx) (len : Nat), Executes i c len →
    (c.op = .fmk → c.x.fzo = false → EachThread i c len fun t l =>
      let a := Fmt.fp32.decode (c.i32 l c.x.a).toNat
      let b := Fmt.fp32.decode (c.i32 l c.x.b).toNat
      let v := t.held .fp32 l c.x.d
      (a = .nan ∨ b = .nan → v = .nai) ∧
      (a = .inf false → b = .inf true → v = .empty) ∧
      (a ≠ .nan → b ≠ .nan → ¬ (a = .inf false ∧ b = .inf true) →
        (a.ext .fp32 > b.ext .fp32 ∨ a = .inf false ∨ b = .inf true → v = .nai) ∧
        (¬ (a.ext .fp32 > b.ext .fp32 ∨ a = .inf false ∨ b = .inf true) →
          v = .mk a.posZero b.posZero (if a.isFin && b.isFin then Dec.com else Dec.dfn)))) ∧
    (c.op = .flo ∨ c.op = .fhi → EachThread i c len fun t l =>
      let code := (t.src 1 l c.x.d).toNat
      match c.taken .fp32 l c.x.a with
      | .nai => code = 0x7fc00000
      | .empty => code = if c.op = .flo then 0x7f800000 else 0xff800000
      | .mk a b _ => Fmt.fp32.decode code = (if c.op = .flo then a else b).posZero)) ∧
  (∀ (i : Instr) (c : Cx) (len : Nat), Executes i c len → c.x.fzi = false → c.x.fzo = false →
    (c.op = .fmov → EachThread i c len fun t l => t.held .fp32 l c.x.d = c.held .fp32 l c.x.a) ∧
    (c.op = .fmovl → EachThread i c len fun t l => t.held .fp32 l c.x.d = c.held .fp32 l .lit) ∧
    (c.op = .fsel → EachThread i c len fun t l =>
      let p := c.w.r.getP c.x.imm.toNat l
      (p = Tri.tt → t.held .fp32 l c.x.d = c.held .fp32 l c.x.a) ∧ (p = Tri.ff → t.held .fp32 l c.x.d = c.held .fp32 l c.x.b) ∧
      (p = Tri.und → t.held .fp32 l c.x.d = c.held .fp32 l c.x.c))) ∧
  (∀ (i : Instr) (c : Cx) (len : Nat), Executes i c len → c.op = .fdec →
    (c.x.m 0 2 = 0 → EachThread i c len fun t l => t.src 1 l c.x.d = (c.taken .fp32 l c.x.a).dec.setWidth 32) ∧
    (c.x.m 0 2 ≠ 0 → c.x.fzo = false → EachThread i c len fun t l =>
      let b : Dec := (c.i32 l c.x.b).extractLsb' 0 2
      t.held .fp32 l c.x.d = match c.taken .fp32 l c.x.a with
        | .nai => .nai
        | .empty => .empty
        | .mk lo hi d =>
          let k := if c.x.m 0 2 = 1 then b else if b.ult d then b else d
          if k = Dec.ill then .nai else .mk lo hi (if k = Dec.com ∧ ¬ (lo.isFin = true ∧ hi.isFin = true) then Dec.dfn else k))) ∧
  (∀ (i : Instr) (c : Cx) (len : Nat), Executes i c len → c.op = .fbis → c.x.fzo = false →
    EachThread i c len fun t l =>
      let x := c.taken .fp32 l c.x.a
      let v := t.held .fp32 l c.x.d
      (v = x ∧ (∀ n, c.x.e = .p n → n ≠ 15 → t.w.r.getP n.toNat l = Tri.ff)) ∨
      (∃ a b d m d', x = .mk a b d ∧ a.ext .fp32 < m.ext .fp32 ∧ m.ext .fp32 < b.ext .fp32 ∧
        v = (if c.x.m 0 1 = 1 then Iv.mk m b d' else Iv.mk a m d') ∧ (∀ n, c.x.e = .p n → t.w.r.getP n.toNat l = Tri.tt)))

/-- R208, R209: FCMP and DCMP write TRUE where the relation holds at every pair of points, FALSE where it holds at
none, and UNDECIDED otherwise; a NaI operand gives UNDECIDED, and an empty one what R209 gives.
R210: the set tests.
R275: the fields of FCLASS's word. -/
def Obligations.RelationsAndSetTests : Prop :=
  (∀ (i : Instr) (c : Cx) (len : Nat), Executes i c len → c.op ∈ [Op.fcmp, .dcmp] → c.x.d ≠ .p 15 →
     let f := opFmt c.op
     let rel := c.x.m 0 3
     EachThread i c len fun t l =>
       let x := c.taken f l c.x.a
       let y := c.taken f l c.x.b
       let v := t.pred l c.x.d
       (x = .nai ∨ y = .nai → v = Tri.und) ∧
       (x ≠ .nai → y ≠ .nai → x = .empty ∨ y = .empty →
         v = match rel with
           | 2 => if x = .empty ∧ y = .empty then Tri.tt else Tri.ff
           | 3 => if x = .empty ∧ y = .empty then Tri.ff else Tri.tt
           | _ => Tri.ff) ∧
       (∀ a b da e g dy, x = .mk a b da → y = .mk e g dy →
         let A := a.ext f; let B := b.ext f; let E := e.ext f; let G := g.ext f
         (v = Tri.tt ↔ relTrue rel A B E G) ∧ (v = Tri.ff ↔ relFalse rel A B E G ∧ ¬ relTrue rel A B E G) ∧ (v = Tri.tt ∨ v = Tri.ff ∨ v = Tri.und))) ∧
  ((∀ (i : Instr) (c : Cx) (len : Nat), Executes i c len → c.op = .fset → c.x.d ≠ .p 15 →
     let test := c.x.m 0 3
     EachThread i c len fun t l =>
       let x := c.taken .fp32 l c.x.a
       let y := c.taken .fp32 l c.x.b
       let v := t.pred l c.x.d
       (v = Tri.tt ∨ v = Tri.ff) ∧
       (test < 3 → (x = .nai ∨ y = .nai → v = Tri.ff) ∧
         (x = .empty → y ≠ .nai → v = Tri.tt) ∧ (x ≠ .nai → x ≠ .empty → y = .empty → (v = Tri.tt ↔ test = 2)) ∧
         ∀ a b da e g dy, x = .mk a b da → y = .mk e g dy →
           let A := a.ext .fp32; let B := b.ext .fp32; let E := e.ext .fp32; let G := g.ext .fp32
           (test = 0 → (v = Tri.tt ↔ E ≤ A ∧ B ≤ G)) ∧
           (test = 1 → (v = Tri.tt ↔ (E < A ∨ (A = E ∧ A = ⊥)) ∧ (B < G ∨ (B = G ∧ B = ⊤)))) ∧
           (test = 2 → (v = Tri.tt ↔ B < E ∨ G < A))) ∧
       (test = 3 → (v = Tri.tt ↔ x.Holds .fp32 0)) ∧
       (test = 4 → (v = Tri.tt ↔ x = .empty)) ∧
       (test = 5 → (v = Tri.tt ↔ ∀ u : ℝ, x.Holds .fp32 u)) ∧
       (test = 6 → (v = Tri.tt ↔ ∃ a b d, x = .mk a b d ∧ a.ext .fp32 = b.ext .fp32))) ∧
   (∀ (i : Instr) (c : Cx) (len : Nat), Executes i c len → c.op = .fclass →
     EachThread i c len fun t l =>
       let w : Word := t.src 1 l c.x.d
       match c.taken .fp32 l c.x.a with
       | .nai => w = 1
       | .empty => w = 0x802
       | .mk a b d =>
         let A := a.ext .fp32; let B := b.ext .fp32
         let sub (p : Pt) : Prop := ∃ neg n, p = .fin neg n ∧ 0 < n ∧ n < 2 ^ 23
         w.extractLsb' 13 19 = 0 ∧ w.extractLsb' 11 2 = d ∧ (w.getLsbD 10 ↔ sub a ∨ sub b) ∧ (w.getLsbD 9 ↔ B = ⊤) ∧ (w.getLsbD 8 ↔ A = ⊥) ∧
         (w.getLsbD 7 ↔ B < 0) ∧ (w.getLsbD 6 ↔ 0 < A) ∧ (w.getLsbD 5 ↔ A ≤ 0 ∧ 0 ≤ B) ∧ (w.getLsbD 4 ↔ A ≠ ⊥ ∧ B ≠ ⊤) ∧ (w.getLsbD 3 ↔ A = B) ∧
         (w.getLsbD 2 ↔ A = ⊥ ∧ B = ⊤) ∧ w.getLsbD 1 = false ∧ w.getLsbD 0 = false))

/-! ### Control flow -/

/-- R377, R378: BRA and CALL act when every active thread takes part, do nothing when none does, and trap RECONV when
some do; CALL pushes a call entry if it fits.
R377, R378: JMPX goes to A, which must be one value in every active thread, a multiple of 4 and within 56 bits.
R372: BRC sends the active threads to three paths by the predicate, runs the first that is not empty, and pushes
the reconvergence entry and the other paths, the last one first.
R373: BRM sends each thread to the first pair whose predicate is TRUE, or to the fall-through if an UNDECIDED
predicate comes first or none is TRUE. -/
def Obligations.Branches : Prop :=
  ((∀ (i : Instr) (c : Cx) (len : Nat) (j : BitVec 22), Executes i c len →
     (i = .bra j ∨ (∃ g gs, i = .braX j g gs) ∨ i = .call j ∨ ∃ g gs, i = .callX j g gs) →
     let r := c.w.r
     let target := r.pc + j.signExtend 64 * 4
     (c.m = 0 → Becomes i c (c.with (c.past len))) ∧
     (c.m ≠ 0 → c.m ≠ r.mask → Traps i c cReconv 0 0 wholeWarp 0) ∧
     (c.m ≠ 0 → c.m = r.mask →
       (c.op = .bra → Becomes i c (c.with { r with pc := target })) ∧
       (c.op = .call → r.cur.length < stackSize (c.s.header c.k) c.w →
         Pushes i c { r.setCur (⟨r.mask, (c.past len).pc, 0, 2⟩ :: r.cur) with pc := target }) ∧
       (c.op = .call → ¬ r.cur.length < stackSize (c.s.header c.k) c.w → Traps i c cAlloc 0 0 wholeWarp 0))) ∧
   (∀ (i : Instr) (c : Cx) (len : Nat), Executes i c len → c.op = .jmpx →
     let r := c.w.r
     let l := lowest c.m
     let target := c.i64 l c.x.a
     let one : Prop := c.m = r.mask ∧ ∀ t ∈ lanesOf c.m, c.i64 t c.x.a = target
     (c.m = 0 → Becomes i c (c.with (c.past len))) ∧
     (c.m ≠ 0 → ¬ one → Traps i c cReconv 0 0 wholeWarp 0) ∧
     (c.m ≠ 0 → one →
       (target.toNat % 4 ≠ 0 → Traps i c cMisalign 0 0 l target) ∧
       (target.toNat % 4 = 0 → 2 ^ 56 ≤ target.toNat → Traps i c cProt 6 0 l target) ∧
       (target.toNat % 4 = 0 → target.toNat < 2 ^ 56 →
         (c.x.m 0 1 = 0 → Becomes i c (c.with { r with pc := target })) ∧
         (c.x.m 0 1 = 1 → r.cur.length < stackSize (c.s.header c.k) c.w →
           Pushes i c { r.setCur (⟨r.mask, (c.past len).pc, 0, 2⟩ :: r.cur) with pc := target }) ∧
         (c.x.m 0 1 = 1 → ¬ r.cur.length < stackSize (c.s.header c.k) c.w → Traps i c cAlloc 0 0 wholeWarp 0))))) ∧
  ((∀ (c : Cx) (len : Nat) (p : BitVec 4) (tC : Bool) (lit : DWord), Executes (.brc p tC lit) c len →
     c.w.emptyIn c.w.r.mask (.p, p.toNat) = false →
     let r := c.w.r
     let offset (n : Nat) : DWord := ((lit.extractLsb' (16 * n) 16).signExtend 64) * 4
     ∃ t f u : Mask, IsSet t r (fun l => r.getP p.toNat l = Tri.tt) ∧ IsSet f r (fun l => r.getP p.toNat l = Tri.ff) ∧
       IsSet u r (fun l => r.getP p.toNat l = Tri.und) ∧
       ((t ≠ 0 ∨ f ≠ 0 ∨ u ≠ 0) →
         Divided (.brc p tC lit) c [(t, r.pc + offset 0), (f, r.pc + offset 1), (u, r.pc + offset 2)] (r.pc + offset 3))) ∧
   (∀ (c : Cx) (len : Nat) (p3 p2 p1 p0 : BitVec 4) (jn : BitVec 16) (lit : DWord) (n : Nat),
     let i := Instr.brm p3 p2 p1 p0 jn lit
     Executes i c len → n = brmPairs lit → c.w.r.mask ≠ 0 →
     let r := c.w.r
     let ps := [p0.toNat, p1.toNat, p2.toNat, p3.toNat]
     let is (l a : Nat) (v : Tri) : Prop := r.getP (ps.getD a 0) l = v
     (∀ a < n, c.w.emptyIn r.mask (.p, ps.getD a 0) = false) →
     ∃ (ms : List Mask) (fall : Mask), ms.length = n ∧
       (∀ a < n, IsSet (ms.getD a 0) r fun l => is l a Tri.tt ∧ ∀ b < a, ¬ is l b Tri.tt ∧ ¬ is l b Tri.und) ∧
       IsSet fall r (fun l => ∀ a < n, ¬ (is l a Tri.tt ∧ ∀ b < a, ¬ is l b Tri.tt ∧ ¬ is l b Tri.und)) ∧
       Divided i c ((List.range n).map (fun a => (ms.getD a 0, r.pc + ((lit.extractLsb' (16 * a) 16).signExtend 64) * 4)) ++ [(fall, r.pc + 20)])
         (r.pc + jn.signExtend 64 * 4)))

/-- R374, R378, R375: JOIN and RET trap RECONV unless the top entry is theirs; else entries are popped until one holds
a live thread, whose mask and address the warp takes; poison in a spilled entry that is read back ends the grid with code 17
(R458).
R379, R375: an EXIT of some of the live threads of a launched warp takes them out of the live set, the current mask and every stack
entry, and the others go on behind it; the last thread's EXIT waits while operations that R379 names are outstanding. -/
def Obligations.PopsAndExits : Prop :=
  (∀ (i : Instr) (c : Cx) (len : Nat), Executes i c len → c.op = .join ∨ c.op = .ret →
     let r := c.w.r
     let own (e : SEntry) : Prop := if c.op = .join then e.kind ≠ 2 ∧ e.join = r.pc else e.kind = 2
     ((r.cur = [] ∨ ∃ e es, r.cur = e :: es ∧ ¬ own e) → Traps i c cReconv 0 0 wholeWarp 0) ∧
     (∀ (dead : List SEntry) (e : SEntry) (rest : List SEntry), r.cur = dead ++ e :: rest → (∀ d ∈ (dead ++ [e]).head?, own d) →
       (∀ d ∈ dead, d.mask &&& r.live = 0) → e.mask &&& r.live ≠ 0 →
       let r' (pc : DWord) : Regs := { r.setCur rest with mask := e.mask &&& r.live, pc := pc }
       let lost (s : State) : Bool := s.spillBad c.k c.w (rest.length - 32) (r.cur.length - 32)
       (e.kind ≠ 1 → lost c.s = false → Becomes i c { c.w with r := r' e.pc, wait := .none }) ∧
       (e.kind ≠ 1 → lost c.s = true → exec i c.s = .next (c.s.endGrid c.k.grid 17)) ∧
       (∀ s' x xs, e.kind = 1 → c.s.fetchFirst c.k c.w e.join = (s', .words (x :: xs)) → lost s' = false →
         exec i c.s = .next (s'.setWarp c.k { c.w with r := r' (e.join + BitVec.ofNat 64 (wordLen x)), wait := .none })))) ∧
  (∀ (i : Instr) (c : Cx) (len : Nat), Executes i c len → c.op = .exit → c.w.sprout = Option.none →
     c.w.outs.findSome? (·.stop) = Option.none →
     (c.m = 0 → Becomes i c (c.with (c.past len))) ∧
     (c.w.r.mask &&& ~~~c.m ≠ 0 → c.w.r.live &&& ~~~c.m ≠ 0 → c.m ≠ 0 → (c.w.r.recr.state = 0 ∨ c.m.getLsbD c.w.r.recr.lane = false) →
       ∃ t, exec i c.s = .next t ∧ t.mem = c.s.mem ∧ t.warp? c.k = some (c.with { c.past len with
         live := c.w.r.live &&& ~~~c.m
         mask := c.w.r.mask &&& ~~~c.m
         imask := c.w.r.imask &&& ~~~c.m
         stack := c.w.r.stack.map fun e => { e with mask := e.mask &&& ~~~c.m }
         hstack := c.w.r.hstack.map fun e => { e with mask := e.mask &&& ~~~c.m } })) ∧
     (c.m ≠ 0 → c.w.r.live &&& ~~~c.m = 0 → (∃ o ∈ c.w.outs, o.finished = false ∧ (o.ctr = some .km ∨ o.ctr = some .ks ∨ o.ctr = some .kx ∨ o.kind = .span)) →
       Waits i c))

/-- R102, R228, R380: BARSYNC (barsync) and its extended form (barsyncX) complete. With no thread taking part each goes on to the
next instruction. With every live thread taking part, once a fence of its scope holds, it completes where every other member has
arrived or ended: every member goes on, this warp past the instruction; in a Sheller warp it completes at once; a warp that
is not the last to arrive takes a next state in which it waits as arrived. In a sprout it traps ILLEGAL, as `.die` does
outside a cooperative launch and in a Sheller warp, and with only some live threads it traps RECONV. -/
def Obligations.BarrierSynchronises : Prop :=
  ∀ (i : Instr) (c : Cx) (len : Nat), Executes i c len → c.op = .barsync →
    let sc := c.x.m 0 2
    let closed : Prop := sc = 2 ∧ (c.w.sheller = true ∨ (c.s.grid? c.k.grid).any (fun g : Grid => g.coop) = false)
    (c.m = 0 → Becomes i c (c.with (c.past len))) ∧
    (c.m ≠ 0 → c.w.sprout.isSome = true → Traps i c cIllegal 0 0 wholeWarp 0) ∧
    (c.m ≠ 0 → c.w.sprout = Option.none → closed → Traps i c cIllegal 0 0 wholeWarp 0) ∧
    (c.m ≠ 0 → c.w.sprout = Option.none → ¬ closed →
      let e := if sc = 1 ∧ (c.s.gangOf c.k.teamKey = 1 ∨ c.w.sheller = true) then 0 else sc
      let done : Warp := { c.w with r := c.past len, wait := .none }
      (c.m ≠ c.w.r.live → Traps i c cReconv 0 0 wholeWarp 0) ∧
      (c.m = c.w.r.live → (∀ sc n, c.w.wait ≠ .barsync sc n) →
        let may : Prop := c.w.settled = true ∧ c.w.acquiring = false ∧ c.s.fenceHolds c.w e = true
        let here : Prop := (∀ p ∈ c.s.warps, p.1 ≠ c.k → c.s.barMember c.k e p = true → p.2.r.live = 0 ∨ p.2.atBarrier e = true) ∧ (e = 2 → c.s.barPlaced c.k = true)
        (¬ may → exec i c.s = .next (c.s.stall c.k (.fence e))) ∧
        (may → c.w.sheller = true → Becomes i c done) ∧
        (may → c.w.sheller = false → c.k.team ∈ c.s.barTeams c.k e →
          (¬ here → Becomes i c { c.w with wait := .barsync e len, active := false }) ∧
          (here → ∃ t, exec i c.s = .next t ∧ SameMemory c.s t ∧ t.warp? c.k = some { done with active := false } ∧
            ∀ k w, k ≠ c.k → c.s.warp? k = some w → t.warp? k = some (if c.s.barMember c.k e (k, w) then w.leave else w)))))

/-- R381: WAITK goes on once the counter is at or below A, and waits at the instruction until then. R383, R384: NOP
does nothing, YIELD and SLEEP nothing but for the scheduler, and BRKPT traps BREAK. R382: WAITM traps PROT for an
address of 2^56 or more and MISALIGN for one below it that is not aligned; else it reads the word with a single-use
read; once it is bound and passes the test, D takes it and E is TRUE in every thread that takes part, whose floors
have risen to the read's W. -/
def Obligations.WaitingInstructions : Prop :=
  ((∀ (i : Instr) (c : Cx) (len : Nat), Executes i c len → c.op = .waitk →
     let n := c.w.counter (match c.x.m 0 2 with | 0 => .kg | 1 => .ks | 2 => .km | _ => .kx)
     ((c.m = 0 ∨ n ≤ (c.i32 (lowest c.m) c.x.a).toNat) → Becomes i c (c.with (c.past len))) ∧
     (c.m ≠ 0 → ¬ n ≤ (c.i32 (lowest c.m) c.x.a).toNat → c.w.outs.findSome? (·.stop) = Option.none → Waits i c)) ∧
   (∀ (i : Instr) (c : Cx) (len : Nat), Executes i c len →
     (c.op = .nop → Becomes i c (c.with (c.past len))) ∧
     (c.op = .yield → ∃ a, Becomes i c { c.w with r := c.past len, active := a } ∧
       (a = false ↔ c.m ≠ 0 ∧ ∃ p ∈ c.s.warps, p.1 ≠ c.k ∧ p.2.die = c.w.die ∧ p.2.core = c.w.core ∧ p.2.active = false ∧
         p.2.parked = false ∧ p.2.halted = false ∧ p.2.trapping = Option.none ∧ p.2.r.live ≠ 0 ∧ p.2.wait.ready = true)) ∧
     (c.op = .sleep →
       (c.m = 0 → Becomes i c (c.with (c.past len))) ∧
       (c.m ≠ 0 → c.w.wait = .none → ∃ t, exec i c.s = .next t ∧ t.warp? c.k = some { c.w with
         wait := .sleep (c.s.tcAt c.w.die + min 1000000 (c.i32 (lowest c.m) c.x.a).toNat) len, active := false }) ∧
       (∀ till n, c.m ≠ 0 → c.w.wait = .sleep till n → till ≤ c.s.tcAt c.w.die → Becomes i c { c.w with r := c.past len, wait := .none })) ∧
     (c.op = .brkpt → c.w.sprout = Option.none → Traps i c cBreak 0 0 wholeWarp 0))) ∧
  (∀ (i : Instr) (c : Cx) (len : Nat), Executes i c len → c.op = .waitm → c.w.sprout = Option.none → c.m ≠ 0 →
     let l := lowest c.m
     let size := if c.x.m 3 1 = 1 then 8 else 4
     let va := c.i64 l c.x.a
     (c.w.wait = .none → c.w.settled = true → c.w.acquiring = false →
       (2 ^ 56 ≤ va.toNat → Traps i c cProt 6 0 l va) ∧
       (va.toNat < 2 ^ 56 → va.toNat % size ≠ 0 → Traps i c cMisalign 0 0 l va) ∧
       (∀ s' pa, va.toNat % size = 0 → va.toNat < 2 ^ 56 → c.s.translate c.w.die c.w.core (c.s.asidOf c.k) kLoad va.toNat = (s', .ok pa) →
         s'.canSend c.k c.w 1 = true →
         exec i c.s = .next ((s'.askLine c.w.die c.w.core (lineOf pa) 0 true (.waitm c.k)).stall c.k (.waitmRead (c.s.tcAt c.w.die) pa)))) ∧
     (∀ t0 pa w data, c.w.wait = .waitmGot t0 pa w 0 data →
       let v := lineNat data (pa % 128) size
       let b := if size = 8 then (c.i64 l c.x.b).toNat else (c.i32 l c.x.b).toNat
       (match c.x.m 0 3 with | 0 => v ≠ b | 1 => v = b | 2 => b ≤ v | _ => v < b) →
       ∃ r, Becomes i c { c.w with r := r, wait := .none } ∧ r.pc = (c.past len).pc ∧
         (c.after r).src (size / 4) l c.x.d = BitVec.ofNat (32 * (size / 4)) v ∧
         ∀ t ∈ lanesOf c.m, (∀ n, c.x.e = .p n → r.getP n.toNat t = Tri.tt) ∧ max (c.w.r.floor.get 0 t) w ≤ r.floor.get 0 t))

/-! ### Memory instructions -/

/-- R340: the range of every address is checked before the alignment of any, each in the lowest thread that fails; a
scratch access that its space does not hold has the trap of R120. A store's checks come once its ORD lets it go (R345). -/
def Obligations.AccessChecksTrap : Prop :=
  ∀ (i : Instr) (c : Cx) (len : Nat), Executes i c len → c.op ∈ [Op.ld, .ldf, .sld, .st, .stf, .sst, .atom, .atomf, .red, .cas] →
    (c.op ∈ [Op.atom, .atomf, .red, .cas] → c.x.m 8 1 = 0) → c.m ≠ 0 →
    let a := c.access
    let ctr : Ctr := if a.sp = 0 then .kg else .ks
    c.mayStart ctr (c.op ∈ [Op.ld, .ldf, .sld]) = true →
    (c.op ∈ [Op.st, .stf, .sst] → (c.ordOf = 0 ∨ c.s.fenceHolds c.w (c.ordOf - 1) = true) ∧ (c.ordOf = 6 → c.w.r.spanRef = 0)) →
    let far (l : Nat) : Prop := a.sp = 0 ∧ 2 ^ 56 ≤ c.accByte l
    let loc (l : Nat) : ScratchLoc := c.s.scratchLoc c.k c.w a.sp (c.accByte l) a.size
    let bad (l : Nat) : Prop := a.sp ≠ 0 ∧ (loc l).isBad = true
    let odd (l : Nat) : Prop := c.accByte l % a.align ≠ 0
    let first (p : Nat → Prop) (l : Nat) : Prop := l ∈ c.accLanes ∧ p l ∧ ∀ j ∈ c.accLanes, j < l → ¬ p j
    ∀ l, (first far l → Traps i c cProt 6 0 l (c.accAddr l)) ∧
      (∀ cause detail, first bad l → loc l = .bad cause detail → Traps i c cause detail 0 l (c.accAddr l)) ∧
      ((∀ j ∈ c.accLanes, ¬ far j ∧ ¬ bad j) → first odd l → Traps i c cMisalign 0 0 l (c.accAddr l))

/-- R343, R348, R351, R126: a global load whose lines the core's L1 holds binds its bytes at once: D takes them, the
floors of the threads rise to the copies' perform times, and the warp goes on with nothing outstanding.
R343, R351, R56, R176: a global load none of whose lines the L1 holds is sent: its destinations are empty, it raises
KG, and a read of each line is under way; memory is as it was. -/
def Obligations.GlobalLoads : Prop :=
  (∀ (i : Instr) (c : Cx) (len : Nat), Executes i c len → c.op ∈ [Op.ld, .ldf, .sld] → c.access.sp = 0 → c.m ≠ 0 → c.w.outs = [] →
    ∀ (s' : State) (spots : List Spot) (hit : Nat → L1Line), Passes c s' spots → (∀ p ∈ spots, p.Placed c.access.size) →
      (∀ n ∈ linesOf spots, ∀ fl, fl ≤ c.w.r.floorMax c.m → s'.l1Hit c.w.die c.w.core n fl = some (hit n)) →
      (∀ n ∈ linesOf spots, ∀ m ∈ linesOf spots, (hit m).w ≤ (hit n).expiry) →
      ∃ t r, exec i c.s = .next t ∧ SameMemory c.s t ∧ t.warp? c.k = some { c.w with r := r, wait := .none } ∧ r.pc = (c.past len).pc ∧
        ∀ p ∈ spots,
          let v := leNat c.access.size fun j => Line.byte (hit (lineOf (p.place c.access.size j))).data (p.place c.access.size j % 128)
          (∀ m : Nat, (if c.op = .sld then m ∈ lanesOf c.m else m = p.lane) → ∀ j < c.access.size,
            (hit (lineOf (p.place c.access.size j))).w ≤ r.floorOf m) ∧
          (∀ k n, c.op = .ld → c.x.d = .reg k → n < szN (c.x.m 0 3) →
            r.getV (k.toNat + n) p.lane = BitVec.ofNat 32 (ldValue (c.x.m 0 3) v / 2 ^ (32 * n))) ∧
          (∀ k n, c.op = .sld → c.x.d = .s k → n < szN (c.x.m 0 2) → r.getS c.nS (k.val + n) = BitVec.ofNat 32 (v / 2 ^ (32 * n))) ∧
          (c.op = .ldf → c.x.m 0 4 ∉ [6, 9] → (c.after r).flt p.lane c.x.d = ldfRaw (c.x.m 0 4) v)) ∧
  (∀ (i : Instr) (c : Cx) (len : Nat), Executes i c len → c.op ∈ [Op.ld, .ldf, .sld] → c.access.sp = 0 → c.m ≠ 0 → c.w.outs = [] →
    ∀ (s' : State) (spots : List Spot), Passes c s' spots →
      (∀ n ∈ linesOf spots, ∀ fl, s'.l1Hit c.w.die c.w.core n fl = none) → s'.canSend c.k c.w (linesOf spots).length = true →
      ∃ t o, exec i c.s = .next t ∧ SameMemory c.s t ∧
        t.warp? c.k = some { c.w with r := c.past len, outs := [o], wait := .none } ∧ o.kind = .load ∧ o.ctr = some .kg ∧ o.finished = false ∧
        (∀ l ∈ c.accLanes, ∀ q ∈ (sig c.op c.x).d.regs c.x.d, (⟨q.1, q.2, if q.1 = .s then 0 else l⟩ : Dest) ∈ o.dests) ∧
        ∀ n ∈ linesOf spots, ∃ q ∈ t.reqs, q.line = n ∧ .out c.k o.id ∈ q.users)

/-- R343, R345, R352, R123, R125: an access to scratch goes to the vault: the instruction is outstanding with the place,
the size and the data of each thread's access, KS rises, and memory is as it was. -/
def Obligations.ScratchAccessesIssue : Prop :=
  ∀ (i : Instr) (c : Cx) (len : Nat), Executes i c len → c.op ∈ [Op.ld, .ldf, .sld, .st, .stf, .sst, .atom, .atomf, .red, .cas] →
    c.access.sp ≠ 0 → c.m ≠ 0 → c.mayStart .ks (c.op ∈ [Op.ld, .ldf, .sld]) = true →
    (c.op ∈ [Op.st, .stf, .sst] → (c.ordOf = 0 ∨ c.s.fenceHolds c.w (c.ordOf - 1) = true) ∧ (c.ordOf = 6 → c.w.r.spanRef = 0)) →
    (c.op ∈ [Op.atom, .atomf, .red, .cas] → c.x.m 8 1 = 0) →
    ∀ (s' : State) (spots : List Spot), Passes c s' spots →
      ∃ t o w', exec i c.s = .next t ∧ SameMemory c.s t ∧ t.vault = c.s.vault ∧ t.warp? c.k = some w' ∧ w'.outs = c.w.outs ++ [o] ∧
        w'.r = c.past len ∧ o.ctr = some .ks ∧ o.finished = false ∧
        o.kind = (if c.op ∈ [Op.ld, .ldf, .sld] then .vload else if c.op ∈ [Op.st, .stf, .sst] then .vstore else .vatom) ∧
        o.lanes.map (fun l => (l.lane, l.a, l.size, l.done)) = spots.map (fun p => (p.lane, p.pa, c.access.size, false)) ∧
        (c.op ∈ [Op.st, .stf, .sst] → o.lanes.map (·.data) = spots.map fun p => c.storeData p.lane) ∧
        (w'.wait = .acks ↔ c.op ∈ [Op.sld, .atom, .atomf, .cas])

/-- R345, R341, R96, R63: a global store sends one StoreReq per line with the bytes that its threads write, the highest
thread's where several write one; KG rises, the L1 drops the lines, and no byte of memory changes until the home
performs the write. -/
def Obligations.StoresSendTheirBytes : Prop :=
  ∀ (i : Instr) (c : Cx) (len : Nat), Executes i c len → c.op ∈ [Op.st, .stf, .sst] → c.access.sp = 0 → c.m ≠ 0 →
    c.mayStart .kg false = true → (c.ordOf = 0 ∨ c.s.fenceHolds c.w (c.ordOf - 1) = true) → (c.ordOf = 6 → c.w.r.spanRef = 0) →
    ∀ (s' : State) (spots : List Spot), Passes c s' spots → (∀ p ∈ spots, p.Placed c.access.size) →
      s'.canSend c.k c.w (linesOf spots).length = true →
      let n := c.access.size
      ∃ t o, exec i c.s = .next t ∧ SameMemory c.s t ∧
        t.warp? c.k = some { c.w with r := c.past len, outs := c.w.outs ++ [o], wait := .none } ∧ o.kind = .store ∧ o.ctr = some .kg ∧
        (o.acks.map (·.1)).length = (linesOf spots).length ∧
        ∀ line ∈ linesOf spots,
          (∀ l ∈ t.l1, ¬ (l.die = c.w.die ∧ l.core = c.w.core ∧ l.line = line)) ∧
          ∃ m, t.sent m ∧ m.ty = .storeReq ∧ m.addr = lineAddr line ∧ m.tag ∈ o.acks.map (·.1) ∧ m.src = c.w.die ∧ m.dst = s'.homeOf (lineAddr line) ∧
            (∀ b < 128, m.mask.getLsbD b = true ↔ ∃ p ∈ spots, ∃ j < n, p.place n j = lineAddr line + b) ∧
            ∀ p ∈ spots, ∀ j < n, ∀ b < 128, p.place n j = lineAddr line + b →
              (∀ q ∈ spots, p.lane < q.lane → ∀ i < n, q.place n i ≠ lineAddr line + b) →
              (Line.byte m.data b).toNat = c.storeData p.lane / 256 ^ j % 256

/-- R352 to R355, R66: a global atomic sends one AtomReq per thread, in ascending order, with its operand and OP code; a
RED one per group of threads; KG rises, an atomic that returns a value holds its warp, and memory is as it was until the home performs it. -/
def Obligations.AtomicsSendRequests : Prop :=
  ∀ (i : Instr) (c : Cx) (len : Nat), Executes i c len → c.op ∈ [Op.atom, .atomf, .red, .cas] → c.access.sp = 0 → c.x.m 8 1 = 0 → c.m ≠ 0 →
    c.mayStart .kg false = true →
    ∀ (s' : State) (spots : List Spot), Passes c s' spots → s'.canSend c.k c.w spots.length = true →
      ∃ t o w', exec i c.s = .next t ∧ SameMemory c.s t ∧ t.warp? c.k = some w' ∧ w'.outs = c.w.outs ++ [o] ∧ w'.r = c.past len ∧ o.ctr = some .kg ∧
        o.kind = (if c.op = .red then .red else .atom) ∧ (w'.wait = .acks ↔ c.op ≠ .red) ∧
        ∀ p ∈ spots, ∃ m, t.sent m ∧ m.ty = .atomReq ∧ m.op = atomCode c.op c.x ∧ m.tag ∈ o.acks.map (·.1) ∧
          (c.op ≠ .red → m.addr = p.pa ∧ m.noret = false ∧
            m.data = BitVec.ofNat 1024 ((c.atomOperand p.lane).1 + (c.atomOperand p.lane).2 * 2 ^ 64)) ∧
          (c.op = .red → lineOf m.addr = lineOf p.pa ∧ m.noret = true ∧ m.mask.getLsbD (p.pa % 128) = true)

/-- R352: the new value of an integer atomic. -/
def Obligations.AtomicResults : Prop :=
  ∀ (o : Nat) (sgn : Bool) (w : Nat) (m b : BitVec w), 0 < w → w ≤ 64 → o < 8 →
    let v := BitVec.ofNat w (atomInt o sgn w m.toNat b.toNat)
    (o = 0 → v = m + b) ∧
    (o = 1 → valueOf sgn v = min (valueOf sgn m) (valueOf sgn b)) ∧
    (o = 2 → valueOf sgn v = max (valueOf sgn m) (valueOf sgn b)) ∧
    (o = 3 → v = m &&& b) ∧ (o = 4 → v = m ||| b) ∧ (o = 5 → v = m ^^^ b) ∧ (o = 6 → v = b) ∧
    (o = 7 → v = if b ≤ m then 0 else m + 1)

/-- R357, R97: FENCE goes on once the conditions of its scope hold, and waits until then; R358, R359: PREF and CCTL act on
the lines whose addresses translate, and change no register and no byte of memory. -/
def Obligations.FencesAndCacheControl : Prop :=
  ∀ (i : Instr) (c : Cx) (len : Nat), Executes i c len →
    (c.op = .fence → c.m ≠ 0 →
      let sc := match c.x.m 0 3 with | 0 => 3 | 1 => 0 | 2 => 1 | 3 => 2 | n => n
      (c.w.settled = true → c.w.acquiring = false → c.s.fenceHolds c.w sc = true → (sc = 5 → c.w.r.spanRef = 0) →
        Becomes i c { c.w with r := c.past len, wait := .none }) ∧
      (c.s.fenceHolds c.w sc = false → ∃ t, exec i c.s = .next t ∧ t.warp? c.k = some { c.w with wait := .fence sc, active := false })) ∧
    (c.op = .fence → c.m = 0 → Becomes i c (c.with (c.past len))) ∧
    (∀ s' ps gone, c.quietPas c.s (lanesOf c.m) [] [] = (s', .ok (ps, gone)) →
      let u : State := gone.foldl (fun s fl => s.spent fl) s'
      (c.op = .pref → c.w.acquiring = false → u.canSend c.k c.w ps.length = true →
        ∃ t, exec i c.s = .next t ∧ SameMemory c.s t ∧ t.warp? c.k = some (c.with (c.past len)) ∧
          ∀ q ∈ ps, (∃ L fl, c.x.m 0 2 = 0 ∧ q.2 ≤ fl ∧ u.l1Hit c.w.die c.w.core q.1 fl = some L) ∨ ∃ r ∈ t.reqs, r.line = q.1 ∧ .prefetch ∈ r.users) ∧
      (c.op = .cctl → c.x.m 0 2 = 1 →
        ∃ t, exec i c.s = .next t ∧ SameMemory c.s t ∧ t.warp? c.k = some (c.with (c.past len)) ∧
          ∀ l ∈ t.l1, ¬ (l.die = c.w.die ∧ l.core = c.w.core ∧ ∃ q ∈ ps, q.1 = l.line)) ∧
      (c.op = .cctl → c.x.m 0 2 = 2 → ps ≠ [] → c.mayStart .kg false = true → u.canSend c.k c.w ps.length = true →
        ∃ t o, exec i c.s = .next t ∧ SameMemory c.s t ∧ t.warp? c.k = some { c.w with r := c.past len, outs := c.w.outs ++ [o], wait := .none } ∧
          o.ctr = some .kg ∧ ∀ q ∈ ps, ∃ m, t.sent m ∧ m.ty = .clean ∧ m.addr = lineAddr q.1)) ∧
    (c.op = .cctl → c.x.m 0 2 = 0 → c.m ≠ 0 →
      ∃ t, exec i c.s = .next t ∧ SameMemory c.s t ∧ t.warp? c.k = some (c.with (c.past len)) ∧ ∀ l ∈ t.l1, ¬ (l.die = c.w.die ∧ l.core = c.w.core))

/-! ### Mapped scratch, copies and barrier registers -/

/-- R131, R361, R363: SMAP completes, where its range fits, is aligned and a slot is free, with the team's maps longer by one in the
lowest free slot; else it traps ALLOC, MISALIGN or PROT. SQRY completes with a field of the map that A names, or 0.
R138, R140, R362: SFLUSH and SUNMAP complete: where no line of the range is dirty each goes on at once, and SUNMAP has removed
the map; where some are, each goes on with one StoreReq sent for each line and counted in KG. The vault's bytes stay. SFLUSH of
a range that is not whole lines traps ALLOC. -/
def Obligations.MapsAndFlushes : Prop :=
  (∀ (i : Instr) (c : Cx) (len : Nat) (tm : Team) (g : Grid), Executes i c len → c.w.sprout = Option.none → c.m ≠ 0 →
     c.s.team? c.k.teamKey = some tm → c.s.grid? c.k.grid = some g →
     (c.op = .smap →
       let off := (c.i32 (lowest c.m) c.x.a).toNat
       let n := (c.i32 (lowest c.m) c.x.b).toNat
       let va := c.i64 (lowest c.m) c.x.c
       let fits : Prop := 128 ∣ off ∧ 128 ∣ n ∧ 128 ≤ n ∧ off + n ≤ g.scratch ∧ (∀ m ∈ tm.maps, off + n ≤ m.soff ∨ m.soff + m.slen ≤ off) ∧
         tm.freeMap < 8 ∧ c.s.mapsOnCore tm.die tm.core < 32
       (¬ fits → Traps i c cAlloc 0 0 wholeWarp (BitVec.ofNat 64 off)) ∧
       (fits → ¬ 128 ∣ va.toNat → Traps i c cMisalign 0 0 wholeWarp va) ∧
       (fits → 128 ∣ va.toNat → 2 ^ 56 ≤ va.toNat → Traps i c cProt 6 0 wholeWarp va) ∧
       (fits → 128 ∣ va.toNat → va.toNat < 2 ^ 56 → c.w.settled = true → c.w.acquiring = false →
         ∃ t, exec i c.s = .next t ∧ SameMemory c.s t ∧ t.vault = c.s.vault ∧ t.warp? c.k = some (c.with (c.past len)) ∧
           t.team? c.k.teamKey = some { tm with maps := tm.maps ++ [⟨tm.freeMap, off, n, va.toNat, c.x.m 0 1 = 1, g.asid, false⟩] } ∧
           (∀ j < tm.freeMap, ∃ m ∈ tm.maps, m.slot = j) ∧ ∀ m ∈ tm.maps, m.slot ≠ tm.freeMap)) ∧
     (c.op = .sqry → WordTo i c len 1 fun _ =>
       match tm.maps.find? fun m => m.slot = (c.i32 (lowest c.m) c.x.a).toNat with
       | some m => match c.x.m 0 4 with
         | 0 => BitVec.ofNat 32 m.soff
         | 1 => BitVec.ofNat 32 m.slen
         | 2 => BitVec.ofNat 32 m.va
         | 3 => BitVec.ofNat 32 (m.va / 2 ^ 32)
         | _ => BitVec.ofNat 32 (1 + (if m.rw then 2 else 0) + m.asid * 256)
       | none => 0)) ∧
  (∀ (i : Instr) (c : Cx) (len : Nat) (tm : Team) (m : SMap), Executes i c len → c.w.sprout = Option.none → c.m ≠ 0 → c.op ∈ [Op.sflush, .sunmap] →
     c.s.team? c.k.teamKey = some tm →
     let off := (c.i32 (lowest c.m) c.x.a).toNat
     let n := (c.i32 (lowest c.m) c.x.b).toNat
     (c.op = .sflush → tm.maps.find? (fun m => m.soff ≤ off && off + n ≤ m.soff + m.slen) = some m) →
     (c.op = .sunmap → tm.maps.find? (fun m => m.soff = off && m.slen = n) = some m ∧ m.removing = false) →
     c.mayStart .kg false = true → c.w.vaultReached = true →
     let dirty := c.s.dirtyLines tm m off n
     (c.op = .sflush → ¬ (128 ∣ off ∧ 128 ∣ n ∧ n ≠ 0) → Traps i c cAlloc 0 0 wholeWarp 0) ∧
     ((c.op = .sflush → 128 ∣ off ∧ 128 ∣ n ∧ n ≠ 0) →
       (dirty = [] → ∃ t, exec i c.s = .next t ∧ SameMemory c.s t ∧ t.vault = c.s.vault ∧ t.warp? c.k = some (c.with (c.past len)) ∧
         (c.op = .sunmap → ∀ tm', t.team? c.k.teamKey = some tm' → ∀ o ∈ tm'.maps, o.slot ≠ m.slot)) ∧
       (∀ s' pas, dirty ≠ [] → c.flushPas m.asid c.s dirty [] = .ok (s', pas) → s'.canSend c.k c.w pas.length = true →
         ∃ t o, exec i c.s = .next t ∧ SameMemory c.s t ∧ t.vault = c.s.vault ∧
           t.warp? c.k = some { c.w with r := c.past len, outs := c.w.outs ++ [o], wait := .none } ∧ o.ctr = some .kg ∧
           ∀ q ∈ pas, ∃ r, t.sent r ∧ r.ty = .storeReq ∧ r.addr = lineAddr (lineOf q.2))))

/-- R157 to R159, R368: BINIT, BARR, BWAIT and BTEST on a barrier register of the team. -/
def Obligations.BarrierRegisters : Prop :=
  ∀ (i : Instr) (c : Cx) (len : Nat) (tm : Team), Executes i c len → c.w.sprout = Option.none → c.m ≠ 0 → c.s.team? c.k.teamKey = some tm →
    let key := c.k.teamKey
    let n := c.barNum
    let b := c.s.bar key n
    let count := (c.i32 (lowest c.m) c.x.b).toNat
    let sets (b' : BarReg) : Prop := ∃ t, exec i c.s = .next t ∧ SameMemory c.s t ∧ t.warp? c.k = some (c.with (c.past len)) ∧
      t.bar key n = b' ∧ ∀ j ≠ n, t.bar key j = c.s.bar key j
    (c.op = .binit →
      (count = 0 ∨ 1023 < count → Traps i c cAlloc 0 0 wholeWarp 0) ∧
      (0 < count → count ≤ 1023 → c.w.settled = true → sets ⟨false, false, false, b.pend, count, 0⟩)) ∧
    (c.op = .barr →
      (count = 0 ∨ 1023 < count ∨ b.expected = 0 ∨ b.expected < count → Traps i c cAlloc 0 0 wholeWarp 0) ∧
      (0 < count → count ≤ 1023 → b.expected ≠ 0 → count ≤ b.expected → c.w.settled = true → c.w.acquiring = false → c.s.fenceHolds c.w 0 = true →
        sets (if b.arrived + count < b.expected then { b with arrived := b.arrived + count }
          else { b with arrived := b.arrived + count - b.expected, lastErr := b.err, err := false, phase := !b.phase }))) ∧
    (c.op = .bwait →
      let parity : Bool := c.x.imm.toNat % 2 = 1
      (b.expected = 0 → Traps i c cAlloc 0 0 wholeWarp 0) ∧
      (b.expected ≠ 0 → b.phase = parity → Waits i c) ∧
      (b.expected ≠ 0 → b.phase ≠ parity → c.w.settled = true → b.lastErr = false → Becomes i c (c.with (c.past len))) ∧
      (b.expected ≠ 0 → b.phase ≠ parity → c.w.settled = true → b.lastErr = true →
        ∃ s' : State, exec i c.s = .next (s'.trap c.k c.w ⟨cCopyerr, (tm.cerrs.get CopyErr.zero n).cause, n, wholeWarp,
            BitVec.ofNat 64 (tm.cerrs.get CopyErr.zero n).addr, c.w.r.pc, false, false, false⟩) ∧
          s'.team? key = some { tm with cerrs := tm.cerrs.put CopyErr.zero n CopyErr.zero })) ∧
    (c.op = .btest → b.arrived < 2 ^ 10 → b.expected < 2 ^ 10 → b.pend < 2 ^ 7 →
      WordTo i c len 1 fun _ => BitVec.ofNat 32 (b.arrived + b.expected * 2 ^ 10 + b.pend * 2 ^ 20 +
        b.phase.toNat * 2 ^ 29 + b.lastErr.toNat * 2 ^ 30 + b.err.toNat * 2 ^ 31))

/-- R158: an arrival at a barrier register. -/
def Obligations.BarrierArrival : Prop :=
  ∀ (b : BarReg) (count : Nat) (copy : Option Bool), b.arrived < b.expected → count ≤ b.expected →
    let b' := b.arrive count copy
    let err := b.err || copy == some true
    b'.expected = b.expected ∧ b'.arrived < b.expected ∧ (b.pend - (if copy.isSome then 1 else 0) = b'.pend) ∧
    (b.arrived + count < b.expected → b'.arrived = b.arrived + count ∧ b'.err = err ∧ b'.lastErr = b.lastErr ∧ b'.phase = b.phase) ∧
    (b.expected ≤ b.arrived + count → b'.arrived + b.expected = b.arrived + count ∧ b'.err = false ∧ b'.lastErr = err ∧ b'.phase = !b.phase)

/-- R142, R151, R365, R366: a warp's arrival at its team's next copy. The warp's count of copies advances, `.try` tells
in E whether it was accepted, and only a full queue lets a base form wait; CPYQ's word. -/
def Obligations.CopyArrivals : Prop :=
  ∀ (i : Instr) (c : Cx) (len : Nat) (g : Grid), Executes i c len → c.w.sprout = Option.none → c.s.grid? c.k.grid = some g →
    (c.op ∈ [Op.cpy, .cpyg, .cpya] → c.w.settled = true → c.w.acquiring = false →
      let old := c.s.waitingCopy c.k.teamKey c.own c.w.r.copySeq
      let full : Prop := 16 ≤ c.s.entriesOf c.w.die (c.w.core / 4) g.l.cls
      let opens := Copy.fresh c.s.nextId c.k.teamKey c.own c.w.r.copySeq c.w.die (c.w.core / 4) g.l.cls
      let counted (t : State) (e : Tri) : Prop := ∃ r, t.warp? c.k = some (c.with r) ∧ r.pc = (c.past len).pc ∧ r.copySeq = c.w.r.copySeq + 1 ∧
        (c.x.m 0 1 = 1 → ∀ l ∈ lanesOf c.m, ∀ n, c.x.e = .p n → n ≠ 15 → r.getP n.toNat l = e)
      let mode := if c.op = .cpy then 0 else if c.op = .cpyg then 1 else 2
      let arrive : Arrival := ⟨c.k, c.uniAny c.x.b, if c.m = 0 then 0 else c.uniAny c.x.c, c.uniAny c.x.a, mode, c.s.nextId⟩
      (old = Option.none → full → c.x.m 0 1 = 0 → Waits i c) ∧
      (old = Option.none → full → c.x.m 0 1 = 1 → ∃ t, exec i c.s = .next t ∧ SameMemory c.s t ∧ counted t Tri.ff ∧
        (c.s.lastArrival (opens true) c.k = false → opens true ∈ t.copies)) ∧
      (∀ cp, old = some cp → cp.refused = true → ∃ t, exec i c.s = .next t ∧ SameMemory c.s t ∧ counted t Tri.ff) ∧
      (∀ cp, (old = some cp ∧ cp.refused = false ∨ old = Option.none ∧ ¬ full ∧ cp = opens false) →
        (c.s.lastArrival cp c.k = false → ∃ t, exec i c.s = .next t ∧ SameMemory c.s t ∧ counted t Tri.tt ∧
          { cp with arrivals := cp.arrivals ++ [arrive] } ∈ t.copies) ∧
        (c.s.lastArrival cp c.k = true → ∀ s',
          ({ c.s with nextId := c.s.nextId + 1 }.setCopy { cp with arrivals := cp.arrivals ++ [arrive] }).startCopy
            { cp with arrivals := cp.arrivals ++ [arrive] } (c.s.header c.k) arrive.off mode = .go s' →
          ∃ t, exec i c.s = .next t ∧ counted t Tri.tt ∧ t.copies = s'.copies))) ∧
    (c.op = .cpyq → c.m ≠ 0 → WordTo i c len 1 fun _ =>
      let cls := (c.i32 (lowest c.m) c.x.b).toNat
      let mine := (c.s.copies.filter fun (o : Copy) => o.team = c.k.teamKey && o.one = c.own && !o.refused).length
      if 3 < cls then 0xffffffff
      else BitVec.ofNat 32 (c.w.r.copySeq % 2 ^ 16 * 2 ^ 16 + min 255 mine * 2 ^ 8 + (16 - c.s.entriesOf c.w.die (c.w.core / 4) cls)))

/-! ### Traps and system instructions -/

/-- R464, R459, R460: entry to a handler. The interrupted mask, program counter and stack are kept, the trap registers
say why, TMODE is set, S376 to S383 hold the trap block, and the live threads go on at entry point + TRAP, whose bits
[1:0] are zero (R215).
R462, R464, R419: a trap in trap mode, and one of a kernel without a handler that is no PREEMPT or RESUME, ends the
grid with code 17, and no warp of it is left.
R451, R461: a fault of a sprout is the recruitment's, if it is the first, and the recruitment is released. -/
def Obligations.EntersHandler : Prop :=
  (∀ (s : State) (k : WarpKey) (w : Warp) (g : Grid) (t : Trap), s.grid? k.grid = some g → g.header.hasTrap = true →
     w.sprout = Option.none → w.r.tmode = false → w.outs = [] → t.cause < 256 →
     ∃ r, s.trap k w t = s.setWarp k { w with r := r, trapping := Option.none, wait := .none } ∧
       r.tmode = true ∧ r.tstat.getLsbD 1 = t.resume ∧ r.tstat.getLsbD 2 = t.after ∧ r.tstat.getLsbD 3 = t.async ∧ r.tstat.extractLsb' 4 28 = 0 ∧
       r.fcause.extractLsb' 0 8 = BitVec.ofNat 8 t.cause ∧ r.fcause.extractLsb' 8 8 = BitVec.ofNat 8 t.detail ∧
       r.fcause.extractLsb' 16 8 = BitVec.ofNat 8 t.aux ∧ r.fcause.extractLsb' 24 8 = (if t.lane = wholeWarp then 0 else BitVec.ofNat 8 t.lane) ∧
       r.faddr = t.addr ∧ r.lpc = t.lpc ∧ r.imask = w.r.mask ∧ r.ipc = t.lpc ∧ r.mask = w.r.live ∧ r.live = w.r.live ∧
       r.stack = w.r.stack ∧ r.hstack = [] ∧ r.pc = pcOf (g.entry + BitVec.ofInt 64 g.header.trap) ∧
       pair (r.getS g.header.nS 376) (r.getS g.header.nS 377) = g.context + BitVec.ofNat 64 (k.team * g.tsize + 0x400 + k.warp * g.header.wsize) ∧
       pair (r.getS g.header.nS 378) (r.getS g.header.nS 379) = g.context + BitVec.ofNat 64 (k.team * g.tsize) ∧
       (∀ n, 380 ≤ n → n < 384 → r.getS g.header.nS n = 0) ∧
       (∀ n l, r.getV n l = w.r.getV n l ∧ r.getF n l = w.r.getF n l ∧ r.getP n l = w.r.getP n l) ∧
       (∀ n, n < 376 → n + 8 < g.header.nS → r.getS g.header.nS n = w.r.getS g.header.nS n)) ∧
  ((∀ (s : State) (k : WarpKey) (w : Warp) (g : Grid) (t : Trap), s.grid? k.grid = some g → w.sprout = Option.none →
     (w.r.tmode = true ∨ (w.outs = [] ∧ g.header.hasTrap = false ∧ t.cause ≠ 14 ∧ t.cause ≠ 18)) →
     ∃ s' g', s.trap k w t = s' ∧ s'.grid? k.grid = some g' ∧ g'.ending = some (g.ending.getD 17) ∧
       (∀ p ∈ s'.warps, p.1.grid ≠ k.grid) ∧ SameMemory s s') ∧
   (∀ (s : State) (k : WarpKey) (w o : Warp) (p : Sprout) (t : Trap), w.sprout = some p → k ≠ p.owner → s.warp? p.owner = some o → t.cause < 256 → t.detail < 256 →
     ∃ o', (s.trap k w t).warp? p.owner = some o' ∧
       (o.r.recr.fault = 0 → o'.r.recr.fault.extractLsb' 0 8 = BitVec.ofNat 8 t.cause ∧ o'.r.recr.fault.extractLsb' 8 8 = BitVec.ofNat 8 t.detail ∧
         o'.r.recr.fault.extractLsb' 16 9 = (w.r.hidx.get 0 (if t.lane = wholeWarp then lowest w.r.mask else t.lane)).extractLsb' 0 9 ∧
         o'.r.recr.faddr = t.addr) ∧
       (o.r.recr.fault ≠ 0 → o'.r.recr.fault = o.r.recr.fault ∧ o'.r.recr.faddr = o.r.recr.faddr) ∧
       (o.r.recr.state = 1 → o'.release ≠ 0)))

/-- R471: TRAP (trap) and its extended form (trapX) complete: with no thread taking part each goes on; else, once the
warp's earlier reads are bound, SWTRAP is taken after it, with AFTER set and A in the fault address.
R471, R464, R459: RTE (rte) and its extended form (rteX) complete in trap mode: the interrupted mask is
restored, the warp goes on at `%lpc` and trap mode ends; after PREEMPT the warp is parked, and with ABORT set the grid ends with
code 17, once what is outstanding has completed. Outside trap mode RTE traps ILLEGAL.
R464, R447, R472, R475: with a thread taking part, CSAVE, CLOAD and RGNCLR outside trap mode, and these, TRAP, RTE and
TLBINV in a sprout, trap ILLEGAL. -/
def Obligations.TrapInstructions : Prop :=
  ((∀ (i : Instr) (c : Cx) (len : Nat), Executes i c len → c.op = .trap →
     let v := c.i32 (lowest c.m) c.x.a
     (c.m = 0 → Becomes i c (c.with (c.past len))) ∧
     (c.m ≠ 0 → c.w.sprout = Option.none → c.w.settled = true → exec i c.s = .next (c.s.trap c.k (c.with (c.past len))
       ⟨cSwtrap, v.toNat % 256, 0, lowest c.m, v.setWidth 64, (c.past len).pc, true, false, false⟩))) ∧
   (∀ (i : Instr) (c : Cx) (len : Nat), Executes i c len → c.m ≠ 0 →
     (c.op ∈ [Op.csave, .cload, .rgnclr] → c.w.sprout.isSome = true ∨ c.w.r.tmode = false → Traps i c cIllegal 0 0 wholeWarp 0) ∧
     (c.op ∈ [Op.tlbinv, .trap, .rte] → c.w.sprout.isSome = true → Traps i c cIllegal 0 0 wholeWarp 0))) ∧
  (∀ (i : Instr) (c : Cx) (len : Nat), Executes i c len → c.op = .rte → c.w.sprout = Option.none →
     let r := c.w.r
     let abort := r.tstat.getLsbD 8
     (c.m ≠ 0 → r.tmode = false → Traps i c cIllegal 0 0 wholeWarp 0) ∧
     (r.tmode = true → r.fcause.toNat % 256 ≠ 14 → abort = false → r.mrecs = [] → 4 ∣ r.lpc.toNat → r.imask &&& r.live ≠ 0 →
       ∃ r', Becomes i c { c.w with r := r', wait := .none } ∧ r'.pc = r.lpc ∧ r'.mask = r.imask &&& r.live ∧ r'.tmode = false ∧
         r'.stack = r.stack ∧ r'.live = r.live ∧ r'.v = r.v ∧ r'.f = r.f ∧ r'.s = r.s ∧ r'.p = r.p) ∧
     (r.tmode = true → r.fcause.toNat % 256 = 14 → c.w.quiet = true → c.s.fenceHolds c.w 3 = true →
       exec i c.s = .next ((c.s.setWarp c.k { c.w with parked := true, active := false, wait := .none }).tryLeave c.k.teamKey)) ∧
     (r.tmode = true → r.fcause.toNat % 256 = 14 ∨ abort = true → c.w.quiet = false → Waits i c) ∧
     (r.tmode = true → r.fcause.toNat % 256 ≠ 14 → abort = true → c.w.outs = [] → c.s.fenceHolds c.w 4 = true → ∀ g, c.s.grid? c.k.grid = some g →
       ∃ t g', exec i c.s = .next t ∧ t.grid? c.k.grid = some g' ∧ g'.ending = some (g.ending.getD 17) ∧ ∀ p ∈ t.warps, p.1.grid ≠ c.k.grid))

/-- R173, R174, R471, R23, R28: what SRD, TIME, TOPO and PERF read.
R175, R459, R317: SWR writes `%lpc` and ABORT in trap mode only, and discards the matrix records when it writes 0
to `%mrp`; a read-only register, and a write outside trap mode, trap ILLEGAL. -/
def Obligations.SystemRegisters : Prop :=
  (∀ (i : Instr) (c : Cx) (len : Nat), Executes i c len →
     (∀ q, c.op = .srd → c.x.a = .sr q → c.x.m 0 1 = 0 → WordTo i c len 1 fun l => c.s.readSReg c.k c.w l q) ∧
     (∀ q, c.op = .srd → c.x.a = .sr q → c.x.m 0 1 = 1 → WordTo i c len 2 fun _ =>
       if q = .tc then BitVec.ofNat 64 (c.s.tcAt c.w.die) else if q = .faddr then c.w.r.faddr else c.w.r.lpc) ∧
     (c.op = .time → WordTo i c len 2 fun _ => BitVec.ofNat 64 (c.s.tcAt c.w.die)) ∧
     (c.op = .topo → ∃ f, WordTo i c len 1 f ∧ ∀ l,
       let q := (c.i32 l c.x.a).toNat
       let arg := q / 256
       let xy := dieAt c.w.die
       (q % 256 = 0 → f l = BitVec.ofNat 32 c.w.die) ∧ (q % 256 = 1 → f l = BitVec.ofNat 32 (xy.1 + 16 * xy.2)) ∧
       (q % 256 = 2 → f l = if c.s.gradeB then 304 else 320) ∧ (q % 256 = 3 → f l = if c.s.gradeB then 1216 else 1280) ∧
       (q % 256 = 4 → f l = if c.s.gradeB then 1 else 0) ∧
       (q % 256 = 13 → f l = if 127 < arg then 0xffffffff else if c.s.panel.inService arg then 1 else 0) ∧
       (13 < q % 256 → f l = 0xffffffff)) ∧
     (c.op = .perf → ∃ f, WordTo i c len 2 f ∧ ∀ l,
       let q := (c.i32 l c.x.a).toNat
       let index := q / 16 % 16
       let kinds := [4, 2, 8, 8].getD (q % 16) 0
       kinds ≤ index → f l = BitVec.allOnes 64)) ∧
  (∀ (i : Instr) (c : Cx) (len : Nat) (q : SReg), Executes i c len → c.op = .swr → c.x.d = .sr q →
     let l := lowest c.m
     let v := c.i32 l c.x.a
     let r := c.w.r
     (c.m = 0 → Becomes i c (c.with (c.past len))) ∧
     (c.m ≠ 0 → (q ∉ [SReg.mrp, .tstat, .lpc, .lpchi] ∨ (q ≠ .mrp ∧ r.tmode = false)) → Traps i c cIllegal 0 0 wholeWarp 0) ∧
     (c.m ≠ 0 → r.tmode = true →
       (q = .tstat → ∃ x, Becomes i c (c.with { c.past len with tstat := x }) ∧ ∀ n < 32, x.getLsbD n = if n = 8 then v.getLsbD 8 else r.tstat.getLsbD n) ∧
       (q = .lpc → c.x.m 0 1 = 0 → Becomes i c (c.with { c.past len with lpc := pair v (hiWord r.lpc) })) ∧
       (q = .lpc → c.x.m 0 1 = 1 → Becomes i c (c.with { c.past len with lpc := c.i64 l c.x.a })) ∧
       (q = .lpchi → Becomes i c (c.with { c.past len with lpc := pair (loWord r.lpc) v }))) ∧
     (c.m ≠ 0 → q = .mrp → (v ≠ 0 → Becomes i c (c.with (c.past len))) ∧
       (v = 0 → ∃ w', Becomes i c w' ∧ w'.r = { c.past len with mrecs := [] } ∧ ∀ o ∈ w'.outs, o.stop = Option.none)))

/-! ### Homes -/

/-- R61, R63, R66, R72, R83: a home grants a read a lease that ends at the later of its time and the request's, plus
64 ns times 2 to the entry's LEN, or a single-use copy; holds a write or an atomic to the latest of its time, the
leases' end plus E and WMAX; grants an exclusive lease of 100 µs once the leases have ended; records a WATCH, or fires
it when the line has been written since; and clears a LOST flag. A request changes no byte.
R74, R77, R79: a Writeback of the holder is held to its perform time; one from an agent that does not hold the line, or
that comes when its lease has ended or its holder's 80 µs have passed, is refused. -/
def Obligations.HomesServeRequests : Prop :=
  (∀ (s : State) (m : Msg) (r : Region), Arrives s m → Served s m → s.regionOf m.dst (lineOf m.addr) = some r →
     let home := m.dst
     let line := lineOf m.addr
     let now := s.tcAt home
     let a : Msg := { id := 0, ty := .readGrant, src := 0, dst := 0, addr := lineAddr line }
     (m.ty = .readReq → m.once = true → Goes .readReq s fun t => SameMemory s t ∧
       t.answered home m { a with t1 := s.wOf line, once := true, poison := s.poisonOf home line, data := s.lineData line }) ∧
     (m.ty = .readReq → m.once = false → mayLease m.agent = true →
       let exp := max now m.t1 + 64 * 2 ^ r.len
       Goes .readReq s fun t => SameMemory s t ∧
         t.answered home m { a with t1 := s.wOf line, t2 := exp, poison := s.poisonOf home line, data := s.lineData line } ∧
         ∃ r', t.regionOf home line = some r' ∧ r'.lmax = max r.lmax exp ∧ r'.wmax = r.wmax ∧ r'.len = r.len) ∧
     (m.ty = .storeReq → Goes .storeReq s fun t => SameMemory s t ∧ t.queueOf line = ⟨line, [], [⟨m, s.performs home line r⟩], false⟩) ∧
     (m.ty = .atomReq → Goes .atomReq s fun t => SameMemory s t ∧ t.queueOf line = ⟨line, [], [⟨m, s.performs home line r⟩], false⟩) ∧
     (m.ty = .exclReq → mayExcl m.agent = true → s.lineState home line ≠ .lost → r.size = 0 →
       max r.lmax (s.takenOver line) + s.eAt home ≤ now → Goes .exclReq s fun t => SameMemory s t ∧
         t.answered home m { a with ty := .exclGrant, t1 := r.wmax, t2 := now + 100000, poison := s.poisonOf home line, data := s.lineData line } ∧
         t.regionOf home line = some { r with st := .excl, agent := m.agent, inc := m.inc, xexp := now + 100000, quiet := max r.quiet now }) ∧
     (m.ty = .watchSet → mayWatch m.agent = true → r.lost = false →
       (m.t1 < r.wmax → Goes .watchSet s fun t => SameMemory s t ∧ t.answered home m { a with ty := .watchFire, addr := m.addr, t1 := r.wmax, reason := 1 }) ∧
       (r.wmax ≤ m.t1 → r.size = 0 → (s.watches.filter (·.line = line)).length < 16 → (s.watches.filter (·.home = home)).length < 4096 →
         Goes .watchSet s fun t => SameMemory s t ∧ ∃ x ∈ t.watches, x.home = home ∧ x.line = line ∧ x.mask = m.mask ∧ x.setAt = now ∧ x.msg = m)) ∧
     (m.ty = .lostClear →
       (r.lost = true → Goes .lostClearRequest s fun t => SameMemory s t ∧ t.answered home m { a with ty := .lostAnswer, addr := m.addr, t1 := 1 } ∧
         t.regionOf home line = some { r with lost := false, st := if r.st = .lost then .invalid else r.st }) ∧
       (r.lost = false → Goes .lostClearRequest s fun t => SameMemory s t ∧ t.answered home m { a with ty := .lostAnswer, addr := m.addr }))) ∧
  (∀ (s : State) (m : Msg) (r : Region), Arrives s m → m.ty = .writeback → s.homeUp m.dst = true → s.regionOf m.dst (lineOf m.addr) = some r →
     let line := lineOf m.addr
     let holds : Prop := r.size = 0 ∧ r.st ∈ [LineSt.excl, .fwd, .recall] ∧ r.agent = m.agent ∧ r.inc = m.inc ∧ s.isDead m.dst m.agent m.inc = false
     let plain : Bool := agentKind m.agent = 0
     (holds → s.deadDue m.dst m.agent m.inc = false → s.xexpDue m.dst r = false → Goes .writeback s fun t => SameMemory s t ∧
       (⟨m, if m.mask = 0 then s.tcAt m.dst else s.performs m.dst line r⟩ : Held) ∈ (t.queueOf line).held) ∧
     (s.deadDue m.dst m.agent m.inc = true ∨ s.xexpDue m.dst r = true ∧ (s.queueOf line).q = [] ∨ ¬ holds ∧ s.xexpDue m.dst r = false → Goes .writeback s fun t =>
       SameMemory s t ∧ t.answered m.dst m { id := 0, ty := .storeAck, src := 0, dst := 0, addr := m.addr, refused := !plain, t1 := if plain then s.tcAt m.dst else 0 }))

/-- R63, R66, R74, R352: at its perform time a write changes the bytes of its mask and no other, and is acknowledged with
that time; an atomic changes its element to the operation's result and returns the old one; a RED changes each of its
elements. -/
def Obligations.WritesPerform : Prop :=
  ∀ (s : State) (q : LineQ) (h : Held) (rest : List Held), s.lineq.find? (fun q => q.held.head?.any fun h => h.msg.id = s.arg.n) = some q →
    q.held = h :: rest → s.homeUp (s.homeOf (lineAddr q.line)) = true → h.w ≤ s.tcAt (s.homeOf (lineAddr q.line)) →
    s.hbmFree (s.homeOf (lineAddr q.line)) q.line = true →
    let home := s.homeOf (lineAddr q.line)
    let m := h.msg
    let n := atomSize m.op
    let a : Msg := { id := 0, ty := .storeAck, src := 0, dst := 0, addr := m.addr, t1 := h.w }
    (m.ty ≠ .atomReq → Goes .writePerform s fun t => t.answered home m a ∧
      ∀ p, t.byteAt p = if lineOf p = q.line ∧ m.mask.getLsbD (p % 128) = true then Line.byte m.data (p % 128) else s.byteAt p) ∧
    (m.ty = .atomReq → m.noret = false ∨ m.mask = 0 → m.addr % n = 0 →
      let place := lineAddr q.line + m.addr % 128
      let old := leNat n fun j => s.byteAt (place + j)
      let new := atomApply m.op old (lineNat m.data 0 n) (lineNat m.data 8 n)
      Goes .writePerform s fun t => t.answered home m (if m.noret then { a with data := BitVec.ofNat 1024 old }
          else { a with ty := .atomAck, poison := s.poisonOf home q.line, data := BitVec.ofNat 1024 old }) ∧
        ∀ p, t.byteAt p = if place ≤ p ∧ p < place + n then BitVec.ofNat 8 (new / 256 ^ (p - place)) else s.byteAt p) ∧
    (m.ty = .atomReq → m.noret = true → m.mask ≠ 0 → m.op % 256 < 8 →
      Goes .writePerform s fun t => t.answered home m a ∧
        (∀ p, ¬ (lineOf p = q.line ∧ m.mask.getLsbD (p % 128) = true) → t.byteAt p = s.byteAt p) ∧
        ∀ e, e < 128 → e % n = 0 → (∀ j < n, m.mask.getLsbD (e + j) = true) →
          let place := lineAddr q.line + e
          leNat n (fun j => t.byteAt (place + j)) = atomApply m.op (leNat n fun j => s.byteAt (place + j)) (lineNat m.data e n) 0)

/-- R68, R70, R72, R73, R77, R79, R80, R82, R83: what a home does as time passes. -/
def Obligations.HomesInTime : Prop :=
  ∀ (s : State) (r : Region) (line : Nat),
    let home := s.homeOf (lineAddr line)
    let now := s.tcAt home
    s.homeUp home = true → s.regionOf home line = some r →
    let held : Prop := r.size = 0 ∧ r.st ∈ [LineSt.excl, .fwd, .recall]
    let idle : Prop := ∀ q ∈ s.lineq, q.q = []
    let lost : Region := { r with lost := true, st := .lost, agent := 0, inc := 0, xexp := 0 }
    let told (t : State) (ty addr agent inc : Nat) : Prop := ∃ m ∈ t.net, m.ty = .lostNotice ∧ m.op / 256 = ty ∧ m.dst = s.halfOf addr ∧ m.addr = addr ∧
      m.agent = agent ∧ m.inc = inc ∧ (agent ≠ 0 → agentKind agent ≠ 6 → ∃ n ∈ t.net, n.ty = .lostNotice ∧ n.dst = agentUnit agent ∧ n.op = m.op ∧ n.addr = addr ∧
        n.agent = agent ∧ n.inc = inc)
    (∀ m waited, s.arg.n = line → s.queueOf line = ⟨line, [m], [], waited⟩ → s.hbmFree home line = true → (isCompanion m.addr = true → s.backed m.addr = true) → m.ty = .exclReq → mayExcl m.agent = true → s.isDead home m.agent m.inc = false → r.size = 0 →
      r.st ∉ [LineSt.fwd, .excl, .recall, .lost] → max r.lmax (s.takenOver line) + s.eAt home ≤ now → Goes .exclWaitExpire s fun t => SameMemory s t ∧
        ∃ r', t.regionOf home line = some r' ∧ r'.st = .excl ∧ r'.agent = m.agent ∧ r'.inc = m.inc ∧ r'.xexp = now + 100000 ∧ r'.len = if waited then r.len - 1 else r.len) ∧
    (s.arg.n = line → r.st = .shared → r.lmax + s.eAt home ≤ now → idle → Goes .sharedExpire s fun t => t = s.setRegion { r with st := .invalid }) ∧
    (s.arg.n = line → held → r.xexp ≤ now → s.endingHeld line = false → (s.queueOf line).q = [] → Goes .xexpReached s fun t => SameMemory s t ∧
      t.regionOf home line = some lost ∧ told t 1 (lineAddr line) r.agent r.inc) ∧
    (∀ x, s.arg.m = line → s.renewals.find? (fun x => x.2.1 = s.arg.n && s.deadDue home s.arg.n x.2.2.1) = some x →
      Goes .holderDeadTimeout s fun t => SameMemory s t ∧ t.isDead home s.arg.n x.2.2.1 = true ∧ told t 2 0 s.arg.n x.2.2.1) ∧
    (lineOf s.arg.n = line → s.homeOf s.arg.n = home → r.lastwait + 1000000 ≤ now →
      Goes .lenDouble s fun t => t = s.setRegion { r with len := min 8 (r.len + 1), lastwait := now }) ∧
    (∀ b, lineOf s.arg.n = line → s.homeOf s.arg.n = home → r.busy = false → r.quiet + 1000000 ≤ now → idle →
      s.regions.find? (fun b => siblings r b && (!r.busy && r.quiet + 1000000 ≤ now) && (!b.busy && b.quiet + 1000000 ≤ now)) = some b →
      Goes .regionMerge s fun t => SameMemory s t ∧ ∃ c, t.regionOf home line = some c ∧ c.base = r.base ∧ c.size = r.size + 1 ∧ c.len = min r.len b.len ∧
        c.lmax = max r.lmax b.lmax ∧ c.wmax = max r.wmax b.wmax) ∧
    (s.arg.n = line → r.size = 0 → (s.queueOf line).q = [] → Goes .homeMemoryFailure s fun t => SameMemory s t ∧ t.regionOf home line = some lost ∧
      told t 1 (lineAddr line) r.agent r.inc) ∧
    (∀ m, Arrives s m → m.ty = .renew → m.dst = home → s.isDead home m.agent m.inc = false → s.deadDue home m.agent m.inc = false →
      (∀ o ∈ s.regions, o.agent = m.agent → o.inc = m.inc → s.xexpDue home o = false) → held → r.agent = m.agent → r.inc = m.inc →
      Goes .renew s fun t => SameMemory s t ∧ t.regionOf home line = some { r with xexp := max r.xexp (now + 100000) } ∧
        ∀ x ∈ t.renewals, x.1 = home → x.2.1 = m.agent → x.2.2.1 = m.inc → x.2.2.2 = now) ∧
    (∀ x, s.watches.find? (·.id = s.arg.n) = some x → x.setAt + 1000000 ≤ s.tcAt x.home → Goes .watchTimeout s fun t => SameMemory s t ∧
      t.answered x.home x.msg { id := 0, ty := .watchFire, src := 0, dst := 0, addr := x.msg.addr, reason := 4 } ∧ ∀ y ∈ t.watches, y.id ≠ x.id) ∧
    (∀ m, s.kelvia.find? (·.id = s.arg.n) = some m → Goes .companionMemoryResponse s fun t => SameMemory s t ∧ (∀ o ∈ t.kelvia, o.id ≠ m.id) ∧
      ∃ id, { m with id := id } ∈ t.net)

/-! ### Agents -/

/-- R61, R64, R66, R75, R128, R133: a grant reaches who waits for it, and a core's L1 takes a line that it leases; a read
whose holder answers is bound when grant and data are both there; an acknowledgement ends its request, and its time
raises GWCT; an atomic's value comes into its register. -/
def Obligations.AgentsTakeAnswers : Prop :=
  ∀ (s : State) (m : Msg) (q : Req), Arrives s m → s.reqs.find? (·.tag = m.tag) = some q →
    let gone (t : State) : Prop := ∀ x ∈ t.reqs, x.tag ≠ m.tag
    -- no other warp of the core has a read that may commit now
    let still (mine : WarpKey → Prop) : Prop := q.kind = 0 → ∀ p ∈ s.warps, p.2.die = q.die → p.2.core = q.core → ¬ mine p.1 → p.2.settled = true
    let poison := if m.refused then 3 else m.poison
    (m.ty = .readGrant → m.fwd = false →
      (∀ k w t0 pa, q.users = [.waitm k] → still (fun _ => False) → s.warp? k = some w → w.wait = .waitmRead t0 pa →
        Goes .readGrant s fun t => SameMemory s t ∧ gone t ∧ t.warp? k = some { w with wait := .waitmGot t0 pa m.t1 poison m.data }) ∧
      (q.users = [.prefetch] → still (fun _ => False) → q.kind = 0 → m.once = false → m.refused = false → m.poison = 0 →
        Goes .readGrant s fun t => SameMemory s t ∧ gone t ∧
          ∃ l ∈ t.l1, l.die = q.die ∧ l.core = q.core ∧ l.line = q.line ∧ l.w = m.t1 ∧ l.expiry = m.t2 ∧ l.data = m.data) ∧
      (∀ k w o a, q.users = [.out k o.id] → still (· = k) → Working s k w → w.outs = [o] → o.kind = .load → o.op = .ld → o.finished = false → o.pieces = [] → o.lanes = [a] →
        m.refused = false → m.poison = 0 → m.once = false → s.tcAt w.die < m.t2 → m.t2 < onceUpto → max (w.r.floorOf a.lane) m.t1 ≤ m.t2 →
        a.lane < 128 → (∀ j < a.size, lineOf (a.place j) = q.line) →
        Goes .readGrant s fun t => SameMemory s t ∧ gone t ∧ ∃ w', t.warp? k = some w' ∧ w'.outs = [] ∧ w'.r.pc = w.r.pc ∧
          (0 < a.size → m.t1 ≤ w'.r.floorOf a.lane) ∧
          ∀ g n, o.x.d = .reg g → n < szN (o.x.m 0 3) → w'.r.getV (g.toNat + n) a.lane =
            BitVec.ofNat 32 (ldValue (o.x.m 0 3) (leNat a.size fun j => Line.byte m.data (a.place j % 128)) / 2 ^ (32 * n)))) ∧
    (m.ty = .readGrant → m.fwd = true → q.fwdData = none → Goes .readGrant s fun t => SameMemory s t ∧
      { q with grant := some (m.t1, m.t2, m.once) } ∈ t.reqs) ∧
    (m.ty = .fwdData → q.grant = none → Goes .fwdData s fun t => SameMemory s t ∧ { q with fwdData := some (m.data, m.poison) } ∈ t.reqs) ∧
    (∀ k w t0 pa g, m.ty = .fwdData → q.grant = some g → q.users = [.waitm k] → still (fun _ => False) → s.warp? k = some w → w.wait = .waitmRead t0 pa →
      Goes .fwdData s fun t => SameMemory s t ∧ gone t ∧ t.warp? k = some { w with wait := .waitmGot t0 pa g.1 m.poison m.data }) ∧
    (∀ k w o, q.users = [.out k o.id] → still (· = k) → Working s k w → w.outs = [o] → o.acks.map (·.1) = [m.tag] → o.finished = false →
      let comp := isCompanion (lineAddr q.line)
      let counted (w' : Warp) : Prop := w'.outs = [] ∧ w'.gwct = (if comp then w.gwct else max w.gwct m.t1) ∧ w'.gwctC = (if comp then max w.gwctC m.t1 else w.gwctC)
      (m.ty = .storeAck → o.kind = .store → Goes .storeAck s fun t => SameMemory s t ∧ gone t ∧ ∃ w', t.warp? k = some w' ∧ counted w' ∧ w'.r = w.r) ∧
      (∀ l, m.ty = .atomAck → o.kind = .atom → o.op = .atom ∨ o.op = .cas → o.lanes = [l] → l.tag = m.tag → m.refused = false → m.poison = 0 →
        Goes .atomAck s fun t => SameMemory s t ∧ gone t ∧ ∃ w', t.warp? k = some w' ∧ counted w' ∧ (w.wait = .acks → w'.wait = .none) ∧
          m.t1 ≤ w'.r.floorOf l.lane ∧ ∀ g n, o.x.d = .reg g → n < (if 2 ≤ o.x.m 0 2 then 2 else 1) →
            w'.r.getV (g.toNat + n) l.lane = BitVec.ofNat 32 (m.data.toNat % 2 ^ 64 / 2 ^ (32 * n))))

/-- R72 to R78: a holder asked by a Forward sends its data to the reader and a Writeback with FWD, and one asked by a
Recall a Writeback with RELEASE, and holds the line no more; it renews every 25 µs, and stops using a line at its own
bound: a copy engine that had written it reports the loss. A holder that has sent no Renew for 75 µs writes back first (the
model's choice, log 80). -/
def Obligations.HoldersAnswer : Prop :=
  ∀ (s : State) (h : Hold), s.resting h.user →
    let none' (t : State) : Prop := ∀ o ∈ t.holds, h.is o = false
    let failed (t : State) : Prop := h.dirty ≠ 0 → agentKind h.agent = 1 → ∀ c, t.copies.find? (·.id = h.user) = some c → c.cause ≠ 0
    let returned (t : State) (fwd : Bool) : Prop := ∃ wb ∈ t.net, wb.ty = .writeback ∧ wb.fwd = fwd ∧ wb.release = !fwd ∧ wb.src = h.unit ∧
      wb.dst = s.homeOf (lineAddr h.line) ∧ wb.addr = lineAddr h.line ∧ wb.agent = h.agent ∧ wb.inc = h.inc ∧ wb.mask = h.dirty ∧ wb.data = h.data
    (∀ m, Arrives s m → m.ty = .forward ∨ m.ty = .recall → s.holds.find? (fun h => h.unit = m.dst && h.line = lineOf m.addr && h.st = 1) = some h →
      (s.holdLive h = true → Goes (if m.ty = .forward then .forward else .recall) s fun t => SameMemory s t ∧ none' t ∧ returned t (m.ty = .forward) ∧
        (m.ty = .forward → ∃ d ∈ t.net, d.ty = .fwdData ∧ d.tag = m.tag ∧ d.dst = s.agentDst m.agent (lineAddr h.line) ∧ d.poison = h.bad ∧ d.data = h.data)) ∧
      (s.holdLive h = false → Goes (if m.ty = .forward then .forward else .recall) s fun t => SameMemory s t ∧ none' t ∧ failed t)) ∧
    (s.holds.find? (fun h => !s.dieDown h.unit && h.agent = s.arg.n && h.st = 1 && h.renewed + 25000 ≤ s.tcAt h.unit) = some h →
      Goes .renewTimer s fun t => SameMemory s t ∧ (∃ m ∈ t.net, m.ty = .renew ∧ m.dst = s.homeOf (lineAddr h.line) ∧ m.agent = h.agent ∧ m.inc = h.inc) ∧
        ∀ o ∈ t.holds, o.agent = h.agent → o.st = 1 → o.renewed = s.tcAt h.unit ∧ s.tcAt h.unit + 100000 - s.eAt h.unit ≤ o.till) ∧
    (s.holds.find? (fun h => h.agent = s.arg.n && h.line = s.arg.m && h.st = 1) = some h →
      (h.till ≤ s.tcAt h.unit → Goes .holderLeaseBound s fun t => SameMemory s t ∧ none' t ∧ failed t) ∧
      (s.tcAt h.unit < h.till → h.renewed + 75000 ≤ s.tcAt h.unit → Goes .holderLeaseBound s fun t => SameMemory s t ∧ none' t ∧ returned t false) ∧
      (s.tcAt h.unit < h.till → s.tcAt h.unit < h.renewed + 75000 → Goes .holderLeaseBound s fun t => t = s)) ∧
    (∀ m o, Arrives s m → m.ty = .exclGrant → s.holds.find? (fun h => h.st = 0 && h.reader.tag = m.tag) = some h →
      (agentKind h.agent = 1 → m.refused = false → h.asked = 0 → s.tcAt h.unit < m.t2 - s.eAt h.unit →
        (∀ c ∈ s.copies, c.id = h.user → s.copyNeeds c h.line = true) →
        (∀ o ∈ s.holds, o.agent = h.agent → o.line = h.line → o = h) → Goes .exclGrant s fun t => SameMemory s t ∧
        { h with st := 1, till := m.t2 - s.eAt h.unit, renewed := s.tcAt h.unit, data := m.data, bad := m.poison } ∈ t.holds) ∧
      (agentKind h.agent = 7 → m.refused = false → o.op = 0 ∨ m.poison = 0 → s.incoming.find? (·.id = h.user) = some o → Goes .exclGrant s fun t => SameMemory s t ∧ none' t ∧
        ∃ wb ∈ t.net, wb.ty = .writeback ∧ wb.release = true ∧ wb.agent = h.agent ∧ wb.addr = lineAddr h.line ∧
          (∀ b < 128, wb.mask.getLsbD b = true ↔ ∃ i < o.len, lineOf (pagePa o.pages (o.addr + i)) = h.line ∧ (o.addr + i) % 128 = b) ∧
          (o.op = 0 → ∀ i < o.len, lineOf (pagePa o.pages (o.addr + i)) = h.line →
            (∀ j < o.len, i < j → lineOf (pagePa o.pages (o.addr + j)) = h.line → (o.addr + j) % 128 ≠ (o.addr + i) % 128) →
            Line.byte wb.data ((o.addr + i) % 128) = (o.data[i]?).getD 0)))

/-- R52, R80, R83, R85, R433, R475, R482: what other messages do where they arrive. -/
def Obligations.OtherMessages : Prop :=
  ∀ (s : State) (m : Msg), Arrives s m →
    (∀ k w t0 lim, m.ty = .watchFire → m.dst ≠ bn1Unit → s.warp? k = some w → w.wait = .waitm t0 m.tag lim → w.die = m.dst →
      Goes .watchFire s fun t => SameMemory s t ∧ t.warp? k = some { w with wait := .waitmAgain t0 }) ∧
    (m.ty = .lostNotice → m.dst = 257 ∨ m.dst = 261 → m.op / 256 ≠ 6 → Goes .lostNotice s fun t => SameMemory s t ∧
      ∃ n ∈ t.notices, n.type = m.op / 256 ∧ n.cause = m.op % 256 ∧ n.agent = m.agent ∧ n.addr = m.addr ∧
        (s.ringFree rNrTail rNrHead rNrLog = true → (∀ x ∈ s.notices, x.tag = 0) → n.tag ≠ 0 ∧
          ∃ o ∈ t.net, o.ty = .storeReq ∧ o.tag = n.tag ∧ o.addr = s.reg rNrBase + 32 * (s.reg rNrTail % 2 ^ s.reg rNrLog))) ∧
    (∀ q id, m.ty = .storeAck → m.refused = false → s.reqs.find? (·.tag = m.tag) = some q → q.users = [.notice id] → q.kind ≠ 0 →
      Goes .storeAck s fun t => SameMemory s t ∧ t.reg rNrTail = s.reg rNrTail + 1 ∧ ∀ n ∈ t.notices, n.id ≠ id) ∧
    (∀ h, m.ty = .lostNotice → m.dst ≠ 257 → m.dst ≠ 261 → s.holder m.agent (lineOf m.addr) m.inc h → agentKind h.agent = 1 → s.resting h.user →
      Goes .lostNotice s fun t => SameMemory s t ∧ (∀ o ∈ t.holds, h.is o = false) ∧
        (h.dirty ≠ 0 → ∀ c, t.copies.find? (·.id = h.user) = some c → c.cause ≠ 0)) ∧
    (∀ n, m.ty = .unknown n → Goes .unknownMessage s fun t => SameMemory s t ∧ t.errors.get 0 m.dst = s.errors.get 0 m.dst + 1 ∧ t.warps = s.warps ∧
      ∀ o ∈ t.net, o.id ≠ m.id) ∧
    (∀ k w left n, m.ty = .lostAnswer → s.warp? k = some w → w.wait = .rgnclr left n → m.tag ∈ left →
      Goes .lostClearAnswer s fun t => SameMemory s t ∧ t.warp? k = some { w with wait := .rgnclr (left.filter (· ≠ m.tag)) (n + m.t1) }) ∧
    (m.ty = .tlbInv → m.once = false → s.arg.flag = false → Goes .translationInvalidate s fun t => SameMemory s t ∧
      ∀ x ∈ t.tlbs, x.die = tlbDie m.dst → x.asid = m.inc → ¬ (m.op = 2 ∧ x.g = true) → invalHits m.op m.addr m.t2 (x.page * 2 ^ x.bits) (2 ^ x.bits) = false) ∧
    (m.ty = .tlbInv → m.once = true → s.arg.flag = false → s.olderAccess m.dst m.t1 = false → Goes .translationInvalidate s fun t => SameMemory s t ∧
      ∃ a ∈ t.net, a.ty = .tlbAck ∧ a.tag = m.tag ∧ a.src = m.dst ∧ a.dst = m.reason) ∧
    (∀ v k w, m.ty = .tlbAck → s.invals.find? (·.id = m.tag) = some v → v.left = [m.src] → v.warp = some k → s.warp? k = some w → w.wait = .inval v.id →
      Goes .invalidationAcknowledge s fun t => SameMemory s t ∧ t.warp? k = some { w with wait := .inval 0 } ∧ ∀ o ∈ t.invals, o.id ≠ v.id) ∧
    (∀ g, m.ty = .stealReq → s.grid? m.t1 = some g → g.ending = none → s.panel.gating.get 0 m.dst < 2 → (s.overOf m.t1 (g.groupOn m.dst)).queued = 0 →
      let answers (t : State) (items : List Line) : Prop := ∃ a ∈ t.net, a.ty = .stealReply ∧ a.src = m.dst ∧ a.dst = m.src ∧ a.t1 = m.t1 ∧ a.t2 = m.t2 ∧ a.items = items
      (s.fullestPod m.dst m.t1 = none → Goes .stealRequest s fun t => SameMemory s t ∧ answers t []) ∧
      (∀ p, s.fullestPod m.dst m.t1 = some p → s.podPoisoned p = false → Goes .stealRequest s fun t => SameMemory s t ∧
        answers t ((p.free.take (min m.op (p.items.length / 2))).map (·.item)))) ∧
    (∀ th p, m.ty = .stealReply → s.steals.find? (fun t => t.die = m.dst && t.core = m.t2 && t.grid = m.t1) = some th → m.items ≠ [] →
      s.podOf m.dst m.t2 m.t1 = some p → Goes .stealReply s fun t => SameMemory s t ∧
        t.podOf m.dst m.t2 m.t1 = some { p with items := p.items ++ m.items.map fun it => ⟨it, s.now, some 0⟩ })

/-! ### Warps and their units -/

/-- R98, R118, R381 to R383, R393, R464: what lets a warp go on, and what its trap entry and its pending causes come
to. -/
def Obligations.WarpsGoOn : Prop :=
  ∀ (s : State) (w : Warp), s.warp? s.arg.w = some w →
    let k := s.arg.w
    (∀ t g, w.trapping = some t → w.parked = false → s.dieDown w.die = false → w.outs = [] → s.entryReady w t = true → t.cause ≠ cResume ∨ w.saving ≠ 2 →
      s.grid? k.grid = some g → g.header.hasTrap = true → Goes .trapEntry s fun u => SameMemory s u ∧ ∃ r, u.warp? k = some { w with r := r, trapping := none, wait := .none } ∧
        r.tmode = true ∧ r.pc = pcOf (g.entry + BitVec.ofInt 64 g.header.trap) ∧ r.mask = w.r.live ∧ r.imask = w.r.mask ∧ r.ipc = t.lpc ∧
        r.fcause.extractLsb' 0 8 = BitVec.ofNat 8 t.cause) ∧
    (w.trapping = none → s.dieDown w.die = false → w.r.tmode = false → w.sprout = none → w.parked = false → w.halted = false → w.r.live ≠ 0 → w.outs = [] →
      w.wait = .none → w.r.recr.state ≠ 1 → w.pending.halt = false →
      (w.pending.watchdog = true ∨ w.pending.preempt = true) → Goes .trapEntry s fun u => SameMemory s u ∧ ∃ v t, u.warp? k = some v ∧ v.trapping = some t ∧
        t.cause = (if w.pending.watchdog then 13 else 14) ∧ t.lpc = w.r.pc ∧ t.async = true ∧ v.r.pc = w.r.pc ∧ v.r.mask = w.r.mask) ∧
    (w.trapping = none → s.dieDown w.die = false → w.sprout = none → w.parked = false → w.halted = false → w.r.live ≠ 0 → w.outs = [] →
      w.wait = .none → w.r.recr.state ≠ 1 → w.pending.halt = true → Goes .trapEntry s fun u => SameMemory s u ∧ ∃ v, u.warp? k = some v ∧ v.halted = true ∧
        v.trapping = none ∧ v.r.pc = w.r.pc ∧ v.r.mask = w.r.mask ∧ (w.r.tmode = true → v.r.ipc = w.r.ipc ∧ v.r.imask = w.r.imask)) ∧
    (∀ sc, w.wait = .fence sc → s.fenceHolds w sc = true → Goes .fenceComplete s fun u =>
      SameMemory s u ∧ u.warp? k = some { w with wait := .none }) ∧
    (∀ till len, w.wait = .sleep till len → till ≤ s.tcAt w.die → Goes .sleepEnd s fun u =>
      u = s.setWarp k { w with wait := .none, r := { w.r with pc := w.r.pc + BitVec.ofNat 64 len } }) ∧
    (∀ t0 tag lim, w.wait = .waitm t0 tag lim → lim ≠ 0 → t0 + lim ≤ s.tcAt w.die → Goes .waitmTimeout s fun u => SameMemory s u ∧
      u.warp? k = some { w with wait := .waitmAgain t0 }) ∧
    ((∀ o ∈ w.outs, o.kind ≠ .sprouts ∧ o.kind ≠ .stream) → w.active = false → w.parked = false → w.halted = false → w.trapping = none → w.r.live ≠ 0 → w.wait.ready = true →
      s.activeCount w.die w.core < 8 → Goes .warpActivate s fun u => SameMemory s u ∧ u.warp? k = some { w with active := true }) ∧
    (∀ p o, w.sprout = some p → s.dieDown w.die = false → w.r.live ≠ 0 → s.overBudget k w = true → s.warp? p.owner = some o → o.r.recr.state = 1 →
      Goes .sproutBudgetExpire s fun u => SameMemory s u ∧ u.warp? p.owner = some { o with release := max o.release 1 }) ∧
    (Working s k w → s.dieDown w.die = false → w.sprout = none → w.release = 1 → s.releaseHolds k = true → Goes .recruitmentReleaseDone s fun u => SameMemory s u ∧
      u.warp? k = some { s.joinSprouts k w with release := 0, r := { (s.joinSprouts k w).r with recr := { w.r.recr with state := 3 } } } ∧ ∀ q ∈ u.warps, ∀ p, q.2.sprout = some p → p.owner ≠ k)

/-- R118, R123, R125: a core clears a team's scratch line by line, and a scratch access reaches the vault: a load takes its
bytes, a store puts them there, an atomic does both. -/
def Obligations.ScratchAccessesPerform : Prop :=
  ∀ (s : State),
    (∀ tm g, s.team? s.arg.t = some tm → s.grid? s.arg.t.grid = some g → tm.resident = true → s.dieDown tm.die = false → tm.cleared < roundUpTo 1024 g.scratch →
      Goes .scratchClear s fun t => SameMemory s t ∧ t.team? s.arg.t = some { tm with cleared := tm.cleared + 128 } ∧
        ∀ a, t.vault.get 0 a = if tm.base + tm.cleared ≤ a ∧ a < tm.base + tm.cleared + 128 then 0 else s.vault.get 0 a) ∧
    (∀ w o l, Working s s.arg.w w → s.dieDown w.die = false → w.outs = [o] → o.id = s.arg.n → o.finished = false → o.lanes = [l] → l.done = false → l.asked = false →
      l.lane < 128 → 0 < l.size → s.scratchReady l.a l.size = true → (∀ n, s.inflight.get 0 n = 0) → (∀ a, s.mapAt a = none) → s.eccVault = [] →
      let old := leNat l.size fun j => s.vault.get 0 (l.a + j)
      let into (v : Warp) (x : Nat) : Prop := ∀ g, o.x.d = .reg g → v.r.getV g.toNat l.lane = BitVec.ofNat 32 x
      let ends (t : State) (p : Warp → Prop) : Prop := ∃ v, t.warp? s.arg.w = some v ∧ v.outs = [] ∧ v.r.pc = w.r.pc ∧ (w.wait = .acks → v.wait = .none) ∧ p v
      let writes (t : State) (x : Nat) : Prop := ∀ a, t.vault.get 0 a = if l.a ≤ a ∧ a < l.a + l.size then BitVec.ofNat 8 (x / 256 ^ (a - l.a)) else s.vault.get 0 a
      (o.kind = .vload → o.op = .ld → Goes .vaultAccessComplete s fun t => SameMemory s t ∧ t.vault = s.vault ∧ ends t fun v => into v (ldValue (o.x.m 0 3) old)) ∧
      (o.kind = .vstore → o.op = .st → Goes .vaultAccessComplete s fun t => SameMemory s t ∧ writes t l.data ∧ ends t fun v => v.r = w.r) ∧
      (o.kind = .vatom → o.op = .atom ∨ o.op = .cas → Goes .vaultAccessComplete s fun t => SameMemory s t ∧
        writes t (atomApply (atomCode o.op o.x) old l.data l.cmp) ∧ ends t fun v => into v old))

/-- R48, R51, R53 to R55, R480, R481: a walk reads the next line of its tables; its end puts the page's translation into the
die's cache, or makes a fault record, and the warps that waited execute again; a record is stored to the ring when it has room,
and FQ_TAIL rises once it has performed; the companion's reply lets what waits on the record try again, after a new walk that
reads every level, or ends it with PROT. -/
def Obligations.TranslationGoesOn : Prop :=
  ∀ (s : State),
    let wakes (t : State) (wt : Warp → Prop) : Prop := ∀ k v, s.warp? k = some v → wt v → v.outs = [] → t.warp? k = some { v with wait := .none }
    (∀ w, s.walks.find? (·.id = s.arg.n) = some w → s.walkerFree w = true → s.dieDown w.die = false → w.tag = 0 →
      (∀ s' line, s.walkPage w = (s', .read line) → Goes .walkDone s fun t => SameMemory s t ∧ ∃ m ∈ t.net, m.ty = .readReq ∧ m.addr = lineAddr line ∧
        m.dst = s.homeOf (lineAddr line) ∧ agentKind m.agent = (if w.die = bn1 then 9 else 4) ∧ m.once = (w.once || w.die = bn1 : Bool)) ∧
      (∀ s' bits pa wr x pin g, s.Calm → s.walkPage w = (s', .found (.leaf bits pa wr x pin g)) → (∀ kd ∈ w.kinds, permits kd wr x = true) →
        Goes .walkDone s fun t => SameMemory s t ∧ (∀ o ∈ t.walks, o.id ≠ w.id) ∧ (⟨2, w.die, 0, w.asid, bits, w.va / 2 ^ bits, pa, wr, x, pin, g⟩ : Tlb) ∈ t.tlbs ∧
          wakes t fun v => ∃ l a, v.wait = .walk w.id l a) ∧
      (∀ s' kd bits cause, s.Calm → s.walkPage w = (s', .found (.bad cause false bits)) → w.kinds = [kd] → (s.faults.any fun f => f.meets w.die w.asid kd w.va) = false →
        Goes .walkDone s fun t => SameMemory s t ∧ (∀ o ∈ t.walks, o.id ≠ w.id) ∧ (wakes t fun v => ∃ l a, v.wait = .walk w.id l a) ∧
          ∃ f ∈ t.faults, f.die = w.die ∧ f.asid = w.asid ∧ f.kind = kd ∧ f.cause = cause ∧ f.va = w.va / 2 ^ bits * 2 ^ bits)) ∧
    (∀ f, s.faults.find? (·.id = s.arg.n) = some f → f.written = false → f.declined = false → (∀ o ∈ s.faults, o.tag ≠ 0 → o.written = true) →
      s.ringFree rFqTail rFqHead rFqLog = true →
      let a := s.reg rFqBase + 32 * (s.reg rFqTail % 2 ^ s.reg rFqLog)
      a % 32 = 0 → Goes .faultRecordRetry s fun t => SameMemory s t ∧ ∃ m ∈ t.net, m.ty = .storeReq ∧ m.addr = lineAddr (lineOf a) ∧ m.mask = byteMask (a % 128) 32 ∧
        (∀ i < 32, Line.byte m.data (a % 128 + i) = BitVec.ofNat 8 (f.bytes / 256 ^ i)) ∧ ∃ q ∈ t.reqs, q.tag = m.tag ∧ q.users = [.fault f.id]) ∧
    (∀ m q f, Arrives s m → m.ty = .storeAck → m.refused = false → s.reqs.find? (·.tag = m.tag) = some q → q.kind ≠ 0 → q.users = [.fault f.id] →
      s.faults.find? (·.id = f.id) = some f → Goes .storeAck s fun t => SameMemory s t ∧ t.reg rFqTail = s.reg rFqTail + 1 ∧
        ∃ o ∈ t.faults, o.id = f.id ∧ o.written = true ∧ o.token = f.token) ∧
    (∀ f, s.faults.find? (fun f => f.written && !f.declined && f.token % 2 ^ 32 = s.arg.v.toNat % 2 ^ 32) = some f → s.dieDown f.die = false → s.Calm →
      (s.arg.v.getLsbD 32 = false → Goes .fqReplyResolve s fun t => SameMemory s t ∧ (∀ o ∈ t.faults, o.id ≠ f.id) ∧
        (wakes t fun v => ∃ l a, v.wait = .page f.id l a) ∧
        (∃ w ∈ t.walks, w.die = f.die ∧ w.asid = f.asid ∧ w.va / 2 ^ 16 = f.va / 2 ^ 16 ∧ f.kind ∈ w.kinds ∧ w.once = true) ∧
        ∀ x ∈ t.tlbs, x.die = f.die → x.asid = f.asid → f.va + 2 ^ f.bits ≤ x.page * 2 ^ x.bits ∨ x.page * 2 ^ x.bits + 2 ^ x.bits ≤ f.va) ∧
      (∀ k w g l a, s.arg.v.getLsbD 32 = true → s.unitWaits = [] → s.warp? k = some w → w.wait = .page f.id l a → w.outs = [] → w.sprout = none → w.r.tmode = false → w.r.live ≠ 0 → w.parked = false →
        (∀ q ∈ s.warps, q.1 ≠ k → q.2.outs = [] ∧ ∀ l a, q.2.wait ≠ .page f.id l a) → s.grid? k.grid = some g → g.header.hasTrap = true → f.cause < 256 →
        Goes .fqReplyDecline s fun t => SameMemory s t ∧ (∀ o ∈ t.faults, o.id ≠ f.id) ∧ ∃ r, t.warp? k = some { w with r := r, trapping := none, wait := .none } ∧
          r.tmode = true ∧ r.fcause.extractLsb' 0 8 = BitVec.ofNat 8 cProt ∧ r.fcause.extractLsb' 8 8 = BitVec.ofNat 8 f.cause ∧ r.faddr = a))

/-- R108, R152, R158, R311, R314, R334: a copy engine sends the next chunk of the copy it serves; a copy all of whose
writes have passed arrives on its barrier register; a cluster's arbiter grants an entry; a granted entry commits its next
row group; the stream unit asks for a line ahead of a cursor. -/
def Obligations.UnitsGoOn : Prop :=
  ∀ (s : State),
    (∀ c, let e := s.engineOf s.arg.n s.arg.m
      let d := (e.deficit[e.turn]?).getD 0 + (if e.fresh then 1024 * 2 ^ e.turn else 0)
      let size := partsSize c.nextChunk.1
      s.dieDown s.arg.n = false → e.turn < e.deficit.length → s.served e.die e.cluster e.turn = some c → c.paused = none → size ≤ d → s.faults = [] →
      (∀ o ∈ s.copies, o.id = c.id → o = c) → c.mode = 0 ∨ (∀ p ∈ c.nextChunk.1, c.entries.any (·.1 = p.1) = true) →
      Goes .copyChunkSend s fun t => (∃ c' ∈ t.copies, c'.id = c.id ∧ c'.rows = c.nextChunk.2.1 ∧ c'.cut = c.nextChunk.2.2) ∧
        ((t.engineOf e.die e.cluster).deficit[e.turn]?).getD 0 = d - size) ∧
    (∀ c k w, s.copies.find? (·.id = s.arg.n) = some c → s.dieDown c.die = false → s.copyOver c = true → s.passed c.die c.latest = true → Working s k w →
      k.teamKey = c.team → (s.team? c.team).isSome = true → (∀ o ∈ s.copies, o.team = c.team → o.order ≠ 0) → Goes .copyArrive s fun t => SameMemory s t ∧ (∀ o ∈ t.copies, o.id ≠ c.id) ∧
        t.bar c.team (c.desc.bar % 16) = (s.bar c.team (c.desc.bar % 16)).arrive 1 (some (c.cause ≠ 0 : Bool))) ∧
    (∀ e, let mine := s.mats.filter fun e => e.die = s.arg.n && e.cluster = s.arg.m
      s.dieDown s.arg.n = false → (s.matStarted s.arg.n s.arg.m).length < 2 →
      pickEntry (mine.filter fun e => !e.granted && e.parked.isNone && !(mine.any fun o => o.warp = e.warp && o.id < e.id && !o.granted)) = some e →
      Goes .matrixGrant s fun t => SameMemory s t ∧ t.warps = s.warps ∧ ∃ e' ∈ t.mats, e'.id = e.id ∧ e'.warp = e.warp ∧ e'.job = e.job ∧ e'.granted = true) ∧
    (∀ e w g, s.warp? s.arg.w = some w → s.matRuns w.die (w.core / 4) = some e → e.warp = s.arg.w → s.dieDown e.die = false →
      let j := e.matJob
      let p := e.pipe w
      let ls := j.groupLanes g
      let all := ls.foldl (fun r l => j.lane ⟨s.matBytes p j false, s.matBytes p j true⟩ w.width l r) w.r
      j.nextGroup w.width = some g → (∀ x ∈ j.reads (maskOf ls), ∃ n, s.pipeRead p x.1 x.2.1 x.2.2 = .val n) →
      Goes .rowGroupCommit s fun t => SameMemory s t ∧ ∃ v, t.warp? s.arg.w = some v ∧ v.r.v = w.r.v ∧ v.r.pc = w.r.pc ∧
        (∀ l ∈ ls, ∀ n < j.accs, v.r.getF (j.dreg + n) l = all.getF (j.dreg + n) l) ∧
        ∀ n l, l < 128 → ¬ (l ∈ ls ∧ j.dreg ≤ n ∧ n < j.dreg + j.accs) → v.r.getF n l = w.r.getF n l) ∧
    (∀ w s' pa a size, s.warp? s.arg.w = some w →
      let p := w.streamPipe s.arg.w s.arg.n
      let x := w.r.getX s.arg.n
      s.dieDown w.die = false → w.parked = false → w.wait ≠ .acks → x.st = 1 ∨ x.st = 4 → x.ahead = [(a, size)] → x.space = 0 → s.pipeRead p 0 a size = .need →
      s.lookAt p.reader (a / 128) = none → s.translateUnit w.die p.unit (p.asid s) p.kind (a / 128 * 128) = (s', .ok pa) →
      Goes .lookaheadRead s fun t => SameMemory s t ∧ t.warps = s.warps ∧ (∃ q ∈ t.reqs, q.line = lineOf pa ∧ q.once = true ∧ q.users = [.look p.reader]) ∧
        ∃ m ∈ t.net, m.ty = .readReq ∧ m.once = true ∧ m.addr = lineAddr (lineOf pa))

/-! ### The distributor and the dispatchers -/

/-- R394, R397, R398, R404, R408, R420, R434: an entry of the queue table takes its image; a TAIL that is bound is held, and
a queue whose TAIL is behind its HEAD stops; the slots go round; the first eligible head becomes a grid; a grid that has
ended and has nothing on its way is gone; deferred decrements leave as one atomic add to OUTSTANDING. -/
def Obligations.DistributorSteps : Prop :=
  ∀ (s : State),
    let n := s.arg.n
    (∀ img, img = s.arg.img.toNat → s.queue? n = none → n < 4096 → entryClear img = true → (imageField img 0x14 1 = 1 → entryOk img = true) →
      Goes .queueTableWrite s fun t => SameMemory s t ∧ ∃ q, t.queue? n = some q ∧ q.base = img % 2 ^ 64 ∧ q.ctl = img / 2 ^ 64 % 2 ^ 64 ∧ q.log = img / 2 ^ 128 % 256 ∧
        q.cls = img / 2 ^ 136 % 256 ∧ q.asid = img / 2 ^ 144 % 2 ^ 16 ∧ (q.enable = true ↔ img / 2 ^ 160 % 256 = 1) ∧ q.mapped = false ∧ q.stopped = false) ∧
    (∀ q, s.queue? n = some q → q.enable = true → s.arg.img.toNat = Queue.image { q with enable := false } → Goes .queueTableWrite s fun t => SameMemory s t ∧
      t.queue? n = some { q with enable := false, mapped := false, record := none, waitW := none, eligible := none, kept := [], zeroed := none }) ∧
    (∀ q s' s'' pa d, s.queue? n = some q → q.live = true → q.mapped = true → q.fresh = false → s.ctlReach q kLoad = (s', .at pa) →
      s'.distBytes q.asid q.ctl 128 (.ring n) = .ok s'' d →
      let tail := imageField d.val 0 8
      (tail = q.head → Goes .queueTailBind s fun t => SameMemory s t ∧ ∃ q', t.queue? n = some q' ∧ q'.tail = tail ∧ q'.head = q.head) ∧
      (tail < q.head ∨ q.head + 2 ^ q.log < tail → Goes .queueTailBind s fun t => SameMemory s t ∧ ∃ q', t.queue? n = some q' ∧ q'.stopped = true ∧ q'.record = none)) ∧
    (s.rotated + 50000 ≤ s.tcDist → (∀ q ∈ s.queues, q.live = true → q.mapped = true) →
      let keep := s.rotation.filter fun n => (s.queue? n).any (·.nonEmpty)
      let w := keep ++ ((s.queues.filter fun q => q.nonEmpty && !keep.contains q.num).foldl (fun l q => insertQueue q l) []).map (·.num)
      Goes .slotRotation s fun t => t.rotated = s.tcDist ∧ t.rotation = (if w.length ≤ 256 then w else w.drop 256 ++ w.take 256) ∧
        ∀ q ∈ t.queues, q.mapped = true → q.num ∈ w.take 256) ∧
    (∀ q g s' s'' pa, 4 ≤ s.panel.stage → s.panel.stage ≠ 15 → s.panel.sitesOut = [] → s.badHead.isNone = true → s.setSize < 16 → s.serviceDies ≠ [] →
      s.firstHead = some q → s.headCheck q (q.record.getD 0) = .ok s' g → g.coop = false → g.pool = false → s'.ctlReach q kStore = (s'', .at pa) →
      Goes .launchAdmit s fun t => SameMemory s t ∧ t.grid? s''.nextGrid = some { g with l := { g.l with dies := s'.bindGroups g, waits := List.replicate g.ndie s'.now } } ∧ t.nextGrid = s''.nextGrid + 1) ∧
    (∀ g, s.teams = [] → s.grid? n = some g → g.ending = some 0 → s.gridBusy n = false → s.unitBusy (.unit (.ring g.l.queue)) = false → s.passed bn1Unit g.gwct = true → s.passed bn1Unit g.gwctC = true →
      (g.l.signal = 0 → Goes .gridComplete s fun t => SameMemory s t ∧ t.grid? n = none) ∧
      (∀ s' pa, let u : State := { s.endQuiet n with grids := (s.endQuiet n).grids.modify n fun g => { g with l := { g.l with inSet := false } } }
        g.l.signal ≠ 0 → u.unitReach bn1 g.asid kAtomic g.l.signal.toNat (.signal n) = (s', .at pa) → Goes .gridComplete s fun t => SameMemory s t ∧ t.grid? n = none ∧
          ∃ m ∈ t.net, m.ty = .atomReq ∧ m.agent = distAgent ∧ m.addr = lineAddr (lineOf pa) ∧ m.mask = byteMask (pa % 128) 8 ∧ m.op = 0x300)) ∧
    (∀ g s' page, s.grid? n = some g → g.pool = true → g.ending = none → g.allPlaced = true → (s.pods.any fun p => p.grid = n && (p.owed ≠ 0 || p.items.any (!·.counted))) = false →
      (s.steals.any fun t => t.grid = n && t.waiting) = false → (s.net.any fun m => (m.ty = .stealReq || m.ty = .stealReply) && m.t1 = n) = false →
      (s.warps.any fun p => p.1.grid = n && (p.2.r.live ≠ 0 || p.2.parked)) = false →
      s.overflowPage (((g.l.dies.head?).bind id).getD 0) n g kLoad = (s', .at page) → s'.poisoned page 128 = false → readBytes s'.mem page 8 = 0 →
      Goes .poolGridTermination s fun t => t = { s' with grids := s'.grids.modify n fun x => { x with ending := some 0 } }.leaveAll) ∧
    (∀ g p s' page, s.dieDown n = false → s.grid? s.arg.k = some g → s.podOf n s.arg.m s.arg.k = some p → p.owed ≠ 0 →
      s.overflowPage n s.arg.k g kAtomic = (s', .at page) → page % 8 = 0 → (∀ p ∈ s.pods, s.gridOn p.die p.core p.grid = true) →
      Goes .outstandingDecrementSend s fun t => SameMemory s t ∧ t.podOf n s.arg.m s.arg.k = some { p with owed := 0 } ∧
        ∃ m ∈ t.net, m.ty = .atomReq ∧ m.noret = true ∧ m.op = 0x300 ∧ m.agent = agentId 5 n 0 ∧ m.addr = lineAddr (lineOf page) ∧ m.mask = byteMask (page % 128) 8 ∧
          lineNat m.data (page % 128) 8 = (2 ^ 64 - p.owed % 2 ^ 64) % 2 ^ 64)

/-- R408, R409, R411, R413, R415, R416, R418, R419, R465, R473: launches that have waited reserve and pre-empt; the next team
of a launch is seated, and its warps start; a team that is asked to leave has PREEMPT pending in its live warps, and one
that comes back RESUME; a silent core and a long-resident team give way; a watchdog's limits raise WATCHDOG, then end the
grid. -/
def Obligations.DispatcherSteps : Prop :=
  ∀ (s : State),
    let n := s.arg.n
    let tk := s.arg.t
    (∀ g, s.grid? n = some g → g.l.inSet = true → g.l.passed.isSome = true → g.l.since + 1000000 ≤ s.tcDist → Goes .dieReserve s fun t => SameMemory s t ∧
      t.grid? n = some { g with l := { g.l with reserving := true } }) ∧
    (∀ g die v, s.grid? n = some g → g.l.inSet = true → g.ending = none → max g.l.since (g.l.eligible + (4 - g.l.cls) * 200000) + 1000000 ≤ s.tcDist →
      let u : State := { s with grids := s.grids.modify n fun g => { g with l := { g.l with preempting := true } } }
      g.ndie = 1 → g.dieOf 0 = some die → g.left 0 = true → (u.gangSeats n g 0 die (g.nextOf 0)).isNone = true → u.anyLeaving die = false → u.victim die g.l.cls = some v →
      Goes .priorityPreempt s fun t => t = u.requestPreempt v []) ∧
    (∀ g grp u tm, s.rebind.unblockEnded = s → s.grid? n = some g → g.l.inSet = true → g.ending = none → s.panel.inService s.arg.m = true → s.dieDown s.arg.m = false →
      s.panel.sitesOut = [] → s.heldUp n g s.arg.m = false → (g.groupsOn s.arg.m).find? g.left = some grp → s.panel.gating.get 0 s.arg.m = 0 →
      s.gangSeats n g grp s.arg.m (g.nextOf grp) = some (u, 1) → u.team? ⟨n, g.nextOf grp⟩ = some tm → tm.core = s.arg.k →
      Goes .teamPlace s fun t => SameMemory s t ∧ ∃ g' tm', t.grid? n = some g' ∧ g'.l.next = g.l.next.set grp (g.nextOf grp + 1) ∧
        t.team? ⟨n, g.nextOf grp⟩ = some tm' ∧ tm'.die = tm.die ∧ tm'.core = tm.core ∧ tm'.resident = tm.resident ∧
        (g'.ending = none → ∀ i < tm.warps, ∃ w, t.warp? ⟨n, g.nextOf grp, i, 0⟩ = some w ∧ w.die = tm.die ∧ w.core = tm.core ∧ w.r.pc = g.entry ∧ w.r.mask = w.r.live ∧
          w.r.live = fullMask (min g.header.width (g.dims.1 * g.dims.2.1 * g.dims.2.2 - i * g.header.width)) ∧ ∀ l, w.r.live.getLsbD l = true → w.r.floorOf l = g.l.floor)) ∧
    (∀ tm, s.company tk = [(tk, tm)] → s.team? tk = some tm → tm.resident = true → s.dieDown tm.die = false → s.liveWarps tk ≠ [] →
      (∃ p ∈ s.ownWarps tk, p.2.r.live ≠ 0 ∧ p.2.parked = false) →
      Goes .preemptRequest s fun t => SameMemory s t ∧ t.team? tk = some { tm with behind := [] } ∧ ∀ k w, k.teamKey = tk → k.ctx = 0 → s.warp? k = some w →
        t.warp? k = some (if w.r.live ≠ 0 ∧ w.parked = false then { w with pending := { w.pending with preempt := true } } else w)) ∧
    (∀ g w tm tm' u, s.rebind.unblockEnded = s → (s.outWaiting n).find? (·.t = tk) = some w → s.grid? tk.grid = some g → s.company tk = [(tk, tm)] →
      s.panel.inService n = true → s.dieDown n = false → s.panel.sitesOut = [] → s.keptFrom tk.grid n = false →
      (s.outWaiting n).any (fun v => s.waitsBefore v w && (s.grid? v.t.grid).any fun h => s.resumeFits h n (s.company v.t)) = false →
      s.panel.gating.get 0 n = 0 → s.resumeSeats g n [(tk, tm)] s.arg.m = some u → u.team? tk = some tm' → (s.warps.map (·.1)).Nodup →
      Goes .teamResume s fun t => SameMemory s t ∧ (∃ tm'', t.team? tk = some tm'' ∧ tm''.die = tm'.die ∧ tm''.core = tm'.core ∧ tm''.resident = tm'.resident) ∧
        ∀ k w, s.warp? k = some w → k.teamKey = tk → k.ctx = 0 → ∃ w', t.warp? k = some w' ∧ w'.parked = false ∧ w'.die = tm'.die ∧ w'.core = tm'.core ∧
          (w.r.live ≠ 0 → ∃ tr, w'.trapping = some tr ∧ tr.cause = cResume ∧ tr.resume = true)) ∧
    (∀ v, s.coreIdle n s.arg.m = true → s.coreLeaving n s.arg.m = false → s.longestSilent n s.arg.m = some tk → s.firstWaiting (s.takers n s.arg.m ((s.company tk).map (·.1))) = some v →
      Goes .progressSwap s fun t => t = s.requestPreempt tk [v.t]) ∧
    (s.longestHere n s.arg.m = some tk → s.coreLeaving n s.arg.m = false →
      ((s.takers n s.arg.m ((s.company tk).map (·.1))).any fun v => v.since + s.cyclesNs n (16 * s.swapCycles n) ≤ s.now) = true →
      Goes .timeSliceSwap s fun t => t = s.requestPreempt tk (((s.waitingOn n).map (·.t)).filter fun v => !((s.company tk).map (·.1)).contains v)) ∧
    (∀ g p rest, s.grid? n = some g → s.groupTeams n s.arg.m = p :: rest → g.coop = true → g.ending = none →
      ((p :: rest).any fun p => s.teamHalted p.1 || s.leaving p.1) = false → ((p :: rest).all fun q => s.coreIdle p.2.die q.2.core) = true →
      let want := ((p :: rest).flatMap fun q => s.takers p.2.die q.2.core ((p :: rest).map (·.1))).filter fun v => v.t.grid ≠ n
      want ≠ [] → Goes .dieGroupSwap s fun t => t = s.requestPreempt p.1 ((s.firstWaiting want).toList.map (·.t))) ∧
    (∀ g, s.grid? n = some g → g.l.watchdog ≠ 0 → g.ending = none →
      (g.l.second = false → g.l.watchdog * 1000 ≤ g.l.counted → Goes .watchdogFirstLimit s fun t => SameMemory s t ∧
        t.grid? n = some { g with l := { g.l with second := true, counted := 0 } } ∧
        ∀ k w, k.grid = n → k.ctx = 0 → s.warp? k = some w → w.r.live ≠ 0 → t.warp? k = some { w with pending := { w.pending with watchdog := true } }) ∧
      (g.l.second = true → max (g.l.watchdog * 1000 / 16) 100000 ≤ g.l.counted → Goes .watchdogSecondLimit s fun t => t = (s.endGrid n 16).leaveAll))

/-- R430 to R432: the Sheller starts a warp on the items of one start that have come first, whole or once they have
waited; an idle core takes half of a cluster partner's items. -/
def Obligations.ShellerSteps : Prop :=
  ∀ (s : State) (g : Grid) (p : Pod) (k : WarpKey) (o : Warp), s.dieDown s.arg.n = false → s.grid? s.arg.k = some g → g.pool = true → g.ending = none →
    s.podOf s.arg.n s.arg.m s.arg.k = some p → s.freeWarp s.arg.n s.arg.m s.arg.k = some (k, o) →
    (∀ (full : Bool) pc, 0 < g.header.width → s.ripe p g.header.width full = some pc → s.podPoisoned p = false →
      let took := (sameStart p.items pc).take g.header.width
      took.all PodItem.counted = true → Goes (if full then .shellerFullWarp else .shellerPartialWarp) s fun t => SameMemory s t ∧
        t.podOf s.arg.n s.arg.m s.arg.k = some { p with items := p.items.filter fun it => !took.contains it } ∧
        ∃ w, t.warp? k = some w ∧ w.sheller = true ∧ w.r.live = maskOf (List.range took.length) ∧ w.r.mask = w.r.live ∧
          w.r.pc = g.entry + (BitVec.ofNat 32 pc).signExtend 64 ∧ w.outs = [] ∧
          ∀ l it, took[l]? = some it → w.r.item.get 0 l = BitVec.ofNat 32 (2 ^ 31 + itemField it.item 0xa 2) ∧ w.r.floorOf l = itemField it.item 0x78 8) ∧
    (∀ q, p.items = [] → s.opSlots p = 0 → (s.steals.any fun t => t.die = s.arg.n && t.core = s.arg.m && t.grid = s.arg.k) = false →
      ((List.range 4).map (s.arg.m / 4 * 4 + ·)).findSome? (fun c => if c = s.arg.m then none else (s.podOf s.arg.n c s.arg.k).filter fun q => q.items ≠ []) = some q →
      s.podPoisoned q = false →
      let took := q.free.take (min ((q.items.length + 1) / 2) (s.podRoom p))
      took ≠ [] → Goes .stealSearch s fun t => SameMemory s t ∧ t.podOf s.arg.n q.core s.arg.k = some { q with items := q.items.drop took.length } ∧
        t.podOf s.arg.n s.arg.m s.arg.k = some { p with items := took.map fun it => ⟨it.item, s.now, some 0⟩ })

/-! ### The panel and service space -/

/-- R18, R19, R21, R24 to R32, R39, R79, R88, R422, R482, R488, R489, R491: calibration moves a replica by one step that
keeps it near the others; E is 16, or 4 once every replica in service is within 4 ns; a replica, a die, a site, a half of
the Kelvia Link or a link leaves service; clocks and widths change; a die is gated when idle and woken; HBM and power
steps. None changes a byte; a notice goes to its ring as a store of BN1, the next one once it has performed. That a raise
of E makes the service reduced again is the model's reading (log 82), as is an error estimated by the exact offset (log 84). -/
def Obligations.PanelSteps : Prop :=
  ∀ (s : State),
    let n := s.arg.n
    let p := s.panel
    let goes (e : Instr) (q : State → Prop) : Prop := Goes e s fun t => SameMemory s t ∧ q t
    (n ≠ 257 → n < 264 → s.dieDown n = false → p.replicaIn n = false → goes .tcCalibration fun t => t.replica.get 0 n = s.arg.z ∧ t.panel.calibrated.get 0 n = s.now) ∧
    (n ≠ 257 → n < 264 → s.dieDown n = false → p.replicaIn n = true → (s.arg.z - s.replica.get 0 n).natAbs = 1 → p.calibrated.get 0 n + 64 ≤ s.now →
      s.replica.get 0 n - s.arg.z ≤ (Config.elapsed (s.steps - 1) : Int) → s.nearAll n s.arg.z s.skewBound = true →
      goes .tcCalibration fun t => t.replica.get 0 n = s.arg.z ∧ t.panel.calibrated.get 0 n = s.now) ∧
    (n < 264 → goes .eRaise fun t => t.eAt n = 16 ∧ t.panel.reduced = true ∧ t.panel.stage = (if p.stage = 5 then 4 else p.stage)) ∧
    (n < 264 → (s.within 4 = true → goes .eLower fun t => t.eAt n = 4) ∧ (s.within 4 = false → goes .eLower fun t => t = s)) ∧
    (∀ die, n = die → die < 128 → 3 ≤ p.stage → p.replicaIn die = true → p.calibrated.get 0 die + 100000 ≤ s.now ∨ s.eAt die ≤ (s.replica.get 0 die).natAbs →
      goes .replicaOutOfService fun t => t.dieDown die = true ∧ t.panel.inService die = false ∧ ∀ a ∈ s.dieAgents die, ∀ home, t.isDead home a (s.incOf a) = true) ∧
    (linkOk n = true → goes .linkLaneFail fun t => t.panel.lanes.get 0 n = p.lanes.get 0 n + 1 ∧
      (4 < p.lanes.get 0 n + 1 → p.half.contains n = false → p.widthAt.get 0 n = 0 → t.panel.widthAt.get 0 n = s.now + 1)) ∧
    (p.widthAt.get 0 n ≠ 0 → s.widthWaits n = false → goes .linkWidthChangeDone fun t => n ∈ t.panel.half ∧ t.panel.widthAt.get 0 n = 0) ∧
    (linkOk n = true → n ∉ p.linksOut → goes .linkDisableReroute fun t => t.panel.linksOut = p.linksOut ++ [n] ∧ t.panel.linkCut.get 0 n = s.nextId + 1 ∧ t.net = s.net) ∧
    (s.halfOut = [] → n = 257 ∨ n = 261 → goes .kelviaHalfFail fun t => t.halfOut = [n] ∧ (∀ r ∈ t.regions, r.home ≠ n) ∧ t.panel.tookOver = s.tcAt (518 - n) + 16384 ∧
      t.net = s.net.map (·.reroute n) ∧ t.kelvia = s.kelvia.map (·.reroute n) ∧ ∀ m ∈ t.net, m.src ≠ n ∧ m.dst ≠ n) ∧
    (s.clockMoves n = true → goes .dieClockChangeDone fun t => t.panel.clock.get 1700 n = p.clockTo.get 0 n ∧ t.panel.clockTo.get 0 n = 0) ∧
    (p.powerAt + 10000 ≤ s.now → goes .powerSample fun t => t.panel.powerAt = s.now ∧ t.warps = s.warps ∧ t.regions = s.regions) ∧
    (p.windowAt + 1000 ≤ s.now → (∀ q ∈ s.lineq, q.q = []) → goes .hbmBwWindow fun t => t.panel.windowAt = s.now ∧ (∀ u, t.panel.hbmBytes.get 0 u = 0) ∧
      (t.panel.siteBound = true ↔ ∃ d < 128, p.inService d = true ∧ p.power.get 0 d = 1)) ∧
    (n < 128 → n ∉ p.sitesOut → 128 + n ∉ p.selfRefresh → p.hbmAt.get 0 (128 + n) + 20000 ≤ s.now → goes .hbmSelfRefresh fun t => 128 + n ∈ t.panel.selfRefresh) ∧
    (n < 128 → n ∉ p.sitesOut → p.scrubAt.get 0 n + 86400000000000 ≤ s.now → s.arg.flag = true → s.homeOf (lineAddr s.arg.m) = 128 + n →
      goes .patrolScrub fun t => t.panel.scrubAt.get 0 n = s.now ∧ s.arg.m ∈ t.eccLines) ∧
    (n < 128 → n ∈ p.joined → s.dieDown n = false → p.gating.get 0 n = 0 →
      (s.dieIdle n = true → p.idleSince.get 0 n = 0 → goes .gatingDelayExpire fun t => t.panel.idleSince.get 0 n = s.now + 1 ∧ t.panel.gating.get 0 n = 0) ∧
      (∀ since, s.dieIdle n = true → p.idleSince.get 0 n = since + 1 → since + p.gatingDelay ≤ s.now → goes .gatingDelayExpire fun t => t.panel.gating.get 0 n = 1) ∧
      (s.dieIdle n = false → goes .gatingDelayExpire fun t => t.panel.gating.get 0 n = 0 ∧ t.panel.idleSince.get 0 n = 0)) ∧
    (p.gating.get 0 n = 1 → s.dieDown n = false →
      (s.dieIdle n = true → goes .gatingPowerSwitch fun t => t.panel.gating.get 0 n = 2 ∧ (∀ l ∈ t.l1, l.die ≠ n) ∧ (∀ x ∈ t.tlbs, x.die ≠ n) ∧
        ∀ a, n * (1280 * 2 ^ 19) ≤ a → a < (n + 1) * (1280 * 2 ^ 19) → t.vault.get 0 a = 0) ∧
      (s.dieIdle n = false → goes .gatingPowerSwitch fun t => t.panel.gating.get 0 n = 0 ∧ t.vault = s.vault)) ∧
    (p.gating.get 0 n = 2 → goes .dieWake fun t => t.panel.gating.get 0 n = 3) ∧
    (p.gating.get 0 n = 1 → goes .dieWake fun t => t.panel.gating.get 0 n = 0) ∧
    (p.gating.get 0 n = 3 → goes .dieWakeDone fun t => t.panel.gating.get 0 n = 0) ∧
    (p.inService n = true → goes .firmwareRetireDie fun t => t.panel.inService n = false ∧ n ∈ t.panel.retired ∧ ∀ a ∈ s.dieAgents n, ∀ home, t.isDead home a (s.incOf a) = true) ∧
    (n ∈ p.joined → s.dieDown n = false → goes .computeDieFailure fun t => t.dieDown n = true ∧ t.warps = s.warps) ∧
    (n < 128 → n ∉ p.sitesOut → goes .memorySiteFailure fun t => n ∈ t.panel.sitesOut ∧ t.homeUp (128 + n) = false ∧
      ∀ home, t.isDead home (homeAgent (128 + n)) (s.incOf (homeAgent (128 + n))) = true) ∧
    (∀ x, s.notices.find? (·.id = n) = some x → s.ringFree rNrTail rNrHead rNrLog = true → (∀ y ∈ s.notices, y.tag = 0) →
      let a := s.reg rNrBase + 32 * (s.reg rNrTail % 2 ^ s.reg rNrLog)
      a % 32 = 0 → goes .noticeRetry fun t => t.reg rNrTail = s.reg rNrTail ∧ ∃ m, t.net = s.net ++ [m] ∧ m.ty = .storeReq ∧ m.src = 257 ∧ m.dst = s.homeOf m.addr ∧
        m.addr = lineAddr (lineOf a) ∧ m.mask = byteMask (a % 128) 32 ∧ (∀ b < 32, Line.byte m.data (a % 128 + b) = BitVec.ofNat 8 (x.bytes / 256 ^ b)) ∧
        ∃ y ∈ t.notices, y.id = n ∧ y.tag = m.tag)

/-- R478 to R487, R493 to R495: what writes of service space do, and the debugger: a team that is halted has a halt pending in
its live warps, and goes on when it is resumed.
R25, R490, R494: bring-up stage by stage, attestation, and the reset of the module. -/
def Obligations.ServiceSpace : Prop :=
  (∀ (s : State),
     let n := s.arg.n
     let v := s.arg.v.toNat
     let goes (e : Instr) (q : State → Prop) : Prop := Goes e s fun t => SameMemory s t ∧ q t
     (s.panel.modLocked = false → goes .moduleIdWrite fun t => t.reg rModuleId = v % 64) ∧
     (s.panel.modLocked = true → goes .moduleIdWrite fun t => t = s) ∧
     (goes .svcErrClear fun t => t.reg rSvcErr = s.reg rSvcErr - (s.reg rSvcErr &&& v % 2 ^ 32)) ∧
     (goes .deadWrite fun t => ∀ home, t.isDead home (v % 2 ^ 32) (v / 2 ^ 32 % 2 ^ 16) = true) ∧
     (6 ≤ v % 256 → v % 256 ≤ 16 → goes .fqLogWrite fun t => t.reg rFqLog = v % 256) ∧
     (v % 256 < 6 ∨ 16 < v % 256 → goes .fqLogWrite fun t => t = s) ∧
     (goes .nrDroppedClear fun t => t.reg rNrDropped = if v = 0 then 0 else s.reg rNrDropped) ∧
     (v % 2 = 1 → goes .attGoStart fun t => t.reg rAttGo = 1) ∧
     (∀ tk, s.dbgTeam n v = some tk →
       (goes .dbgHalt fun t => t.reg (dieBlock n + 0x200) = v ∧ ∀ k w, s.warp? k = some w → k.teamKey = tk → k.ctx = 0 → w.r.live ≠ 0 →
         t.warp? k = some { w with pending := { w.pending with halt := true } }) ∧
       (goes .dbgResume fun t => ∀ k w, s.warp? k = some w → k.teamKey = tk → k.ctx = 0 →
         t.warp? k = some { w with halted := false, pending := { w.pending with halt := false } })) ∧
     (∀ die d, s.svcReg s.arg.a.toNat = some (.dbgData die) → s.dbgSelected die = some d → d.kind = 0 →
       let h := s.header d.k
       let img := d.w.image h d.team 0 0 d.count
       goes .dbgDataWrite fun t => t.warp? d.k = some { d.w with r := d.w.r.loadImage h 0 0 d.count (img - imageField img d.off 8 * 256 ^ d.off + v % 2 ^ 64 * 256 ^ d.off) }) ∧
     (∀ die kind first, s.arg.a.toNat = 0x10000000 + die * 0x100000 + 0x10000 + kind * 0x2000 + 2 * first → die < 128 → kind < 6 → first < s.incUnits kind →
       s.arg.k = 0 → (s.arg.flag = true → goes .incWrite fun t => t.incOf (agentId kind die first) = v % 2 ^ 16) ∧
         (s.arg.flag = false → goes .incWrite fun t => t.incs = s.incs ∧ t.reg rSvcErr = (s.reg rSvcErr + 1) % 2 ^ 32)) ∧
     (n < 128 → 0 < v → v ≤ 2 ^ 20 → (s.clears.any (·.site = n)) = false → goes .lclrStart fun t =>
       (⟨n, lineOf (s.reg (siteBlock n + 0x200)), v⟩ : Clear) ∈ t.clears ∧ t.reg (siteBlock n + 0x210) = 2 ^ 63) ∧
     (∀ c, n ∉ s.panel.sitesOut → s.clears.find? (·.site = n) = some c → (∀ q ∈ s.lineq, q.q = []) → goes .lclrDone fun t => (∀ x ∈ t.clears, x.site ≠ n) ∧
       t.reg (siteBlock n + 0x210) = (s.regions.filter fun r => r.home = 128 + n && r.lost && r.size = 0 && c.line ≤ r.base && r.base < c.line + c.count).length ∧
       ∀ r ∈ t.regions, r.home = 128 + n → r.size = 0 → c.line ≤ r.base → r.base < c.line + c.count → r.lost = false) ∧
     (∀ o r, s.arg.a.toNat = o → s.arg.k ≠ 4 → o % 8 = 0 → s.svcReg o = some r → s.panel.stage ≠ 15 →
       (∀ asid, r = .root asid → goes .serviceRegisterWrite fun t => t.roots.get 0 asid = v % 2 ^ 48) ∧
       (∀ k, r = .spanRoute k → goes .serviceRegisterWrite fun t => t.reg o = v % 2 ^ 48) ∧
       (r = .fqBase ∨ r = .nrBase ∨ (∃ k, r = .cmBase k ∨ r = .cmLimit k) → goes .serviceRegisterWrite fun t => t.reg o = v % 2 ^ 48 / 4096 * 4096) ∧
       (r = .fqHead ∨ r = .nrHead ∨ r = .count → goes .serviceRegisterWrite fun t => t.reg o = v) ∧
       (r = .control → goes .serviceRegisterWrite fun t => t.reg o = v % 2 ^ 32 &&& 0xc00000ff) ∧
       (r = .status ∨ r = .fqTail ∨ r = .nrTail → goes .serviceRegisterWrite fun t => t = s)) ∧
     (s.svcAt s.arg.a.toNat = none → goes .serviceUndefinedAccess fun t => t.reg rSvcErr = (s.reg rSvcErr + 1) % 2 ^ 32 ∧ t.warps = s.warps)) ∧
  (∀ (s : State),
     let n := s.arg.n
     let p := s.panel
     let goes (e : Instr) (q : State → Prop) : Prop := Goes e s fun t => SameMemory s t ∧ q t
     let meas (t : State) (j : Nat) : Nat := t.reg (0x40000 + 32 * (n % 8) + 8 * j)
     (p.stage = 0 → s.arg.flag = true → goes .bootFirmwareVerify fun t => t.panel.stage = 1 ∧
       (List.range 4).foldr (fun j x => meas t j + x * 2 ^ 64) 0 =
         (sha3 (BitVec.ofNat 256 ((List.range 4).foldr (fun j x => meas s j % 2 ^ 64 + x * 2 ^ 64) 0)) s.arg.img).toNat) ∧
     (p.stage = 0 → s.arg.flag = false → goes .bootFirmwareVerify fun t => t.panel.stage = 15) ∧
     (p.stage = 1 → p.sitesOut = [] → n ≤ 44 → goes .memorySitesTrained fun t => t.panel.stage = 2 ∧ t.boundary = n * 2 ^ 30) ∧
     (p.stage = 2 → goes .kelviaLinkUp fun t => t.panel.stage = 3 ∧ ∀ u, 128 ≤ u → u < 264 → t.panel.calibrated.get 0 u = s.now) ∧
     (3 ≤ p.stage → p.stage ≠ 15 → n < 128 → n ∉ p.joined → n ∉ p.retired → n ∉ p.outUnits → s.dieDown n = false → s.nearAll n (s.replica.get 0 n) s.skewBound = true →
       goes .dieJoin fun t => t.panel.stage = max p.stage 4 ∧ t.panel.inService n = true ∧ (p.reduced = true → t.panel.clock.get 1700 n = 1000)) ∧
     (p.stage = 4 → s.within 4 = true → goes .fullServiceReached fun t => t.panel.stage = 5 ∧ t.panel.reduced = false ∧ (∀ u < 264, t.eAt u = 4) ∧
       ∀ d ∈ p.joined, t.panel.clockTo.get 0 d = classClock (p.power.get 0 d)) ∧
     (s.reg rAttGo ≠ 0 → goes .attestationDone fun t => t.reg rAttGo = 0 ∧ ∀ i < 340, t.reg (0x42000 + 8 * i) = imageField s.report (8 * i) 8) ∧
     (Goes .moduleReset s fun t => t = { State.reset with steps := s.steps, gradeB := s.gradeB, agenda := s.agenda, mem := t.mem } ∧
       ∀ a, t.byteAt a = if 2 ^ 47 ≤ a then s.byteAt a else 0))

/-- R89, R150, R356, R486, R487: operations of other modules are carried out by requests of the port's agent once their pages are at hand, or refused;
an answer to a span operation of this module ends it, as does the lack of one for 1 ms; a port that fails leaves its
operations to others. -/
def Obligations.SpanSteps : Prop :=
  ∀ (s : State),
    let n := s.arg.n
    (∀ o, s.incoming.find? (·.id = n) = some o → o.st = 0 →
      let e : Instr := if o.kind = 0 then .spanIncomingPut else if o.kind = 1 then .spanIncomingGet else .spanIncomingAtomic
      o.kind < 4 →
      (∀ s', s.spanReach o = .dead s' → Goes e s fun t => SameMemory s t ∧ { o with refused := true, st := 2 } ∈ t.incoming) ∧
      (∀ s', s.spanReach o = .wait s' → Goes e s fun t => SameMemory s t ∧ o ∈ t.incoming) ∧
      (∀ s' pas, s.spanReach o = .ok s' pas → Goes e s fun t => SameMemory s t ∧
        (∃ x ∈ t.incoming, x.id = o.id ∧ x.st = 1 ∧ x.pages = pas ∧ x.left.length = (vlines o.addr o.len).length) ∧
        ∀ l ∈ vlines o.addr o.len, ∃ m ∈ t.net, m.agent = spanAgent o.port ∧ lineOf m.addr = lineOf (if o.kind < 2 then pagePa pas (l * 128) else pagePa pas o.addr) ∧
          m.ty = (if o.kind = 0 then .exclReq else if o.kind = 1 then .readReq else .atomReq) ∧ (o.kind = 1 → m.once = true) ∧ (2 ≤ o.kind → m.op = o.op))) ∧
    (∀ o k id w x l, s.spans.find? (·.id = n) = some o → o.user = some (k, id) → s.warp? k = some w → w.outs = [x] → x.id = id → x.finished = false → x.lanes = [l] → l.lane = o.lane →
      let ends (t : State) (p : Regs → Prop) : Prop := (∀ q ∈ t.spans, q.id ≠ n) ∧ ∃ w', t.warp? k = some w' ∧ w'.outs = [] ∧ w'.r.pc = w.r.pc ∧ p w'.r
      (s.arg.flag = false → Goes .spanAck s fun t => SameMemory s t ∧ ends t fun r => (o.kind ≠ 2 → r = w.r.written x.mask x.op x.x) ∧
        (o.kind = 2 → ∃ v < 256 ^ l.size, r = (loadInto (s.header k).nS x.op x.x l v w.r).written x.mask x.op x.x)) ∧
      (s.arg.flag = true → o.kind ≠ 2 → Goes .spanAck s fun t => SameMemory s t ∧ ends t fun r => r.spanRef = (if w.r.spanRef = 0 then o.addr else w.r.spanRef)) ∧
      (48 ≤ o.port ∨ o.sentAt + 1000000 ≤ s.now → o.kind ≠ 2 → Goes .spanTimeout s fun t => SameMemory s t ∧
        ends t fun r => r.spanRef = (if w.r.spanRef = 0 then o.addr else w.r.spanRef))) ∧
    (n < 48 → n ∉ s.portsOut → Goes .spanPortFail s fun t => n ∈ t.portsOut ∧ ∀ o ∈ t.spans, o.port ≠ n) ∧
    (n ∈ s.portsOut → Goes .spanPortRestore s fun t => n ∉ t.portsOut)

/-! ### Pods and sprouts -/

/-- R424, R425, R434, R436 to R440: SPAWN and SPLIT complete: with no thread taking part each does nothing; with room in the Pod
each thread's item is appended, ascending, with its start, its kind, its interval and its floor, one
atomic add to OUTSTANDING counts them, and E is TRUE; with no Pod on the core, or with the Pod and its die group's queue full, every
thread is refused and E is FALSE; and a thread whose interval cannot be cut pushes nothing. Outside a pool grid or in a sprout they
trap ILLEGAL, poison in a carried register traps ECC, and during a spill the warp waits. POOLQ (poolq) and its extended form (poolqX) complete with the values of their
codes. -/
def Obligations.PodInstructions : Prop :=
  ∀ (i : Instr) (c : Cx) (len : Nat) (g : Grid), Executes i c len → c.s.grid? c.k.grid = some g →
    let lanes := lanesOf c.m
    let free : Prop := c.w.settled = true ∧ c.w.acquiring = false
    let pod := c.s.podOf c.w.die c.w.core c.k.grid
    let queue := c.s.overOf c.k.grid (g.groupOn c.w.die)
    let sent : Prop := ∀ p, pod = some p → ∀ it ∈ p.items, it.tag.isSome = true
    let flagged (r : Regs) (p : Nat → Tri) : Prop := ∀ l ∈ lanes, ∀ n, c.x.e = .p n → n ≠ 15 → r.getP n.toNat l = p l
    let out (v : Iv) : Raw := (v.flush .fp32 c.x.fzo).write .fp32
    let cut (hi : Bool) (l : Nat) : Iv × Bool := Iv.bisect .fp32 hi (c.iv l c.x.a)
    let start := loWord (c.label - g.entry)
    let hi : Bool := c.x.m 0 1 = 1
    let whole : Prop := ∀ l ∈ lanes, carryBad g.header c.w.r l = false
    let cuts : Prop := c.op = .split → ∀ l ∈ lanes, (cut (!hi) l).2 = true
    (c.op = .split ∨ c.op = .spawn →
      (c.m ≠ 0 → g.pool = false ∨ c.w.sprout.isSome = true → Traps i c cIllegal 0 0 wholeWarp 0) ∧
      (c.m = 0 → Becomes i c (c.with (c.past len))) ∧
      (g.pool = true → c.w.sprout = Option.none → c.m ≠ 0 → ¬ free → Waits i c) ∧
      (g.pool = true → c.w.sprout = Option.none → c.m ≠ 0 → free → c.w.wait = .none →
        (pod = Option.none ∨ ∃ p, pod = some p ∧ c.s.podRoom p = 0 ∧ g.l.nbatch ≤ queue.queued ∧ queue.op = Option.none) → sent → whole →
        ∃ r, Runs i c len r ∧ flagged r (fun _ => Tri.ff) ∧ r.v = c.w.r.v ∧ (c.op = .spawn → r.f = c.w.r.f) ∧
          (c.op = .split → ∀ l ∈ lanes, (c.after r).flt l c.x.d = (c.iv l c.x.a).write .fp32)) ∧
      (∀ p, g.pool = true → c.w.sprout = Option.none → c.m ≠ 0 → free → c.w.wait = .none → sent → whole → cuts → pod = some p → c.s.podRoom p = 0 →
        queue.queued < g.l.nbatch → queue.op.isSome = true → exec i c.s = .next (c.s.stall c.k (.push []))) ∧
      (∀ p page, g.pool = true → c.w.sprout = Option.none → c.m ≠ 0 → free → c.w.wait = .none → sent → whole → cuts → pod = some p → lanes.length ≤ c.s.podRoom p →
        g.ending = Option.none → c.s.overflowPage c.w.die c.k.grid g kAtomic = (c.s, .at page) → page % 128 = 0 →
        c.k.grid < 2 ^ 32 → g.header.carryF.length ≤ 6 → 4 * g.header.carryV.length + 8 * g.header.carryF.length ≤ 96 →
        ∃ t r p' a, ∃ items : List PodItem, exec i c.s = .next t ∧ SameMemory c.s t ∧ t.warp? c.k = some (c.with r) ∧ r.pc = (c.past len).pc ∧ flagged r (fun _ => Tri.tt) ∧
          r.v = c.w.r.v ∧ t.podOf c.w.die c.w.core c.k.grid = some p' ∧ p'.items = p.items ++ items ∧ items.length = lanes.length ∧
          t.net = c.s.net ++ [a] ∧ a.ty = .atomReq ∧ a.noret = true ∧ a.op = 0x300 ∧ a.addr = lineAddr (lineOf page) ∧ a.mask = byteMask 0 8 ∧ a.data.toNat = lanes.length ∧
          (∀ (n l : Nat) (it : PodItem), lanes[n]? = some l → items[n]? = some it → it.at' = c.s.now ∧ it.tag = some a.tag ∧ itemField it.item 0 4 = start.toNat ∧
            itemField it.item 0xa 2 = min 65535 ((c.w.r.item.get 0 l).toNat % 65536 + 1) ∧ itemField it.item 0x78 8 = c.w.r.floorOf l % 2 ^ 64 ∧
            (∀ m k, g.header.carryV[m]? = some k → itemField it.item (0x10 + 4 * m) 4 = (c.w.r.getV k l).toNat) ∧
            (c.op = .split → itemField it.item 0x70 4 = (out (cut (!hi) l).1).lo ∧ itemField it.item 0x74 4 = (out (cut (!hi) l).1).hi)) ∧
          (c.op = .spawn → r.f = c.w.r.f) ∧ (c.op = .split → ∀ l ∈ lanes, (c.after r).flt l c.x.d = out (cut hi l).1)) ∧
      (c.op = .split → g.pool = true → c.w.sprout = Option.none → c.m ≠ 0 → free → c.w.wait = .none → sent → (∀ l ∈ lanes, (cut (!hi) l).2 = false) →
        ∃ r, Runs i c len r ∧ flagged r (fun _ => Tri.ff) ∧ r.v = c.w.r.v ∧ ∀ l ∈ lanes, (c.after r).flt l c.x.d = (c.iv l c.x.a).write .fp32)) ∧
    (∀ l, c.op = .spawn → g.pool = true → c.w.sprout = Option.none → free → c.w.wait = .none → l ∈ lanes → carryBad g.header c.w.r l = true →
      (∀ j ∈ lanes, j < l → carryBad g.header c.w.r j = false) → Traps i c cEcc 0 0 l 0) ∧
    (c.op = .poolq →
      (c.w.sprout.isSome = true → c.m ≠ 0 → Traps i c cIllegal 0 0 wholeWarp 0) ∧
      (c.w.sprout = Option.none ∨ c.m = 0 → ∃ f, WordTo i c len 1 f ∧ ∀ l,
        let code := c.i32 l c.x.a
        (3 < code → f l = BitVec.allOnes 32) ∧
        (code ≤ 3 → g.pool = false → f l = 0) ∧
        (g.pool = true → code = 0 → f l = BitVec.ofNat 32 ((pod.map (·.items.length)).getD 0)) ∧
        (g.pool = true → code = 1 → f l = BitVec.ofNat 32 ((pod.map (·.slots)).getD 0)) ∧
        (g.pool = true → code = 2 → f l = BitVec.ofNat 32 (c.s.overOf c.k.grid (((c.s.team? c.k.teamKey).map (·.group)).getD 0)).queued) ∧
        (g.pool = true → code = 3 → f l = BitVec.ofNat 32 g.l.nbatch)))

/-- R442 to R446: RECRUIT, HEND and HJOIN complete with no thread taking part. RECRUIT completes with a thread: for each of the
refusals, in their order, with FALSE in E, and for a recruitment, where sprouts 0 to G − 1 start at the label, each with
its number, the count and the lent registers, and the recruiter goes on with TRUE in E. D is empty, and filled with the code or
with G within 40 cycles (R176).
R448 to R450: HEND completes in a sprout: the threads that take part leave the warp and set their bits in DONE, and the last one
finishes the recruitment. Outside a sprout it traps ILLEGAL.
R453: HJOIN completes once the recruitment is not running: D, E and the bits take its result, and the recruitment is idle; while
it runs, the warp waits. -/
def Obligations.SproutInstructions : Prop :=
  ∀ (i : Instr) (c : Cx) (len : Nat) (g : Grid), Executes i c len → c.s.grid? c.k.grid = some g →
    let h := c.s.header c.k
    let l := lowest c.m
    let r := c.w.r
    let e (r' : Regs) (v : Tri) : Prop := ∀ j ∈ lanesOf c.m, ∀ n, c.x.e = .p n → n ≠ 15 → r'.getP n.toNat j = v
    let ds := c.s.donors c.k c.w
    let n := min (c.i32 l c.x.a).toNat h.hlimit
    let code : Nat :=
      if c.w.sprout.isSome then 3 else if h.hlimit = 0 ∨ g.helpers = false then 6 else if c.m ≠ bitMask l then 2 else if r.recr.state ≠ 0 then 4
      else if c.s.boundaryPending c.k.teamKey then 5 else if n = 0 ∨ donorCount ds < max 1 (min (c.i32 l c.x.b).toNat n) then 1 else 0
    let due (w' : Warp) (r' : Regs) (v : Nat) : Prop := ∃ o, w' = { c.w with r := r', outs := c.w.outs ++ [o] } ∧ r'.pc = (c.past len).pc ∧ r'.v = r.v ∧ r'.f = r.f ∧ r'.s = r.s ∧
      o.kind = .sprouts ∧ o.finished = false ∧ o.slot = c.s.now + c.s.cyclesNs c.w.die 40 + 1 ∧ ∀ k, c.x.d = .s k → (⟨.s, k.val, 0⟩ : Dest) ∈ o.dests ∧ (w'.fillStatus c.nS Option.none).r.getS c.nS k.val = BitVec.ofNat 32 v
    (c.op ∈ [Op.recruit, .hend, .hjoin] → c.m = 0 → Becomes i c (c.with (c.past len))) ∧
    (c.op = .recruit → c.m ≠ 0 → lendEmpty h c.w l = true → Waits i c) ∧
    (c.op = .recruit → c.m ≠ 0 → lendEmpty h c.w l = false → lendBad h c.w l = true → Traps i c cEcc 0 0 l 0) ∧
    (c.op = .recruit → c.m ≠ 0 → lendEmpty h c.w l = false → lendBad h c.w l = false →
      (code ≠ 0 → ∃ t w' r', exec i c.s = .next t ∧ SameMemory c.s t ∧ t.warp? c.k = some w' ∧ due w' r' (2 ^ 31 + code) ∧ e r' Tri.ff ∧ r'.recr = r.recr ∧
        (∀ q, q ≠ c.k → t.warp? q = c.s.warp? q)) ∧
      (code = 0 → c.k.ctx = 0 → c.w.settled = true → c.w.acquiring = false → c.s.fenceHolds c.w 0 = true → (∀ d ∈ ds, ∀ j ∈ d.2, j < 128) →
        let got := min n (donorCount ds)
        ∃ t w' r', exec i c.s = .next t ∧ SameMemory c.s t ∧ t.warp? c.k = some w' ∧ due w' r' got ∧ e r' Tri.tt ∧ r'.recr.state = 1 ∧ r'.recr.g = got ∧ r'.recr.lane = l ∧ r'.recr.done = 0 ∧
          ∀ m < got, ∃ q ∈ t.warps, ∃ p j, q.2.sprout = some p ∧ p.owner = c.k ∧ p.donors.getLsbD j = true ∧ q.2.r.live = p.donors ∧ q.2.r.pc = c.label ∧
            q.2.r.hidx.get 0 j = BitVec.ofNat 32 m ∧ q.2.r.hcount.get 0 j = BitVec.ofNat 32 got ∧ q.2.r.floorOf j = r.floorOf l ∧
            (∀ k ∈ lendRegs h.lendV, q.2.r.getV k j = r.getV k l) ∧ ∀ k ∈ lendRegs h.lendF, q.2.r.getF k j = r.getF k l)) ∧
    (c.op = .hend → c.w.sprout = Option.none → c.m ≠ 0 → Traps i c cIllegal 0 0 wholeWarp 0) ∧
    (∀ p o, c.op = .hend → c.w.sprout = some p → c.m ≠ 0 → c.s.warp? p.owner = some o → c.x.m 0 3 ≠ 0 →
      (c.x.m 0 3 ≠ o.r.recr.rop ∨ (c.x.m 3 1 = 1) ≠ (o.r.recr.fl = true) ∨ (c.x.m 4 1 = 1) ≠ (o.r.recr.sgn = true)) → Traps i c cIllegal 0 0 (lowest r.mask) 0) ∧
    (∀ p o, c.op = .hend → c.w.sprout = some p → c.s.warp? p.owner = some o → p.owner ≠ c.k → c.k.ctx ≠ 0 → c.w.settled = true → c.m &&& r.live ≠ 0 →
      (c.x.m 0 3 = 0 ∨ (c.x.m 0 3 = o.r.recr.rop ∧ (c.x.m 3 1 = 1 ↔ o.r.recr.fl = true) ∧ (c.x.m 4 1 = 1 ↔ o.r.recr.sgn = true))) →
      (r.live &&& ~~~c.m = 0 ∨ r.mask &&& ~~~c.m ≠ 0) →
      ∃ t w' o', exec i c.s = .next t ∧ SameMemory c.s t ∧ t.warp? c.k = some w' ∧ w'.r.live = r.live &&& ~~~c.m ∧
        (r.live &&& ~~~c.m ≠ 0 → w'.r.pc = (c.past len).pc ∧ w'.r.mask = r.mask &&& ~~~c.m) ∧
        t.warp? p.owner = some o' ∧ o'.r.pc = o.r.pc ∧ o'.r.recr.g = o.r.recr.g ∧
        (∀ m < 512, o'.r.recr.done.getLsbD m = true ↔ o.r.recr.done.getLsbD m = true ∨ ∃ j ∈ lanesOf c.m, (r.hidx.get 0 j).toNat = m) ∧
        (o.r.recr.rop = 0 → o'.r.recr.acc = o.r.recr.acc ∧ o'.r.recr.accFlag = o.r.recr.accFlag) ∧
        o'.r.recr.state = (if ((List.range 512).filter fun m => o'.r.recr.done.getLsbD m).length = o.r.recr.g ∧ o.r.recr.state = 1 ∧ o.release = 0 then 2 else o.r.recr.state)) ∧
    (c.op = .hjoin → c.w.sprout.isSome = true → c.m ≠ 0 → Traps i c cIllegal 0 0 wholeWarp 0) ∧
    (c.op = .hjoin → c.w.sprout = Option.none → c.m ≠ 0 → (r.recr.state = 0 ∨ c.m.getLsbD r.recr.lane = false) → Traps i c cIllegal 0 0 wholeWarp 0) ∧
    (c.op = .hjoin → c.w.sprout = Option.none → c.m.getLsbD r.recr.lane = true → (c.x.m 3 1 = 1 ↔ r.recr.fl = true) → (r.recr.rop = 0 → c.x.d = .reg 0) →
      (r.recr.state = 1 → exec i c.s = .next (c.s.stall c.k (.hjoin c.joinMarks))) ∧
      (r.recr.state ≠ 0 → r.recr.state ≠ 1 → c.w.release = 0 → r.recr.fault = 0 → (∀ q ∈ c.s.sproutsOf c.k, c.s.fenceHolds q.2 0 = true) →
        ∃ t w', exec i c.s = .next t ∧ SameMemory c.s t ∧ t.warp? c.k = some w' ∧ w'.r.pc = (c.past len).pc ∧ w'.wait = .none ∧ w'.r.recr.state = 0 ∧ w'.r.live = r.live ∧
          (∀ q ∈ t.warps, ∀ p, q.2.sprout = some p → p.owner ≠ c.k) ∧
          (∀ b, c.x.a = .s b → b.val + 16 ≤ 376 → ∀ m < 16, w'.r.getS c.nS (b.val + m) = r.recr.done.extractLsb' (32 * m) 32) ∧
          (∀ k, c.x.e = .p k → k ≠ 15 → w'.r.getP k.toNat r.recr.lane = if r.recr.state = 2 then Tri.tt else Tri.ff) ∧
          (∀ k, c.x.d = .reg k → r.recr.rop ≠ 0 → r.recr.fl = false → r.recr.accFlag = true → w'.r.getV k.toNat r.recr.lane = loWord r.recr.acc) ∧
          (∀ k, c.x.d = .reg k → r.recr.rop = 1 → r.recr.fl = false → r.recr.accFlag = false → w'.r.getV k.toNat r.recr.lane = 0)))

/-! ### The matrix unit -/

/-- R302, R303, R310, R311, R176: MMA, MMAQ, MMAI, MTRN, MPERM and MRED complete: with no thread taking part each goes on; with a
thread, where its operands pass the checks of its issue and the table and the warp's share have room, each posts an entry with its
descriptors, mask and modifiers: its accumulators are empty in the threads that take part, KM rises, and the warp goes
on past it. With a table or a warp's share full it waits; where a check fails it traps as the check says, and in a sprout it traps
ILLEGAL. -/
def Obligations.MatrixInstructions : Prop :=
  ∀ (i : Instr) (c : Cx) (len : Nat), Executes i c len → c.op ∈ [Op.mma, .mmaq, .mmai, .mtrn, .mperm, .mred] →
    let code : Nat := match c.op with | .mma => 0xc0 | .mmaq => 0xc1 | .mmai => 0xc2 | .mtrn => 0xc3 | .mperm => 0xc4 | _ => 0xc5
    let j := c.job code
    let room : Prop := (c.s.mats.filter fun e => e.die = c.w.die && e.cluster = c.w.core / 4).length < 32 ∧
      (c.s.mats.filter fun e => e.warp = c.k).length + c.w.stopped.length + c.w.r.mrecs.length < 4
    (c.m ≠ 0 → c.w.sprout.isSome = true → Traps i c cIllegal 0 0 wholeWarp 0) ∧
    (c.m = 0 → Becomes i c (c.with (c.past len))) ∧
    (c.w.sprout = Option.none → c.m ≠ 0 → c.mayStart .km false = false → Waits i c) ∧
    (c.w.sprout = Option.none → c.m ≠ 0 → c.mayStart .km false = true →
      (∀ cause detail addr, c.s.matCheck c.k c.w j = some (cause, detail, addr) → Traps i c cause detail 0 wholeWarp addr) ∧
      (c.s.matCheck c.k c.w j = Option.none → ¬ room → Waits i c) ∧
      (c.s.matCheck c.k c.w j = Option.none → room →
        ∃ t o e, exec i c.s = .next t ∧ SameMemory c.s t ∧ t.warp? c.k = some { c.w with r := c.past len, outs := c.w.outs ++ [o] } ∧ o.ctr = some .km ∧ o.finished = false ∧
          (∀ n l, (⟨.f, n, l⟩ : Dest) ∈ o.dests ↔ l ∈ lanesOf c.m ∧ j.dreg ≤ n ∧ n < j.dreg + (if c.op = .mred then 1 else 16)) ∧
          t.mats = c.s.mats ++ [e] ∧ e.warp = c.k ∧ e.die = c.w.die ∧ e.cluster = c.w.core / 4 ∧ e.granted = false ∧ e.id = o.id ∧
          e.matJob.aq = c.quad c.x.a ∧ e.matJob.bq = c.quad c.x.b ∧ e.matJob.mask = c.m ∧ e.matJob.op = code ∧ e.matJob.mod = c.x.mod.toNat))

/-- R192, R305, R306, R308: an exact sum is the sum of the products of its elements' values, and NaI or the entire line
where one is a NaN or an infinity; MMAI's bounds enclose the sum of the products of any points of its elements' sets; and
an accumulator's new interval holds the sum of any point of the old one and any point of the exact sum's bounds, under
FZI and FZO too. -/
def Obligations.MatrixSumsEnclose : Prop :=
  (∀ terms : List (List MEl),
    ((∃ t ∈ terms, MEl.nan ∈ t) → exactSum terms = .nai) ∧
    ((∀ t ∈ terms, MEl.nan ∉ t) → (∃ t ∈ terms, MEl.inf ∈ t) → exactSum terms = .all) ∧
    ((∀ t ∈ terms, MEl.nan ∉ t ∧ MEl.inf ∉ t) → ∃ d nz, exactSum terms = .val d d nz ∧ d.real = (terms.map fun t => (t.map fun e => e.value.real).prod).sum)) ∧
  (∀ (j : MatJob) (d : MatData) (l n : Nat) (lo hi : Dy) (nz : Bool) (x y : Nat → ℝ), j.midSum d l n = .val lo hi nz →
    let w := if j.bit 0 then 64 else 32
    let within (v k : Nat) (u : ℝ) : Prop := ∀ m r, midElem (j.bit 0) (v / 2 ^ (w * k) % 2 ^ w) = .mid m r → |u - m.real| ≤ r.real
    (∀ k < j.k, within (d.a l).1 k (x k) ∧ within (d.b n).1 k (y k)) →
    lo.real ≤ ((List.range j.k).map fun k => x k * y k).sum ∧ ((List.range j.k).map fun k => x k * y k).sum ≤ hi.real) ∧
  (∀ (fzi fzo : Bool) (old : Raw) (lo hi : Dy) (nz : Bool) (u x : ℝ), lo.real ≤ x → x ≤ hi.real → (old.read .fp32).Holds .fp32 u →
    ((accumulate false false fzi fzo old (.val lo hi nz)).read .fp32).Holds .fp32 (u + x))

/-! ### Streams -/

/-- R323, R326, R327, R332: XOPEN, XISECT, XUNION, XCLOSE and XPOS complete: with no thread taking part each goes on; XOPEN opens the
fibre that a descriptor gives, by the level's kind; XISECT and XUNION take two open streams as members of a combination; XCLOSE
gives them back; XPOS reads a field. Only the X registers named change, and XPOS's destination. A register in the wrong state
traps ILLEGAL, a descriptor that is not aligned MISALIGN, and in a sprout each traps ILLEGAL. -/
def Obligations.StreamsOpenAndCombine : Prop :=
  ∀ (i : Instr) (c : Cx) (len : Nat), Executes i c len → c.op ∈ [Op.xopen, .xisect, .xunion, .xclose, .xpos] →
    let r := c.w.r
    let d := xNum c.x.d
    let a := xNum c.x.a
    let b := xNum c.x.b
    let changes (p : Regs → Prop) : Prop := ∃ t r', exec i c.s = .next t ∧ SameMemory c.s t ∧ t.warp? c.k = some (c.with r') ∧ r' = { c.past len with x := r'.x } ∧ p r'
    (c.m ≠ 0 → c.w.sprout.isSome = true → Traps i c cIllegal 0 0 wholeWarp 0) ∧
    (c.m = 0 → Becomes i c (c.with (c.past len))) ∧
    (c.w.sprout = Option.none → c.m ≠ 0 → c.w.streaming = true → Waits i c) ∧
    (c.w.sprout = Option.none → c.m ≠ 0 → c.w.streaming = false →
      (c.op = .xisect ∨ c.op = .xunion → ((r.getX d).st ≠ 0 ∨ (r.getX a).st ≠ 1 ∨ (r.getX b).st ≠ 1) → Traps i c cIllegal 0 0 wholeWarp 0) ∧
      (c.op = .xisect ∨ c.op = .xunion → (r.getX d).st = 0 → (r.getX a).st = 1 → (r.getX b).st = 1 → a < 8 → b < 8 →
        changes fun r' => (r'.getX d).st = (if c.op = .xisect then 2 else 3) ∧ (r'.getX d).opa = a ∧ (r'.getX d).opb = b ∧ (r'.getX d).done = 0 ∧ (r'.getX d).lastc = 0xffffffff ∧
          r'.getX a = { r.getX a with st := 4 } ∧ r'.getX b = { r.getX b with st := 4 } ∧ ∀ n, n ≠ d → n ≠ a → n ≠ b → r'.x.get 0 n = r.x.get 0 n) ∧
      (c.op = .xclose → (r.getX d).st = 4 → Traps i c cIllegal 0 0 wholeWarp 0) ∧
      (c.op = .xclose → (r.getX d).st ≠ 4 → changes fun r' => r'.x.get 0 d = 0 ∧ ∀ n, n ≠ d →
        r'.getX n = if (r.getX d).comb = true ∧ (n = (r.getX d).opa ∨ n = (r.getX d).opb) ∧ (r.getX n).st = 4 then { r.getX n with st := 1 } else r.getX n) ∧
      (c.op = .xpos → WordTo i c len 1 fun _ =>
        let v := r.getX a
        let f := c.x.m 0 4
        BitVec.ofNat 32 (if v.comb = true ∧ f ∈ [1, 2, 3, 4, 7, 8] then 0
          else [v.st, v.cur, v.beg, v.endx, v.endx - v.cur, v.lastc, v.done, v.parent, v.size].getD f (v.flags % 2))) ∧
      (c.op = .xopen → 2 ≤ (r.getX d).st → Traps i c cIllegal 0 0 wholeWarp 0) ∧
      (c.op = .xopen → (r.getX d).st < 2 →
        let sp := c.x.m 0 2
        let at' := c.spaceAddr sp
        let rd := c.s.streamRd c.k c.w
        let lvl := c.x.imm.toNat % 4
        let p := (c.i32 (lowest c.m) c.x.b).toNat
        (at' % 64 ≠ 0 → Traps i c cMisalign 0 0 (lowest c.m) (BitVec.ofNat 64 at')) ∧
        (∀ hd recs, at' % 64 = 0 → c.w.acquiring = false → rd 8 sp at' 64 = .ok hd → headerBad hd lvl = Option.none → rd 8 sp (at' + 0x40) (16 * field hd 0 1) = .ok recs →
          (∀ n < field hd 0 1, levelBad (field recs (16 * n) 16) = Option.none) → (lvl = 0 → p = 0) →
          let rec' := field recs (16 * lvl) 16
          let asp := field hd 2 1
          let kind := field rec' 0 1
          let size := field rec' 4 4
          let arr (off : Nat) : Nat := spAddr asp (field hd 8 8 + 16 * field rec' off 4)
          let words := (size + 63) / 64
          let opens (beg endx : Nat) : Prop := changes fun r' =>
            let v := r'.getX d
            v.st = 1 ∧ v.space = asp ∧ v.kind = kind ∧ v.vfmt = field hd 1 1 ∧ v.nnz = field hd 4 4 ∧ v.values = field hd 0x10 8 ∧ v.size = size ∧ v.parent = p ∧
              v.arr0 = arr 8 ∧ v.arr1 = arr 12 ∧ v.beg = beg ∧ v.endx = endx ∧ v.cur = beg ∧ v.lastc = 0xffffffff ∧ v.done = 0 ∧
              v.isEnd = false ∧ (v.last = true ↔ lvl + 1 = field hd 0 1) ∧ ∀ n, n ≠ d → r'.x.get 0 n = r.x.get 0 n
          (kind = 0 → p * size + size - 1 ≤ 2 ^ 32 - 2 → opens 0 size) ∧
          (∀ b' e', kind = 1 → rd 8 asp (spAddr asp (arr 8 + 4 * p)) 4 = .ok b' → rd 8 asp (spAddr asp (arr 8 + 4 * (p + 1))) 4 = .ok e' → b' ≤ e' → b' < 2 ^ 32 → e' < 2 ^ 32 →
            opens b' e') ∧
          (kind = 2 → 64 * p * words + size ≤ 2 ^ 32 - 1 → opens (64 * p * words) (64 * p * words + size)) ∧
          (kind = 3 → opens 0 1))))

/-- R328 to R331: XNEXT, XNEXT2, XSKIP, XSAVE and XLOAD complete: XNEXT of a dense level gives the lanes that take part the next
coordinates and positions, ascending, and TRUE, and past the end 0xffffffff and FALSE; XNEXT2 of the intersection of two dense
levels the coordinates that both have; XSKIP moves the cursor on to a coordinate; XSAVE stores the register's 64 bytes, and XLOAD
takes an image from a line that the L1 holds, or asks for the line. A register in the wrong state traps ILLEGAL. -/
def Obligations.StreamsDeliver : Prop :=
  ∀ (i : Instr) (c : Cx) (len : Nat), Executes i c len → c.w.sprout = Option.none → c.m ≠ 0 →
    let r := c.w.r
    let a := xNum c.x.a
    let v := r.getX a
    let lanes := lanesOf c.m
    let fresh (x : XReg) : Prop := x.kind = 0 ∧ x.endx ≤ x.size ∧ (x.lastc = 0xffffffff ∨ x.lastc < x.cur)
    let words (r' : Regs) (l n w : Nat) : Prop := ∀ k, c.x.d = .reg k → r'.getV (k.toNat + n) l = BitVec.ofNat 32 w
    let flag (r' : Regs) (l : Nat) (b : Bool) : Prop := ∀ n, c.x.e = .p n → n ≠ 15 → r'.getP n.toNat l = if b then Tri.tt else Tri.ff
    let ends (p : Regs → Prop) : Prop := ∃ t w', exec i c.s = .next t ∧ SameMemory c.s t ∧ t.warp? c.k = some w' ∧ w'.outs = [] ∧ w'.r.pc = (c.past len).pc ∧ w'.r.f = r.f ∧ p w'.r
    (c.op = .xnext → c.x.m 0 1 = 0 → (v.st ≠ 1 → Traps i c cIllegal 0 0 wholeWarp 0) ∧
      (v.st = 1 → fresh v → c.w.outs = [] → ends fun r' => (∀ n l : Nat, lanes[n]? = some l →
        (v.cur + n < v.endx → words r' l 0 (v.cur + n) ∧ words r' l 1 ((v.parent * v.size + v.cur + n) % 2 ^ 32) ∧ flag r' l true) ∧
        (v.endx ≤ v.cur + n → words r' l 0 0xffffffff ∧ words r' l 1 0xffffffff ∧ flag r' l false)) ∧
        (v.cur ≤ v.endx → (r'.getX a).cur = min v.endx (v.cur + lanes.length)) ∧ ∀ n, n ≠ a → r'.x.get 0 n = r.x.get 0 n)) ∧
    (c.op = .xnext2 → c.x.m 0 1 = 0 → (v.comb = false → Traps i c cIllegal 0 0 wholeWarp 0) ∧
      (let x := r.getX v.opa
       let y := r.getX v.opb
       let first := max x.cur y.cur
       v.st = 2 → x.st = 4 → y.st = 4 → v.opa ≠ v.opb → fresh x → fresh y → c.w.outs = [] → ends fun r' => ∀ n l : Nat, lanes[n]? = some l →
        (first + n < min x.endx y.endx → words r' l 0 (first + n) ∧ words r' l 1 ((x.parent * x.size + first + n) % 2 ^ 32) ∧
          words r' l 2 ((y.parent * y.size + first + n) % 2 ^ 32) ∧ flag r' l true) ∧
        (min x.endx y.endx ≤ first + n → words r' l 0 0xffffffff ∧ words r' l 1 0xffffffff ∧ words r' l 2 0xffffffff ∧ flag r' l false))) ∧
    (c.op = .xskip → c.w.streaming = false →
      (v.st ≠ 1 → v.comb = false → Traps i c cIllegal 0 0 wholeWarp 0) ∧
      (v.st = 1 ∨ (v.comb = true ∧ (r.getX v.opa).st = 4 ∧ (r.getX v.opb).st = 4) → c.w.acquiring = false →
        let to' := (c.i32 (lowest c.m) c.x.b).toNat
        (∀ f ok, skipAll (c.s.streamRd c.k c.w) a to' r = .ok (f, ok) → ∃ r', Runs i c len r' ∧ r'.x = (f r).x ∧ r'.v = r.v ∧ r'.f = r.f ∧ r'.s = r.s ∧ ∀ l ∈ lanes, flag r' l ok) ∧
        (v.st = 1 → v.kind = 0 → (v.cur < v.endx → v.lastc = 0xffffffff ∨ v.lastc < v.cur) → ∃ r', Runs i c len r' ∧ (r'.getX a).cur = max v.cur (min to' v.size) ∧
          (∀ l ∈ lanes, flag r' l (decide (max v.cur (min to' v.size) < v.endx))) ∧ ∀ n, n ≠ a → r'.x.get 0 n = r.x.get 0 n))) ∧
    (c.op ∈ [Op.xsave, .xload] → c.w.streaming = false →
      let sp := c.x.m 0 2
      let spot : Checked := c.checks ⟨sp, 64, 64, if c.op = .xload then kLoad else kStore, false⟩ [lowest c.m] fun _ => BitVec.ofNat 64 (c.spaceAddr sp)
      c.mayStart (if c.op = .xload then .kx else if sp = 0 then .kg else .ks) (c.op = .xload) = true → ∀ s' p, spot = .go s' [p] → p.Placed 64 →
        let waits (q : State → Out → Prop) : Prop := ∃ t o w', exec i c.s = .next t ∧ SameMemory c.s t ∧ t.warp? c.k = some w' ∧ w'.outs = c.w.outs ++ [o] ∧ w'.wait = .acks ∧
          w'.r = c.past len ∧ o.finished = false ∧ q t o
        let image := (r.x.get 0 (xNum c.x.b)).toNat
        (c.op = .xsave → sp = 0 → p.pa % 128 + 64 ≤ 128 → p.pb = p.pa + 63 → s'.canSend c.k c.w 1 = true → waits fun t o => o.kind = .store ∧
          ∃ m, t.sent m ∧ m.ty = .storeReq ∧ m.addr = lineAddr (lineOf p.pa) ∧ m.tag ∈ o.acks.map (·.1) ∧
            ∀ b < 128, (m.mask.getLsbD b = true ↔ p.pa % 128 ≤ b ∧ b < p.pa % 128 + 64) ∧
              (p.pa % 128 ≤ b → b < p.pa % 128 + 64 → (Line.byte m.data b).toNat = image / 256 ^ (b - p.pa % 128) % 256)) ∧
        (c.op = .xsave → sp ≠ 0 → waits fun t o => t.vault = c.s.vault ∧ o.kind = .vstore ∧ o.lanes.map (fun l => (l.a, l.size, l.data)) = [(p.pa, 64, image)]) ∧
        (c.op = .xload → sp ≠ 0 → waits fun _ o => o.kind = .vload ∧ o.lanes.map (fun l => (l.a, l.size)) = [(p.pa, 64)]) ∧
        (c.op = .xload → sp = 0 → p.pb = p.pa + 63 → p.pa % 128 + 64 ≤ 128 → (∀ fl, s'.l1Hit c.w.die c.w.core (lineOf p.pa) fl = Option.none) →
          s'.canSend c.k c.w 1 = true → c.w.outs = [] → waits fun t o => o.kind = .load ∧ ∃ q ∈ t.reqs, q.line = lineOf p.pa ∧ .out c.k o.id ∈ q.users) ∧
        (∀ hit, c.op = .xload → sp = 0 → p.pb = p.pa + 63 → p.pa % 128 + 64 ≤ 128 → c.w.outs = [] →
          (∀ fl, fl ≤ r.floorMax c.m → s'.l1Hit c.w.die c.w.core (lineOf p.pa) fl = some hit) → hit.w ≤ hit.expiry →
          let img := BitVec.ofNat 512 (leNat 64 fun j => Line.byte hit.data (p.pa % 128 + j))
          (XReg.ofBits img).invalid img = Option.none →
          ends fun r' => ∀ n, r'.x.get 0 n = if n = xNum c.x.d then (if (XReg.ofBits img).st = 0 then 0 else img) else r.x.get 0 n))

/-! ### Context images -/

/-- R182, R228, R447, R471, R472, R475, R52: CSAVE, CLOAD, RGNCLR and TLBINV complete: with no thread taking part each goes on. In
trap mode CSAVE and CLOAD of no register do nothing, CSAVE goes on with the image sent as stores, and CLOAD with the registers
filled from the lines read. RGNCLR in trap mode sends a clear request for each line that it may write, and when all have answered
goes on with the count of the flags cleared; TLBINV sends an invalidation to every die in service and to BN1, and
goes on when all have acknowledged it. Outside trap mode, TLBINV apart, and in a sprout the four trap ILLEGAL; CSAVE and CLOAD
check the range of registers, the alignment and the address space, in that order, and RGNCLR its range. -/
def Obligations.ContextInstructions : Prop :=
  (∀ (i : Instr) (s : State) (k : WarpKey) (w : Warp) (op : Op) (x : Ext) (len : Nat), instrForm i = some (op, x, len) → op ∈ [Op.csave, .cload] →
    s.running = some (k, w) → x.check op = Option.none → w.r.tmode = true → w.sprout = Option.none → w.r.takes x ≠ 0 → w.empties = [] → x.m 0 3 ≤ 2 →
    let c := cx s k w op x
    rangeOk (s.header k) true (x.m 0 3) (c.i32 (lowest c.m) x.b).toNat (c.i32 (lowest c.m) x.c).toNat = false → Traps i c cAlloc 0 0 wholeWarp 0) ∧
  ∀ (i : Instr) (c : Cx) (len : Nat), Executes i c len → c.op ∈ [Op.csave, .cload, .rgnclr, .tlbinv] →
    let shut : Prop := c.w.sprout.isSome = true ∨ (c.op ≠ .tlbinv ∧ c.w.r.tmode = false)
    (c.m = 0 → Becomes i c (c.with (c.past len))) ∧
    (shut → c.m ≠ 0 → Traps i c cIllegal 0 0 wholeWarp 0) ∧
    (¬ shut → c.m ≠ 0 →
    let h := c.s.header c.k
    let l := lowest c.m
    let kind := c.x.m 0 3
    let first := if kind ≤ 2 then (c.i32 l c.x.b).toNat else 0
    let count := if kind ≤ 2 then (c.i32 l c.x.c).toNat else 0
    let va := (c.i64 l c.x.a).toNat
    let size := imageSize h kind count
    let image : Prop := c.op = .csave ∨ c.op = .cload
    (image → va % 16 ≠ 0 → Traps i c cMisalign 0 0 wholeWarp (BitVec.ofNat 64 va)) ∧
    (image → va % 16 = 0 → kind ≤ 2 → count = 0 → Becomes i c (c.with (c.past len))) ∧
    (image → va % 16 = 0 → (2 < kind ∨ count ≠ 0) → 2 ^ 56 < va + size → Traps i c cProt 6 0 wholeWarp (BitVec.ofNat 64 va)) ∧
    (image → va % 16 = 0 → (2 < kind ∨ count ≠ 0) → va + size ≤ 2 ^ 56 → (kind = 5 → c.s.barHeld c.k.teamKey = false) →
      (∀ s' pas tm, c.op = .csave → c.mayStart .kg false = true → c.w.empties = [] → c.s.team? c.k.teamKey = some tm →
        c.flushPas (c.s.asidOf c.k) c.s ((lineParts va size).map fun p => (0, p.1)) [] = .ok (s', pas) →
        s'.canSend c.k c.w (lineParts va size).length = true →
        (s'.imageBad c.k c.w kind first count = true → exec i c.s = .next (s'.endGrid c.k.grid 17)) ∧
        (s'.imageBad c.k c.w kind first count = false →
        let v := c.w.image h tm kind first count
        ∃ t o, exec i c.s = .next t ∧ SameMemory c.s t ∧ t.warp? c.k = some { c.w with r := c.past len, outs := c.w.outs ++ [o], wait := .none } ∧ o.ctr = some .kg ∧
          ∀ q ∈ (lineParts va size).zip (pas.map (·.2)), q.2 % 128 = q.1.1 % 128 →
            ∃ m, t.sent m ∧ m.ty = .storeReq ∧ m.addr = lineAddr (lineOf q.2) ∧ m.tag ∈ o.acks.map (·.1) ∧
              ∀ b < 128, (m.mask.getLsbD b = true ↔ q.2 % 128 ≤ b ∧ b < q.2 % 128 + q.1.2.2) ∧
                (q.2 % 128 ≤ b → b < q.2 % 128 + q.1.2.2 → (Line.byte m.data b).toNat = v / 256 ^ (q.1.2.1 + (b - q.2 % 128)) % 256))) ∧
      (∀ img, c.op = .cload → c.w.quiet = true → c.s.lookBytes (.stream c.k 8) va size = .val img →
        (kind = 4 → hwBad h img = true → Traps i c cIllegal 0 0 wholeWarp 0) ∧
        ((kind = 4 → hwBad h img = false) → ∃ t r, exec i c.s = .next t ∧ SameMemory c.s t ∧ t.warp? c.k = some (c.with r) ∧ r.pc = (c.past len).pc ∧
          (∀ m < 128, c.w.r.floorOf m ≤ r.floorOf m) ∧
          (kind = 0 → h.width ≤ 128 → ∀ n < count, ∀ m < h.width, r.getV (first + n) m = BitVec.ofNat 32 (img / 256 ^ (4 * (n * h.width + m)))) ∧
          (kind = 2 → first + count ≤ 376 → ∀ n < count, r.getS h.nS (first + n) = BitVec.ofNat 32 (img / 256 ^ (4 * n))) ∧
          (kind ≠ 0 → r.v = c.w.r.v) ∧ (kind ≠ 1 → r.f = c.w.r.f) ∧ (kind ≠ 2 → r.s = c.w.r.s) ∧ (kind ≠ 3 → r.p = c.w.r.p) ∧
          (kind ≠ 5 → ∀ k, t.bar c.k.teamKey k = c.s.bar c.k.teamKey k)))) ∧
    (c.op = .rgnclr →
      let lines := (c.i32 l c.x.b).toNat
      let idle : Prop := ∀ ts n, c.w.wait ≠ .rgnclr ts n
      (∀ v k, c.w.wait = .rgnclr [] v → c.x.d = .s k → ∃ r, Becomes i c { c.w with r := r, wait := .none } ∧ r = { c.past len with s := r.s, bad := r.bad } ∧
        r.getS h.nS k.val = BitVec.ofNat 32 v) ∧
      (idle → va % 128 ≠ 0 → Traps i c cMisalign 0 0 wholeWarp (BitVec.ofNat 64 va)) ∧
      (idle → va % 128 = 0 → (lines = 0 ∨ 4096 < lines) → Traps i c cAlloc 0 0 wholeWarp 0) ∧
      (idle → va % 128 = 0 → lines ≠ 0 → lines ≤ 4096 → 2 ^ 56 < va + 128 * lines → Traps i c cProt 6 0 wholeWarp (BitVec.ofNat 64 (max va (2 ^ 56)))) ∧
      (∀ s' pas, idle → va % 128 = 0 → lines ≠ 0 → lines ≤ 4096 → va + 128 * lines ≤ 2 ^ 56 → c.w.settled = true →
        c.s.rgnPages c.k c.w (pagesOf va (128 * lines)) [] = (s', some pas) →
        let mine := ((List.range lines).map fun n => va + 128 * n).filter fun a => (pas.any fun p => p.1 = a / 2 ^ 16) && s'.writable c.w.die (c.s.asidOf c.k) a
        mine ≠ [] → ∃ t tags, exec i c.s = .next t ∧ SameMemory c.s t ∧ t.warp? c.k = some { c.w with wait := .rgnclr tags 0, active := false } ∧ tags.length = mine.length ∧
          ∀ a ∈ mine, ∃ m ∈ t.net, m.ty = .lostClear ∧ m.addr = pagePa pas a ∧ m.tag ∈ tags)) ∧
    (c.op = .tlbinv →
      (c.w.wait = .inval 0 → Becomes i c { c.w with r := c.past len, wait := .none }) ∧
      ((∀ n, c.w.wait ≠ .inval n) → c.w.settled = true → ∃ t n units, exec i c.s = .next t ∧ SameMemory c.s t ∧ t.warp? c.k = some { c.w with wait := .inval n, active := false } ∧
        (∀ u, u ∈ units ↔ u = 257 ∨ (u < 128 ∧ c.s.panel.inService u = true)) ∧
        (∃ q ∈ t.invals, q.id = n ∧ q.warp = some c.k ∧ q.left = units ∧ q.asid = c.s.asidOf c.k) ∧
        ∀ u ∈ units, ∃ m ∈ t.net, m.ty = .tlbInv ∧ m.dst = u ∧ m.tag = n ∧ m.op = c.x.m 0 2)))

/-- R466, R467, R472, R259: the V, F, S and P registers that an image holds come back from it. -/
def Obligations.ImagesRestoreRegisters : Prop :=
  ∀ (r q : Regs) (width first count : Nat), width ≤ 128 →
    (∀ n m, n < count → m < width → (r.loadV width first count (q.imageV width first count)).getV (first + n) m = q.getV (first + n) m) ∧
    (∀ n m, n < count → m < width → (r.loadF width first count (q.imageF width first count)).getF (first + n) m = q.getF (first + n) m) ∧
    (∀ nS n, first + count ≤ 376 → n < count → (r.loadS nS first count (q.imageS nS first count)).getS nS (first + n) = q.getS nS (first + n)) ∧
    (∀ n m, n < 15 → m < width → q.getP n m ≠ 3 → (r.loadP width (q.imageP width)).getP n m = q.getP n m) ∧
    (∀ n m, ¬ (first ≤ n ∧ n < first + count ∧ m < width) → m < 128 → (r.loadV width first count (q.imageV width first count)).getV n m = r.getV n m ∧
      (r.loadF width first count (q.imageF width first count)).getF n m = r.getF n m)

/-! ### Words, reset and memory -/

/-- The worked encodings of R236's chapter and of others: each word sequence decodes to the instruction it is given
for. -/
def Obligations.SpecWordsDecode : Prop :=
  decode [0x12022100] = .ok (.fadd 18 1 8, 1) ∧
  decode [0x82020c80] = .ok (.iadd true 2 1 3, 1) ∧
  decode [0x02122501, 0x007801c0, 0] = .ok (.faddX { Ext.fixed with d := .reg 9, a := .reg 9, b := .const 2 }, 3) ∧
  decode [0x00041241, 0x007e0000, 0x04000000] = .ok (.ldX { Ext.fixed with d := .reg 4, a := .reg 2, c := .imm 0, imm := 4 }, 3) ∧
  decode [0x7f04290b, 0x011801c0, 0, 0x3dcccccc, 0x3e4ccccd] =
    .ok (.fmulX { Ext.fixed with d := .reg 10, a := .reg 2, b := .lit, g := 3, gs := 2, lit := some 0x3e4ccccd3dcccccc }, 5) ∧
  decode [0xfffff408] = .ok (.bra (-3), 1) ∧
  decode [0x0000000f, 0x007d0400, 0, 0x000c0005, 0x001c0014] = .ok (.brc 2 false 0x001c0014000c0005, 5) ∧
  decode [0x2808_08ed, 0x0078_0185, 0x0000_0021] = .ok (.icmp { Ext.fixed with d := .p 2, a := .reg 4, b := .imm 40, mod := 0x21 }, 3)

/-- Every step keeps the canonical form of memory: addresses rising, and no entry equal to what an unlisted address
reads as (0 is the model's choice, log 1). -/
def Obligations.StepKeepsInv : Prop := ∀ s t : State, s.Inv → step s = .next t → t.Inv

/-- R479, R29, R415, R169, R170, R173: what stands after reset, and what a thread that a launch starts finds in its
registers. The registers of service space that the spec gives no value for read 0 (log 18). -/
def Obligations.ResetValues : Prop :=
  State.reset.Inv ∧ State.reset.svcStatus = 16 * 2 ^ 16 + 1 ∧ State.reset.panel.gatingDelay = 50000 ∧ State.reset.warps = [] ∧
  (∀ d, State.reset.clear.get 65536 d = 65536) ∧ (∀ a, State.reset.byteAt a = 0) ∧
  ∀ (h : Header) (args : BitVec 512) (entry : DWord) (live : Mask), 24 ≤ h.nS →
    let r := (Regs.start entry live).setArgs h args
    r.pc = entry ∧ r.live = live ∧ r.mask = live ∧ (∀ n l, r.getV n l = 0) ∧
    (∀ n l, (r.getF n l).raw.read .fp32 = .mk (.fin false 0) (.fin false 0) Dec.com) ∧ (∀ n l, n < 15 → r.getP n l = Tri.ff) ∧ (∀ l, r.getP 15 l = Tri.tt) ∧
    (∀ n < 16, r.getS h.nS n = args.extractLsb' (32 * n) 32) ∧ (∀ n, 16 ≤ n → n < 384 → r.getS h.nS n = 0) ∧ (∀ n, (r.getX n).st = 0) ∧
    r.tstat = 0 ∧ r.fcause = 0 ∧ r.faddr = 0 ∧ r.lpc = 0 ∧ r.hfault = 0 ∧ ∀ l, r.item.get 0 l = 0 ∧ r.hidx.get 0 l = 0 ∧ r.hcount.get 0 l = 0

end
end

