-- ==== Sys2Proof/Laws/Store.lean ====
section
/-! SUPPORT. Laws of the containers: read after write, what a write leaves alone, and that every memory operation
keeps the canonical form. -/

namespace Sys2Proof.Machine

variable {α κ : Type}

/-! ### Store -/

@[simp] theorem Store.get_nil (d : α) (a : Nat) : Store.get d [] a = d := rfl

/-- Removing a key leaves every other key alone. -/
theorem Store.get_filter_ne (d : α) (m : Store α) (a b : Nat) (h : b ≠ a) :
    Store.get d (m.filter fun p => p.1 ≠ a) b = Store.get d m b := by
  induction m with
  | nil => rfl
  | cons p r ih =>
    obtain ⟨k, w⟩ := p
    by_cases hk : k = a
    · subst hk; simpa [Store.get, h] using ih
    · have hf : List.filter (fun p : Nat × α => decide (p.1 ≠ a)) ((k, w) :: r) = (k, w) :: r.filter fun p => p.1 ≠ a := by simp [hk]
      rw [hf]; simp only [Store.get, ih]

/-- A removed key reads as unlisted. -/
theorem Store.get_filter_eq (d : α) (m : Store α) (a : Nat) : Store.get d (m.filter fun p => p.1 ≠ a) a = d := by
  induction m with
  | nil => rfl
  | cons p r ih =>
    obtain ⟨k, w⟩ := p
    by_cases hk : k = a
    · subst hk; simpa using ih
    · have hf : List.filter (fun p : Nat × α => decide (p.1 ≠ a)) ((k, w) :: r) = (k, w) :: r.filter fun p => p.1 ≠ a := by simp [hk]
      rw [hf]; simp only [Store.get, Ne.symm hk, if_false, ih]

/-- A write leaves every other key alone. -/
theorem Store.get_put_ne [DecidableEq α] (d : α) (m : Store α) (a b : Nat) (v : α) (h : b ≠ a) :
    Store.get d (Store.put d m a v) b = Store.get d m b := by
  induction m with
  | nil => simp only [Store.put]; split <;> simp [Store.get, h]
  | cons p r ih =>
    obtain ⟨k, w⟩ := p
    simp only [Store.put]
    split
    · split
      · simp only [Store.get, Store.get_filter_ne d r a b h]
      · simp [Store.get, h]
    · split
      · subst_vars
        split
        · rw [Store.get_filter_ne d r _ b h]; simp [Store.get, h]
        · simp [Store.get, h]
      · simp [Store.get, ih]

/-- Read after write. -/
theorem Store.get_put_eq [DecidableEq α] (d : α) (m : Store α) (a : Nat) (v : α) :
    Store.get d (Store.put d m a v) a = v := by
  induction m with
  | nil => simp only [Store.put]; split <;> simp_all [Store.get]
  | cons p r ih =>
    obtain ⟨k, w⟩ := p
    simp only [Store.put]
    split
    · rename_i hlt
      split
      · subst_vars
        have : a ≠ k := by omega
        simp only [Store.get, this, if_false, Store.get_filter_eq]
      · simp [Store.get]
    · split
      · subst_vars
        split
        · subst_vars; exact Store.get_filter_eq _ _ _
        · simp [Store.get]
      · rename_i h1 h2
        simp only [Store.get, h2, if_false]
        exact ih

theorem Store.above_mono (m : Store α) {a b : Nat} (h : a ≤ b) (hb : Store.above b m = true) : Store.above a m = true := by
  simp only [Store.above, List.all_eq_true, decide_eq_true_eq] at *
  intro p hp; have := hb p hp; omega

theorem Store.above_filter (m : Store α) (n : Nat) (p : Nat × α → Bool) (h : Store.above n m = true) : Store.above n (m.filter p) = true := by
  simp only [Store.above, List.all_eq_true, decide_eq_true_eq] at *
  intro x hx; exact h x (List.mem_of_mem_filter hx)

theorem Store.above_put [DecidableEq α] (d : α) (m : Store α) (n a : Nat) (v : α) (ha : n < a) (h : Store.above n m = true) :
    Store.above n (Store.put d m a v) = true := by
  induction m with
  | nil => simp only [Store.put]; split <;> simp [Store.above, ha]
  | cons p r ih =>
    obtain ⟨k, w⟩ := p
    have hk : n < k ∧ Store.above n r = true := by simpa [Store.above] using h
    simp only [Store.put]
    have hc : ∀ (j : Nat) (x : α) (q : Store α), n < j → Store.above n q = true → Store.above n ((j, x) :: q) = true := by
      intro j x q hj hq; simp only [Store.above, List.all_cons, Bool.and_eq_true, decide_eq_true_eq] at *; exact ⟨hj, hq⟩
    split
    · split
      · exact hc _ _ _ hk.1 (Store.above_filter r n _ hk.2)
      · exact hc _ _ _ ha h
    · split
      · split
        · exact Store.above_filter r n _ hk.2
        · exact hc _ _ _ ha hk.2
      · exact hc _ _ _ hk.1 (ih hk.2)

/-- Keeping the entries that a test admits keeps the canonical form. -/
theorem Store.filter_wf [DecidableEq α] (d : α) (m : Store α) (p : Nat × α → Bool) (h : Store.wf d m = true) :
    Store.wf d (m.filter p) = true := by
  induction m with
  | nil => rfl
  | cons q r ih =>
    obtain ⟨k, w⟩ := q
    simp only [Store.wf, Bool.and_eq_true, decide_eq_true_eq] at h
    obtain ⟨⟨hw, hab⟩, hr⟩ := h
    simp only [List.filter_cons]
    split
    · simp only [Store.wf, Bool.and_eq_true, decide_eq_true_eq]
      refine ⟨⟨hw, ?_⟩, ih hr⟩
      simp only [Store.above, List.all_eq_true, decide_eq_true_eq] at *
      intro x hx; exact hab x (List.mem_of_mem_filter hx)
    · exact ih hr

/-- A write keeps the canonical form. -/
theorem Store.put_wf [DecidableEq α] (d : α) (m : Store α) (a : Nat) (v : α) (h : Store.wf d m = true) :
    Store.wf d (Store.put d m a v) = true := by
  induction m with
  | nil => simp only [Store.put]; split <;> simp_all [Store.wf, Store.above]
  | cons p r ih =>
    obtain ⟨k, w⟩ := p
    simp only [Store.wf, Bool.and_eq_true, decide_eq_true_eq] at h
    obtain ⟨⟨hw, hab⟩, hr⟩ := h
    simp only [Store.put]
    split
    · rename_i hlt
      split
      · simp only [Store.wf, Bool.and_eq_true, decide_eq_true_eq]
        exact ⟨⟨hw, Store.above_filter r k _ hab⟩, Store.filter_wf d r _ hr⟩
      · rename_i hv
        have ha : Store.above a r = true := Store.above_mono r (Nat.le_of_lt hlt) hab
        have hc : Store.above a ((k, w) :: r) = true := by
          simp only [Store.above, List.all_cons, Bool.and_eq_true, decide_eq_true_eq] at *; exact ⟨hlt, ha⟩
        simp only [Store.wf, Bool.and_eq_true, decide_eq_true_eq]
        exact ⟨⟨hv, hc⟩, ⟨hw, hab⟩, hr⟩
    · split
      · subst_vars
        split
        · exact Store.filter_wf d r _ hr
        · rename_i hv
          simp only [Store.wf, Bool.and_eq_true, decide_eq_true_eq]
          exact ⟨⟨hv, hab⟩, hr⟩
      · rename_i h1 h2
        simp only [Store.wf, Bool.and_eq_true, decide_eq_true_eq]
        exact ⟨⟨hw, Store.above_put d r k a v (by omega) hab⟩, ih hr⟩

/-! ### Memory -/

theorem Memory.wf_reset : Memory.wf State.reset.mem = true := rfl

theorem Memory.put_wf (m : Store Byte) (a : Nat) (v : Byte) (h : Memory.wf m = true) : Memory.wf (Store.put 0 m a v) = true :=
  Store.put_wf 0 m a v h

theorem Memory.foldl_wf {β : Type} (f : Store Byte → β → Store Byte) (hf : ∀ m b, Memory.wf m = true → Memory.wf (f m b) = true)
    (l : List β) (m : Store Byte) (h : Memory.wf m = true) : Memory.wf (l.foldl f m) = true := by
  induction l generalizing m with
  | nil => exact h
  | cons b l ih => exact ih (f m b) (hf m b h)

/-- Writing bytes keeps the canonical form. -/
theorem Memory.writeBytes_wf (m : Store Byte) (a n v : Nat) (h : Memory.wf m = true) : Memory.wf (writeBytes m a n v) = true :=
  Memory.foldl_wf _ (fun m _ hm => Memory.put_wf m _ _ hm) _ m h

/-- Writing a line under a mask keeps the canonical form. -/
theorem Memory.putLine_wf (m : Store Byte) (line : Nat) (mask : BitVec 128) (d : Line) (h : Memory.wf m = true) :
    Memory.wf (putLine m line mask d) = true :=
  Memory.foldl_wf _ (fun m i hm => by split; exact Memory.put_wf m _ _ hm; exact hm) _ m h

/-- Bytes outside the written ones read as before. -/
theorem Memory.get_writeBytes_other (m : Store Byte) (a n v b : Nat) (h : b < a ∨ a + n ≤ b) :
    Store.get 0 (writeBytes m a n v) b = Store.get 0 m b := by
  unfold writeBytes
  have key : ∀ (l : List Nat) (m : Store Byte), (∀ i ∈ l, b ≠ a + i) →
      Store.get 0 (l.foldl (fun m i => Store.put 0 m (a + i) (BitVec.ofNat 8 (v / 256 ^ i))) m) b = Store.get 0 m b := by
    intro l
    induction l with
    | nil => intro m _; rfl
    | cons i l ih =>
      intro m hl
      rw [List.foldl_cons, ih _ (fun j hj => hl j (List.mem_cons_of_mem _ hj))]
      exact Store.get_put_ne 0 m _ _ _ (hl i List.mem_cons_self)
  refine key _ m fun i hi => ?_
  have := List.mem_range.mp hi
  omega

/-! ### Assoc -/

@[simp] theorem Assoc.find_put_self [DecidableEq κ] (m : Assoc κ α) (k : κ) (v : α) : (m.put k v).find k = some v := by
  induction m with
  | nil => simp [Assoc.put, Assoc.find]
  | cons p r ih =>
    obtain ⟨j, w⟩ := p
    simp only [Assoc.put]
    split
    · subst_vars; simp [Assoc.find]
    · rename_i h; simp [Assoc.find, h, ih]

theorem Assoc.find_filter_ne [DecidableEq κ] (m : Assoc κ α) (k j : κ) (h : j ≠ k) :
    Assoc.find (m.filter fun p => p.1 ≠ k) j = m.find j := by
  induction m with
  | nil => rfl
  | cons p r ih =>
    obtain ⟨i, w⟩ := p
    by_cases hi : i = k
    · subst hi; simpa [Assoc.find, h] using ih
    · simp only [List.filter_cons, decide_eq_true_eq, ne_eq, hi, not_false_eq_true, decide_true, if_true, Assoc.find]
      split
      · rfl
      · simpa using ih

theorem Assoc.find_put_ne [DecidableEq κ] (m : Assoc κ α) (k j : κ) (v : α) (h : j ≠ k) : (m.put k v).find j = m.find j := by
  induction m with
  | nil => simp [Assoc.put, Assoc.find, h]
  | cons p r ih =>
    obtain ⟨i, w⟩ := p
    simp only [Assoc.put]
    split
    · subst_vars
      have := Assoc.find_filter_ne r i j h
      simp only [Assoc.find, h, if_false]
      simpa using this
    · simp only [Assoc.find, ih]

end Sys2Proof.Machine
end

