-- ==== Sys2Proof/Laws/State.lean ====
section
/-! SUPPORT. What each update of the state leaves alone: one lemma per field and update. -/

namespace Sys2Proof.Machine

/-! ### State.setWarp -/

@[simp] theorem State.warp?_setWarp (s : State) (k : WarpKey) (w : Warp) : (s.setWarp k w).warp? k = some w :=
  Assoc.find_put_self s.warps k w

theorem State.warp?_setWarp_ne (s : State) (k j : WarpKey) (w : Warp) (h : j ≠ k) : (s.setWarp k w).warp? j = s.warp? j :=
  Assoc.find_put_ne s.warps k j w h

@[simp] theorem State.setWarp_now (s : State) (k : WarpKey) (w : Warp) : (s.setWarp k w).now = s.now := rfl
@[simp] theorem State.setWarp_steps (s : State) (k : WarpKey) (w : Warp) : (s.setWarp k w).steps = s.steps := rfl
@[simp] theorem State.setWarp_agenda (s : State) (k : WarpKey) (w : Warp) : (s.setWarp k w).agenda = s.agenda := rfl
@[simp] theorem State.setWarp_cur (s : State) (k : WarpKey) (w : Warp) : (s.setWarp k w).cur = s.cur := rfl
@[simp] theorem State.setWarp_arg (s : State) (k : WarpKey) (w : Warp) : (s.setWarp k w).arg = s.arg := rfl
@[simp] theorem State.setWarp_replica (s : State) (k : WarpKey) (w : Warp) : (s.setWarp k w).replica = s.replica := rfl
@[simp] theorem State.setWarp_gradeB (s : State) (k : WarpKey) (w : Warp) : (s.setWarp k w).gradeB = s.gradeB := rfl
@[simp] theorem State.setWarp_teams (s : State) (k : WarpKey) (w : Warp) : (s.setWarp k w).teams = s.teams := rfl
@[simp] theorem State.setWarp_grids (s : State) (k : WarpKey) (w : Warp) : (s.setWarp k w).grids = s.grids := rfl
@[simp] theorem State.setWarp_coreIssue (s : State) (k : WarpKey) (w : Warp) : (s.setWarp k w).coreIssue = s.coreIssue := rfl
@[simp] theorem State.setWarp_clear (s : State) (k : WarpKey) (w : Warp) : (s.setWarp k w).clear = s.clear := rfl
@[simp] theorem State.setWarp_pods (s : State) (k : WarpKey) (w : Warp) : (s.setWarp k w).pods = s.pods := rfl
@[simp] theorem State.setWarp_overs (s : State) (k : WarpKey) (w : Warp) : (s.setWarp k w).overs = s.overs := rfl
@[simp] theorem State.setWarp_steals (s : State) (k : WarpKey) (w : Warp) : (s.setWarp k w).steals = s.steals := rfl
@[simp] theorem State.setWarp_queues (s : State) (k : WarpKey) (w : Warp) : (s.setWarp k w).queues = s.queues := rfl
@[simp] theorem State.setWarp_rotation (s : State) (k : WarpKey) (w : Warp) : (s.setWarp k w).rotation = s.rotation := rfl
@[simp] theorem State.setWarp_rotated (s : State) (k : WarpKey) (w : Warp) : (s.setWarp k w).rotated = s.rotated := rfl
@[simp] theorem State.setWarp_nextGrid (s : State) (k : WarpKey) (w : Warp) : (s.setWarp k w).nextGrid = s.nextGrid := rfl
@[simp] theorem State.setWarp_mem (s : State) (k : WarpKey) (w : Warp) : (s.setWarp k w).mem = s.mem := rfl
@[simp] theorem State.setWarp_vault (s : State) (k : WarpKey) (w : Warp) : (s.setWarp k w).vault = s.vault := rfl
@[simp] theorem State.setWarp_eccLines (s : State) (k : WarpKey) (w : Warp) : (s.setWarp k w).eccLines = s.eccLines := rfl
@[simp] theorem State.setWarp_eccVault (s : State) (k : WarpKey) (w : Warp) : (s.setWarp k w).eccVault = s.eccVault := rfl
@[simp] theorem State.setWarp_boundary (s : State) (k : WarpKey) (w : Warp) : (s.setWarp k w).boundary = s.boundary := rfl
@[simp] theorem State.setWarp_ebound (s : State) (k : WarpKey) (w : Warp) : (s.setWarp k w).ebound = s.ebound := rfl
@[simp] theorem State.setWarp_perf (s : State) (k : WarpKey) (w : Warp) : (s.setWarp k w).perf = s.perf := rfl
@[simp] theorem State.setWarp_regions (s : State) (k : WarpKey) (w : Warp) : (s.setWarp k w).regions = s.regions := rfl
@[simp] theorem State.setWarp_lineq (s : State) (k : WarpKey) (w : Warp) : (s.setWarp k w).lineq = s.lineq := rfl
@[simp] theorem State.setWarp_watches (s : State) (k : WarpKey) (w : Warp) : (s.setWarp k w).watches = s.watches := rfl
@[simp] theorem State.setWarp_dead (s : State) (k : WarpKey) (w : Warp) : (s.setWarp k w).dead = s.dead := rfl
@[simp] theorem State.setWarp_renewals (s : State) (k : WarpKey) (w : Warp) : (s.setWarp k w).renewals = s.renewals := rfl
@[simp] theorem State.setWarp_slice (s : State) (k : WarpKey) (w : Warp) : (s.setWarp k w).slice = s.slice := rfl
@[simp] theorem State.setWarp_net (s : State) (k : WarpKey) (w : Warp) : (s.setWarp k w).net = s.net := rfl
@[simp] theorem State.setWarp_nextId (s : State) (k : WarpKey) (w : Warp) : (s.setWarp k w).nextId = s.nextId := rfl
@[simp] theorem State.setWarp_kelvia (s : State) (k : WarpKey) (w : Warp) : (s.setWarp k w).kelvia = s.kelvia := rfl
@[simp] theorem State.setWarp_halfOut (s : State) (k : WarpKey) (w : Warp) : (s.setWarp k w).halfOut = s.halfOut := rfl
@[simp] theorem State.setWarp_incs (s : State) (k : WarpKey) (w : Warp) : (s.setWarp k w).incs = s.incs := rfl
@[simp] theorem State.setWarp_errors (s : State) (k : WarpKey) (w : Warp) : (s.setWarp k w).errors = s.errors := rfl
@[simp] theorem State.setWarp_copies (s : State) (k : WarpKey) (w : Warp) : (s.setWarp k w).copies = s.copies := rfl
@[simp] theorem State.setWarp_engines (s : State) (k : WarpKey) (w : Warp) : (s.setWarp k w).engines = s.engines := rfl
@[simp] theorem State.setWarp_spans (s : State) (k : WarpKey) (w : Warp) : (s.setWarp k w).spans = s.spans := rfl
@[simp] theorem State.setWarp_mats (s : State) (k : WarpKey) (w : Warp) : (s.setWarp k w).mats = s.mats := rfl
@[simp] theorem State.setWarp_looks (s : State) (k : WarpKey) (w : Warp) : (s.setWarp k w).looks = s.looks := rfl
@[simp] theorem State.setWarp_unitFills (s : State) (k : WarpKey) (w : Warp) : (s.setWarp k w).unitFills = s.unitFills := rfl
@[simp] theorem State.setWarp_portsOut (s : State) (k : WarpKey) (w : Warp) : (s.setWarp k w).portsOut = s.portsOut := rfl
@[simp] theorem State.setWarp_l1 (s : State) (k : WarpKey) (w : Warp) : (s.setWarp k w).l1 = s.l1 := rfl
@[simp] theorem State.setWarp_reqs (s : State) (k : WarpKey) (w : Warp) : (s.setWarp k w).reqs = s.reqs := rfl
@[simp] theorem State.setWarp_rejected (s : State) (k : WarpKey) (w : Warp) : (s.setWarp k w).rejected = s.rejected := rfl
@[simp] theorem State.setWarp_held (s : State) (k : WarpKey) (w : Warp) : (s.setWarp k w).held = s.held := rfl
@[simp] theorem State.setWarp_wantEntry (s : State) (k : WarpKey) (w : Warp) : (s.setWarp k w).wantEntry = s.wantEntry := rfl
@[simp] theorem State.setWarp_holds (s : State) (k : WarpKey) (w : Warp) : (s.setWarp k w).holds = s.holds := rfl
@[simp] theorem State.setWarp_tlbs (s : State) (k : WarpKey) (w : Warp) : (s.setWarp k w).tlbs = s.tlbs := rfl
@[simp] theorem State.setWarp_tables (s : State) (k : WarpKey) (w : Warp) : (s.setWarp k w).tables = s.tables := rfl
@[simp] theorem State.setWarp_walks (s : State) (k : WarpKey) (w : Warp) : (s.setWarp k w).walks = s.walks := rfl
@[simp] theorem State.setWarp_faults (s : State) (k : WarpKey) (w : Warp) : (s.setWarp k w).faults = s.faults := rfl
@[simp] theorem State.setWarp_roots (s : State) (k : WarpKey) (w : Warp) : (s.setWarp k w).roots = s.roots := rfl
@[simp] theorem State.setWarp_mapBits (s : State) (k : WarpKey) (w : Warp) : (s.setWarp k w).mapBits = s.mapBits := rfl
@[simp] theorem State.setWarp_mapLines (s : State) (k : WarpKey) (w : Warp) : (s.setWarp k w).mapLines = s.mapLines := rfl
@[simp] theorem State.setWarp_inflight (s : State) (k : WarpKey) (w : Warp) : (s.setWarp k w).inflight = s.inflight := rfl
@[simp] theorem State.setWarp_service (s : State) (k : WarpKey) (w : Warp) : (s.setWarp k w).service = s.service := rfl
@[simp] theorem State.setWarp_unitWaits (s : State) (k : WarpKey) (w : Warp) : (s.setWarp k w).unitWaits = s.unitWaits := rfl
@[simp] theorem State.setWarp_incoming (s : State) (k : WarpKey) (w : Warp) : (s.setWarp k w).incoming = s.incoming := rfl
@[simp] theorem State.setWarp_notices (s : State) (k : WarpKey) (w : Warp) : (s.setWarp k w).notices = s.notices := rfl
@[simp] theorem State.setWarp_clears (s : State) (k : WarpKey) (w : Warp) : (s.setWarp k w).clears = s.clears := rfl
@[simp] theorem State.setWarp_invals (s : State) (k : WarpKey) (w : Warp) : (s.setWarp k w).invals = s.invals := rfl
@[simp] theorem State.setWarp_panel (s : State) (k : WarpKey) (w : Warp) : (s.setWarp k w).panel = s.panel := rfl

/-! ### Registers -/

/-- A write poisons nothing (R491). -/
theorem rewritten_sub {l : List Dest} {d e : Dest} (h : e ∈ rewritten l d) : e ∈ l := (List.mem_filter.mp h).1

/-- What a write replaces is good again (R491). -/
theorem not_mem_rewritten (l : List Dest) (d : Dest) : d ∉ rewritten l d := by simp [rewritten]

@[simp] theorem Regs.setV_bad (r : Regs) (n l : Nat) (x : Word) : (r.setV n l x).bad = rewritten r.bad ⟨.v, n, l⟩ := rfl
@[simp] theorem Regs.setF_bad (r : Regs) (n l : Nat) (x : FReg) : (r.setF n l x).bad = rewritten r.bad ⟨.f, n, l⟩ := rfl
@[simp] theorem Regs.setS_bad (r : Regs) (nS n : Nat) (x : Word) : (r.setS nS n x).bad = rewritten r.bad ⟨.s, sWord nS n, 0⟩ := rfl

@[simp] theorem Regs.setV_f (r : Regs) (n l : Nat) (x : Word) : (r.setV n l x).f = r.f := rfl
@[simp] theorem Regs.setV_s (r : Regs) (n l : Nat) (x : Word) : (r.setV n l x).s = r.s := rfl
@[simp] theorem Regs.setV_p (r : Regs) (n l : Nat) (x : Word) : (r.setV n l x).p = r.p := rfl
@[simp] theorem Regs.setV_x (r : Regs) (n l : Nat) (x : Word) : (r.setV n l x).x = r.x := rfl
@[simp] theorem Regs.setV_pc (r : Regs) (n l : Nat) (x : Word) : (r.setV n l x).pc = r.pc := rfl
@[simp] theorem Regs.setV_live (r : Regs) (n l : Nat) (x : Word) : (r.setV n l x).live = r.live := rfl
@[simp] theorem Regs.setV_mask (r : Regs) (n l : Nat) (x : Word) : (r.setV n l x).mask = r.mask := rfl
@[simp] theorem Regs.setV_stack (r : Regs) (n l : Nat) (x : Word) : (r.setV n l x).stack = r.stack := rfl
@[simp] theorem Regs.setV_hstack (r : Regs) (n l : Nat) (x : Word) : (r.setV n l x).hstack = r.hstack := rfl
@[simp] theorem Regs.setV_imask (r : Regs) (n l : Nat) (x : Word) : (r.setV n l x).imask = r.imask := rfl
@[simp] theorem Regs.setV_ipc (r : Regs) (n l : Nat) (x : Word) : (r.setV n l x).ipc = r.ipc := rfl
@[simp] theorem Regs.setV_tstat (r : Regs) (n l : Nat) (x : Word) : (r.setV n l x).tstat = r.tstat := rfl
@[simp] theorem Regs.setV_fcause (r : Regs) (n l : Nat) (x : Word) : (r.setV n l x).fcause = r.fcause := rfl
@[simp] theorem Regs.setV_faddr (r : Regs) (n l : Nat) (x : Word) : (r.setV n l x).faddr = r.faddr := rfl
@[simp] theorem Regs.setV_lpc (r : Regs) (n l : Nat) (x : Word) : (r.setV n l x).lpc = r.lpc := rfl
@[simp] theorem Regs.setV_hfault (r : Regs) (n l : Nat) (x : Word) : (r.setV n l x).hfault = r.hfault := rfl
@[simp] theorem Regs.setV_item (r : Regs) (n l : Nat) (x : Word) : (r.setV n l x).item = r.item := rfl
@[simp] theorem Regs.setV_hidx (r : Regs) (n l : Nat) (x : Word) : (r.setV n l x).hidx = r.hidx := rfl
@[simp] theorem Regs.setV_hcount (r : Regs) (n l : Nat) (x : Word) : (r.setV n l x).hcount = r.hcount := rfl
@[simp] theorem Regs.setV_floor (r : Regs) (n l : Nat) (x : Word) : (r.setV n l x).floor = r.floor := rfl
@[simp] theorem Regs.setV_copySeq (r : Regs) (n l : Nat) (x : Word) : (r.setV n l x).copySeq = r.copySeq := rfl
@[simp] theorem Regs.setV_spanRef (r : Regs) (n l : Nat) (x : Word) : (r.setV n l x).spanRef = r.spanRef := rfl
@[simp] theorem Regs.setV_recr (r : Regs) (n l : Nat) (x : Word) : (r.setV n l x).recr = r.recr := rfl
@[simp] theorem Regs.setV_mrecs (r : Regs) (n l : Nat) (x : Word) : (r.setV n l x).mrecs = r.mrecs := rfl
@[simp] theorem Regs.setV_uni (r : Regs) (n l : Nat) (x : Word) : (r.setV n l x).uni = r.uni := rfl
@[simp] theorem Regs.setV_thin (r : Regs) (n l : Nat) (x : Word) : (r.setV n l x).thin = r.thin := rfl
@[simp] theorem Regs.setF_v (r : Regs) (n l : Nat) (x : FReg) : (r.setF n l x).v = r.v := rfl
@[simp] theorem Regs.setF_s (r : Regs) (n l : Nat) (x : FReg) : (r.setF n l x).s = r.s := rfl
@[simp] theorem Regs.setF_p (r : Regs) (n l : Nat) (x : FReg) : (r.setF n l x).p = r.p := rfl
@[simp] theorem Regs.setF_x (r : Regs) (n l : Nat) (x : FReg) : (r.setF n l x).x = r.x := rfl
@[simp] theorem Regs.setF_pc (r : Regs) (n l : Nat) (x : FReg) : (r.setF n l x).pc = r.pc := rfl
@[simp] theorem Regs.setF_live (r : Regs) (n l : Nat) (x : FReg) : (r.setF n l x).live = r.live := rfl
@[simp] theorem Regs.setF_mask (r : Regs) (n l : Nat) (x : FReg) : (r.setF n l x).mask = r.mask := rfl
@[simp] theorem Regs.setF_stack (r : Regs) (n l : Nat) (x : FReg) : (r.setF n l x).stack = r.stack := rfl
@[simp] theorem Regs.setF_hstack (r : Regs) (n l : Nat) (x : FReg) : (r.setF n l x).hstack = r.hstack := rfl
@[simp] theorem Regs.setF_imask (r : Regs) (n l : Nat) (x : FReg) : (r.setF n l x).imask = r.imask := rfl
@[simp] theorem Regs.setF_ipc (r : Regs) (n l : Nat) (x : FReg) : (r.setF n l x).ipc = r.ipc := rfl
@[simp] theorem Regs.setF_tstat (r : Regs) (n l : Nat) (x : FReg) : (r.setF n l x).tstat = r.tstat := rfl
@[simp] theorem Regs.setF_fcause (r : Regs) (n l : Nat) (x : FReg) : (r.setF n l x).fcause = r.fcause := rfl
@[simp] theorem Regs.setF_faddr (r : Regs) (n l : Nat) (x : FReg) : (r.setF n l x).faddr = r.faddr := rfl
@[simp] theorem Regs.setF_lpc (r : Regs) (n l : Nat) (x : FReg) : (r.setF n l x).lpc = r.lpc := rfl
@[simp] theorem Regs.setF_hfault (r : Regs) (n l : Nat) (x : FReg) : (r.setF n l x).hfault = r.hfault := rfl
@[simp] theorem Regs.setF_item (r : Regs) (n l : Nat) (x : FReg) : (r.setF n l x).item = r.item := rfl
@[simp] theorem Regs.setF_hidx (r : Regs) (n l : Nat) (x : FReg) : (r.setF n l x).hidx = r.hidx := rfl
@[simp] theorem Regs.setF_hcount (r : Regs) (n l : Nat) (x : FReg) : (r.setF n l x).hcount = r.hcount := rfl
@[simp] theorem Regs.setF_floor (r : Regs) (n l : Nat) (x : FReg) : (r.setF n l x).floor = r.floor := rfl
@[simp] theorem Regs.setF_copySeq (r : Regs) (n l : Nat) (x : FReg) : (r.setF n l x).copySeq = r.copySeq := rfl
@[simp] theorem Regs.setF_spanRef (r : Regs) (n l : Nat) (x : FReg) : (r.setF n l x).spanRef = r.spanRef := rfl
@[simp] theorem Regs.setF_recr (r : Regs) (n l : Nat) (x : FReg) : (r.setF n l x).recr = r.recr := rfl
@[simp] theorem Regs.setF_mrecs (r : Regs) (n l : Nat) (x : FReg) : (r.setF n l x).mrecs = r.mrecs := rfl
@[simp] theorem Regs.setF_uni (r : Regs) (n l : Nat) (x : FReg) : (r.setF n l x).uni = r.uni := rfl
@[simp] theorem Regs.setF_thin (r : Regs) (n l : Nat) (x : FReg) : (r.setF n l x).thin = r.thin := rfl
@[simp] theorem Regs.setS_v (r : Regs) (nS n : Nat) (x : Word) : (r.setS nS n x).v = r.v := rfl
@[simp] theorem Regs.setS_f (r : Regs) (nS n : Nat) (x : Word) : (r.setS nS n x).f = r.f := rfl
@[simp] theorem Regs.setS_p (r : Regs) (nS n : Nat) (x : Word) : (r.setS nS n x).p = r.p := rfl
@[simp] theorem Regs.setS_x (r : Regs) (nS n : Nat) (x : Word) : (r.setS nS n x).x = r.x := rfl
@[simp] theorem Regs.setS_pc (r : Regs) (nS n : Nat) (x : Word) : (r.setS nS n x).pc = r.pc := rfl
@[simp] theorem Regs.setS_live (r : Regs) (nS n : Nat) (x : Word) : (r.setS nS n x).live = r.live := rfl
@[simp] theorem Regs.setS_mask (r : Regs) (nS n : Nat) (x : Word) : (r.setS nS n x).mask = r.mask := rfl
@[simp] theorem Regs.setS_stack (r : Regs) (nS n : Nat) (x : Word) : (r.setS nS n x).stack = r.stack := rfl
@[simp] theorem Regs.setS_hstack (r : Regs) (nS n : Nat) (x : Word) : (r.setS nS n x).hstack = r.hstack := rfl
@[simp] theorem Regs.setS_imask (r : Regs) (nS n : Nat) (x : Word) : (r.setS nS n x).imask = r.imask := rfl
@[simp] theorem Regs.setS_ipc (r : Regs) (nS n : Nat) (x : Word) : (r.setS nS n x).ipc = r.ipc := rfl
@[simp] theorem Regs.setS_tstat (r : Regs) (nS n : Nat) (x : Word) : (r.setS nS n x).tstat = r.tstat := rfl
@[simp] theorem Regs.setS_fcause (r : Regs) (nS n : Nat) (x : Word) : (r.setS nS n x).fcause = r.fcause := rfl
@[simp] theorem Regs.setS_faddr (r : Regs) (nS n : Nat) (x : Word) : (r.setS nS n x).faddr = r.faddr := rfl
@[simp] theorem Regs.setS_lpc (r : Regs) (nS n : Nat) (x : Word) : (r.setS nS n x).lpc = r.lpc := rfl
@[simp] theorem Regs.setS_hfault (r : Regs) (nS n : Nat) (x : Word) : (r.setS nS n x).hfault = r.hfault := rfl
@[simp] theorem Regs.setS_item (r : Regs) (nS n : Nat) (x : Word) : (r.setS nS n x).item = r.item := rfl
@[simp] theorem Regs.setS_hidx (r : Regs) (nS n : Nat) (x : Word) : (r.setS nS n x).hidx = r.hidx := rfl
@[simp] theorem Regs.setS_hcount (r : Regs) (nS n : Nat) (x : Word) : (r.setS nS n x).hcount = r.hcount := rfl
@[simp] theorem Regs.setS_floor (r : Regs) (nS n : Nat) (x : Word) : (r.setS nS n x).floor = r.floor := rfl
@[simp] theorem Regs.setS_copySeq (r : Regs) (nS n : Nat) (x : Word) : (r.setS nS n x).copySeq = r.copySeq := rfl
@[simp] theorem Regs.setS_spanRef (r : Regs) (nS n : Nat) (x : Word) : (r.setS nS n x).spanRef = r.spanRef := rfl
@[simp] theorem Regs.setS_recr (r : Regs) (nS n : Nat) (x : Word) : (r.setS nS n x).recr = r.recr := rfl
@[simp] theorem Regs.setS_mrecs (r : Regs) (nS n : Nat) (x : Word) : (r.setS nS n x).mrecs = r.mrecs := rfl
@[simp] theorem Regs.setS_uni (r : Regs) (nS n : Nat) (x : Word) : (r.setS nS n x).uni = r.uni := rfl
@[simp] theorem Regs.setS_thin (r : Regs) (nS n : Nat) (x : Word) : (r.setS nS n x).thin = r.thin := rfl
@[simp] theorem Regs.setP_v (r : Regs) (n l : Nat) (x : Tri) : (r.setP n l x).v = r.v := by
  unfold Regs.setP; split <;> rfl
@[simp] theorem Regs.setP_f (r : Regs) (n l : Nat) (x : Tri) : (r.setP n l x).f = r.f := by
  unfold Regs.setP; split <;> rfl
@[simp] theorem Regs.setP_s (r : Regs) (n l : Nat) (x : Tri) : (r.setP n l x).s = r.s := by
  unfold Regs.setP; split <;> rfl
@[simp] theorem Regs.setP_x (r : Regs) (n l : Nat) (x : Tri) : (r.setP n l x).x = r.x := by
  unfold Regs.setP; split <;> rfl
@[simp] theorem Regs.setP_pc (r : Regs) (n l : Nat) (x : Tri) : (r.setP n l x).pc = r.pc := by
  unfold Regs.setP; split <;> rfl
@[simp] theorem Regs.setP_live (r : Regs) (n l : Nat) (x : Tri) : (r.setP n l x).live = r.live := by
  unfold Regs.setP; split <;> rfl
@[simp] theorem Regs.setP_mask (r : Regs) (n l : Nat) (x : Tri) : (r.setP n l x).mask = r.mask := by
  unfold Regs.setP; split <;> rfl
@[simp] theorem Regs.setP_stack (r : Regs) (n l : Nat) (x : Tri) : (r.setP n l x).stack = r.stack := by
  unfold Regs.setP; split <;> rfl
@[simp] theorem Regs.setP_hstack (r : Regs) (n l : Nat) (x : Tri) : (r.setP n l x).hstack = r.hstack := by
  unfold Regs.setP; split <;> rfl
@[simp] theorem Regs.setP_imask (r : Regs) (n l : Nat) (x : Tri) : (r.setP n l x).imask = r.imask := by
  unfold Regs.setP; split <;> rfl
@[simp] theorem Regs.setP_ipc (r : Regs) (n l : Nat) (x : Tri) : (r.setP n l x).ipc = r.ipc := by
  unfold Regs.setP; split <;> rfl
@[simp] theorem Regs.setP_tstat (r : Regs) (n l : Nat) (x : Tri) : (r.setP n l x).tstat = r.tstat := by
  unfold Regs.setP; split <;> rfl
@[simp] theorem Regs.setP_fcause (r : Regs) (n l : Nat) (x : Tri) : (r.setP n l x).fcause = r.fcause := by
  unfold Regs.setP; split <;> rfl
@[simp] theorem Regs.setP_faddr (r : Regs) (n l : Nat) (x : Tri) : (r.setP n l x).faddr = r.faddr := by
  unfold Regs.setP; split <;> rfl
@[simp] theorem Regs.setP_lpc (r : Regs) (n l : Nat) (x : Tri) : (r.setP n l x).lpc = r.lpc := by
  unfold Regs.setP; split <;> rfl
@[simp] theorem Regs.setP_hfault (r : Regs) (n l : Nat) (x : Tri) : (r.setP n l x).hfault = r.hfault := by
  unfold Regs.setP; split <;> rfl
@[simp] theorem Regs.setP_item (r : Regs) (n l : Nat) (x : Tri) : (r.setP n l x).item = r.item := by
  unfold Regs.setP; split <;> rfl
@[simp] theorem Regs.setP_hidx (r : Regs) (n l : Nat) (x : Tri) : (r.setP n l x).hidx = r.hidx := by
  unfold Regs.setP; split <;> rfl
@[simp] theorem Regs.setP_hcount (r : Regs) (n l : Nat) (x : Tri) : (r.setP n l x).hcount = r.hcount := by
  unfold Regs.setP; split <;> rfl
@[simp] theorem Regs.setP_floor (r : Regs) (n l : Nat) (x : Tri) : (r.setP n l x).floor = r.floor := by
  unfold Regs.setP; split <;> rfl
@[simp] theorem Regs.setP_copySeq (r : Regs) (n l : Nat) (x : Tri) : (r.setP n l x).copySeq = r.copySeq := by
  unfold Regs.setP; split <;> rfl
@[simp] theorem Regs.setP_spanRef (r : Regs) (n l : Nat) (x : Tri) : (r.setP n l x).spanRef = r.spanRef := by
  unfold Regs.setP; split <;> rfl
@[simp] theorem Regs.setP_recr (r : Regs) (n l : Nat) (x : Tri) : (r.setP n l x).recr = r.recr := by
  unfold Regs.setP; split <;> rfl
@[simp] theorem Regs.setP_mrecs (r : Regs) (n l : Nat) (x : Tri) : (r.setP n l x).mrecs = r.mrecs := by
  unfold Regs.setP; split <;> rfl
@[simp] theorem Regs.setP_uni (r : Regs) (n l : Nat) (x : Tri) : (r.setP n l x).uni = r.uni := by
  unfold Regs.setP; split <;> rfl
@[simp] theorem Regs.setP_thin (r : Regs) (n l : Nat) (x : Tri) : (r.setP n l x).thin = r.thin := by
  unfold Regs.setP; split <;> rfl
@[simp] theorem Regs.setP_bad (r : Regs) (n l : Nat) (x : Tri) : (r.setP n l x).bad = r.bad := by
  unfold Regs.setP; split <;> rfl

/-! ### Reading a register after a write -/

theorem regKey_inj {n l n' l' : Nat} (h : l < 128) (h' : l' < 128) (e : regKey n l = regKey n' l') : n = n' ∧ l = l' := by
  unfold regKey at e; omega

@[simp] theorem Regs.getV_setV (r : Regs) (n l : Nat) (x : Word) : (r.setV n l x).getV n l = x :=
  Store.get_put_eq 0 r.v _ x

theorem Regs.getV_setV_ne (r : Regs) (n l n' l' : Nat) (x : Word) (h : regKey n' l' ≠ regKey n l) : (r.setV n l x).getV n' l' = r.getV n' l' :=
  Store.get_put_ne 0 r.v _ _ x h

@[simp] theorem Regs.getF_setF (r : Regs) (n l : Nat) (x : FReg) : (r.setF n l x).getF n l = x :=
  Store.get_put_eq FReg.zero r.f _ x

theorem Regs.getF_setF_ne (r : Regs) (n l n' l' : Nat) (x : FReg) (h : regKey n' l' ≠ regKey n l) : (r.setF n l x).getF n' l' = r.getF n' l' :=
  Store.get_put_ne FReg.zero r.f _ _ x h

@[simp] theorem Regs.getS_setS (r : Regs) (nS n : Nat) (x : Word) : (r.setS nS n x).getS nS n = x :=
  Store.get_put_eq 0 r.s _ x

theorem Regs.getP_setP (r : Regs) (n l : Nat) (x : Tri) (h : n ≠ 15) : (r.setP n l x).getP n l = x := by
  simp only [Regs.getP, Regs.setP, h, if_false]
  exact Store.get_put_eq 0 r.p _ x

theorem Regs.getP_setP_ne (r : Regs) (n l n' l' : Nat) (x : Tri) (h : regKey n' l' ≠ regKey n l) : (r.setP n l x).getP n' l' = r.getP n' l' := by
  simp only [Regs.getP, Regs.setP]
  split
  · rfl
  · split
    · rfl
    · exact Store.get_put_ne 0 r.p _ _ x h

theorem Regs.getS_setS_ne (r : Regs) (nS n n' : Nat) (x : Word) (h : sWord nS n' ≠ sWord nS n) : (r.setS nS n x).getS nS n' = r.getS nS n' :=
  Store.get_put_ne 0 r.s _ _ x h

/-- P15 reads TRUE, whatever is written (R170). -/
@[simp] theorem Regs.getP_15 (r : Regs) (l : Nat) : r.getP 15 l = Tri.tt := rfl

@[simp] theorem Regs.setP_15 (r : Regs) (l : Nat) (x : Tri) : r.setP 15 l x = r := rfl

end Sys2Proof.Machine
end

