-- ==== Sys2Proof/Laws/Frame.lean ====
section
/-! SUPPORT. What the frame of an instruction can do: the instruction's own effect, or one of the traps and waits that
come before it. -/

namespace Sys2Proof.Machine

variable {s : State} {k : WarpKey} {w : Warp} {op : Op} {x : Ext} {body : Cx → Res}

theorem State.running_warp (h : s.running = some (k, w)) : s.cur = some k ∧ s.warp? k = some w := by
  unfold State.running at h
  split at h
  · cases h
  · rename_i j hj
    cases hw : s.warp? j with
    | none => simp [hw] at h
    | some v => simp [hw] at h; obtain ⟨rfl, rfl⟩ := h; exact ⟨hj, hw⟩

/-- Only HJOIN may name fewer registers than its fields hold (R453). -/
theorem Warp.named_eq (h : op ≠ .hjoin) : w.named op x = x := by simp [Warp.named, h]

/-- Only CSAVE and CLOAD have ranges (R472). -/
theorem State.rangeNamed_eq (h : op ≠ .csave) (h' : op ≠ .cload) : s.rangeNamed k w op x = true := by simp [State.rangeNamed, h, h']

/-- For every other instruction the check of R182 is the one on its fields. -/
theorem State.namesOk_eq (h : op ≠ .hjoin) (h₁ : op ≠ .csave) (h₂ : op ≠ .cload) :
    s.namesOk k w op x = declaredAll (s.header k) w.r.tmode op x := by
  simp [State.namesOk, Warp.named_eq h, State.rangeNamed_eq h₁ h₂]

/-- An instruction that may execute has its own effect. -/
theorem frame_go (h : Able s k w op x) : frame op x s body = body (cx s k w op x) := by
  unfold frame cx
  rw [h.running]
  simp [h.legal, h.declared, h.ready]

/-- An encoding that a check of R236 refuses traps ILLEGAL. -/
theorem frame_illegal (hr : s.running = some (k, w)) (h : x.check op ≠ none) :
    frame op x s body = s.precise k w cIllegal 0 0 wholeWarp 0 := by
  unfold frame; rw [hr]; simp [h]

/-- A register that is not declared traps ALLOC. -/
theorem frame_undeclared (hr : s.running = some (k, w)) (hl : x.check op = none)
    (h : s.namesOk k w op x = false) : frame op x s body = s.precise k w cAlloc 0 0 wholeWarp 0 := by
  unfold frame; rw [hr]; simp [hl, h]

/-- With every register full and none of them poisoned nothing stands before the effect (R177, R458). -/
theorem readiness_go {nS : Nat} {m : Mask} (h : w.outs = []) (hb : w.r.bad = []) : readiness nS w m op x = .go := by
  simp [readiness, fullness, Regs.badLane, h, hb]

/-- With every register full an instruction reads its sources, and poison in one of them traps (R458). -/
theorem readiness_ecc {nS : Nat} {m : Mask} {l : Nat} (h : fullness w m op x = .go)
    (hb : w.r.badLane nS ((readsOf op x).map fun p => (readersOf w m op p.2.1, p.2)) = some l) : readiness nS w m op x = .ecc l := by
  simp [readiness, h, hb]

/-- With no executing warp there is no instruction. -/
theorem frame_noWarp (h : s.running = none) : frame op x s body = .fault .noWarp := by
  unfold frame; rw [h]

/-- Everything the frame can do. -/
theorem frame_cases :
    (s.running = none ∧ frame op x s body = .fault .noWarp) ∨
    (∃ k w, s.running = some (k, w) ∧
      ((∃ cause detail aux lane addr, frame op x s body = s.precise k w cause detail aux lane addr) ∨
       frame op x s body = .next (s.setWarp k { w with active := false }) ∨
       (Able s k w op x ∧ frame op x s body = body (cx s k w op x)))) := by
  cases hr : s.running with
  | none => exact .inl ⟨rfl, frame_noWarp hr⟩
  | some p =>
    obtain ⟨k, w⟩ := p
    refine .inr ⟨k, w, rfl, ?_⟩
    by_cases hl : x.check op = none
    · by_cases hd : s.namesOk k w op x = true
      · cases hq : readiness (s.header k).nS w (w.r.takes x) op (w.named op x) with
        | go => exact .inr (.inr ⟨⟨hr, hl, hd, hq⟩, frame_go ⟨hr, hl, hd, hq⟩⟩)
        | wait =>
          unfold frame; rw [hr]; simp only [hl, hd, hq]
          cases w.stopFor op x with
          | none => exact .inr (.inl (by simp))
          | some st => exact .inl ⟨st.cause, st.detail, 0, wholeWarp, st.addr, by simp⟩
        | fe pos p lane =>
          refine .inl ⟨cFe, selOf p % 256, selOf p / 256 % 4 + pos * 16, lane, 0, ?_⟩
          unfold frame; rw [hr]; simp [hl, hd, hq]
        | ecc lane =>
          refine .inl ⟨cEcc, 0, 0, lane, 0, ?_⟩
          unfold frame; rw [hr]; simp [hl, hd, hq]
      · exact .inl ⟨_, _, _, _, _, frame_undeclared hr hl (by simpa using hd)⟩
    · exact .inl ⟨_, _, _, _, _, frame_illegal hr hl⟩

/-- A per-thread instruction writes its registers and moves on. -/
theorem perThread_go {len : Nat} {f : Cx → Nat → Regs → Regs} (h : Able s k w op x) :
    perThread op x len s f = (cx s k w op x).done len ((cx s k w op x).each (f (cx s k w op x))) := frame_go h

/-- The next state of an instruction that ends with new registers. -/
theorem Cx.done_eq (c : Cx) (len : Nat) (r : Regs) :
    c.done len r = .next (c.s.setWarp c.k { c.w with r := { r.written c.m c.op c.x with pc := (r.written c.m c.op c.x).pc + BitVec.ofNat 64 len } }) := rfl

/-! ### The spill area (R371) -/

variable {n : Nat} {l : List SEntry}

/-- A stack that the hardware holds spills nothing. -/
theorem State.spillOut_short (h : l.length ≤ 32) : s.spillOut k w n l = s := by
  simp [State.spillOut, spilledEntries, List.drop_eq_nil_of_le h]

/-- Spilling changes the vault and its poison alone. -/
theorem State.spillOut_eq : ∃ v e, s.spillOut k w n l = { s with vault := v, eccVault := e } := by
  unfold State.spillOut
  generalize s.spillSlot k w = a
  generalize (spilledEntries l).zipIdx.drop (n - 32) = ps
  induction ps generalizing s with
  | nil => exact ⟨s.vault, s.eccVault, rfl⟩
  | cons p ps ih =>
    obtain ⟨v, e, h⟩ := @ih (s.spillEntry (a p.2) p.1)
    exact ⟨v, e, by rw [List.foldl_cons, h, State.spillEntry]⟩

/-- No entry is read back from the spill area while the hardware holds the stack. -/
@[simp] theorem State.spillBad_zero {lo : Nat} : s.spillBad k w lo 0 = false := rfl

end Sys2Proof.Machine
end

