-- ==== Sys2Proof/Laws/Writes.lean ====
section
/-! SUPPORT. Which registers a write to a destination changes: one lemma per kind of destination, and their sum over
the threads that take part. -/

namespace Sys2Proof.Machine

/-- In thread l only the registers of ws read differently, and every other register of the warp is the same. -/
def LaneOnly (nS : Nat) (ws : List (File × Nat)) (l : Nat) (r t : Regs) : Prop :=
  (∀ n l', l' < 128 → ¬ ((File.v, n) ∈ ws ∧ l' = l) → t.getV n l' = r.getV n l') ∧
  (∀ n l', l' < 128 → ¬ ((File.f, n) ∈ ws ∧ l' = l) → t.getF n l' = r.getF n l') ∧
  (∀ n l', l' < 128 → ¬ ((File.p, n) ∈ ws ∧ l' = l) → t.getP n l' = r.getP n l') ∧
  (∀ n, (∀ i, (File.s, i) ∈ ws → sWord nS i ≠ sWord nS n) → t.getS nS n = r.getS nS n) ∧
  RestKept r t ∧ t.pc = r.pc

theorem LaneOnly.refl (nS ws l r) : LaneOnly nS ws l r r := by
  refine ⟨fun _ _ _ _ => rfl, fun _ _ _ _ => rfl, fun _ _ _ _ => rfl, fun _ _ => rfl, ?_, rfl⟩
  simp [RestKept]

theorem LaneOnly.trans {nS ws l r t u} (a : LaneOnly nS ws l r t) (b : LaneOnly nS ws l t u) : LaneOnly nS ws l r u := by
  obtain ⟨a1,a2,a3,a4,a5,a6⟩ := a
  obtain ⟨b1,b2,b3,b4,b5,b6⟩ := b
  refine ⟨fun n l' h h' => (b1 n l' h h').trans (a1 n l' h h'), fun n l' h h' => (b2 n l' h h').trans (a2 n l' h h'),
    fun n l' h h' => (b3 n l' h h').trans (a3 n l' h h'), fun n h => (b4 n h).trans (a4 n h), ?_, b6.trans a6⟩
  simp only [RestKept] at *
  simp [a5, b5]

theorem LaneOnly.setV {nS ws l} (r : Regs) (n : Nat) (x : Word) (hl : l < 128) (h : (File.v, n) ∈ ws) : LaneOnly nS ws l r (r.setV n l x) := by
  refine ⟨fun n' l' h' hn => ?_, fun _ _ _ _ => rfl, fun _ _ _ _ => rfl, fun _ _ => rfl, ?_, rfl⟩
  · apply Regs.getV_setV_ne
    intro e
    obtain ⟨rfl, rfl⟩ := regKey_inj h' hl e
    exact hn ⟨h, rfl⟩
  · simp [RestKept]

theorem LaneOnly.setF {nS ws l} (r : Regs) (n : Nat) (x : FReg) (hl : l < 128) (h : (File.f, n) ∈ ws) : LaneOnly nS ws l r (r.setF n l x) := by
  refine ⟨fun _ _ _ _ => rfl, fun n' l' h' hn => ?_, fun _ _ _ _ => rfl, fun _ _ => rfl, ?_, rfl⟩
  · apply Regs.getF_setF_ne
    intro e
    obtain ⟨rfl, rfl⟩ := regKey_inj h' hl e
    exact hn ⟨h, rfl⟩
  · simp [RestKept]

theorem LaneOnly.setP {nS ws l} (r : Regs) (n : Nat) (x : Tri) (hl : l < 128) (h : (File.p, n) ∈ ws) : LaneOnly nS ws l r (r.setP n l x) := by
  by_cases hn15 : n = 15
  · subst hn15; exact LaneOnly.refl _ _ _ _
  · refine ⟨fun _ _ _ _ => by simp [Regs.getV], fun _ _ _ _ => by simp [Regs.getF], fun n' l' h' hn => ?_, fun _ _ => by simp [Regs.getS], ?_, by simp⟩
    · unfold Regs.getP Regs.setP
      simp only [hn15, if_false]
      split
      · rfl
      · apply Store.get_put_ne
        intro e
        obtain ⟨rfl, rfl⟩ := regKey_inj h' hl e
        exact hn ⟨h, rfl⟩
    · simp [RestKept]

theorem LaneOnly.setS {nS ws l} (r : Regs) (n : Nat) (x : Word) (h : (File.s, n) ∈ ws) : LaneOnly nS ws l r (r.setS nS n x) := by
  refine ⟨fun _ _ _ _ => rfl, fun _ _ _ _ => rfl, fun _ _ _ _ => rfl, fun n' hn => ?_, ?_, rfl⟩
  · apply Regs.getS_setS_ne
    intro e; exact hn n h e.symm
  · simp [RestKept]

theorem putInt_only (c : Cx) {ws l} (n : Nat) (d : Sel) (v : DWord) (r : Regs) (hl : l < 128) (hn : n = 1 ∨ n = 2)
    (hv : ∀ k i, d = .reg k → i < n → (File.v, k.toNat + i) ∈ ws) (hs : ∀ k i, d = .s k → i < n → (File.s, k.val + i) ∈ ws) :
    LaneOnly c.nS ws l r (c.putInt n l d v r) := by
  unfold Cx.putInt
  split
  · rename_i k
    have h0 := hv k 0 rfl (by omega)
    simp only [Nat.add_zero] at h0
    split
    · exact (LaneOnly.setV _ _ _ hl h0).trans (LaneOnly.setV _ _ _ hl (hv k 1 rfl (by omega)))
    · exact LaneOnly.setV _ _ _ hl h0
  · rename_i k
    have h0 := hs k 0 rfl (by omega)
    simp only [Nat.add_zero] at h0
    split
    · exact (LaneOnly.setS _ _ _ h0).trans (LaneOnly.setS _ _ _ (hs k 1 rfl (by omega)))
    · exact LaneOnly.setS _ _ _ h0
  · exact LaneOnly.refl _ _ _ _

theorem putF_only {nS ws l} (d : Sel) (v : Raw) (r : Regs) (hl : l < 128) (hv : ∀ k, d = .reg k → (File.f, k.toNat) ∈ ws) :
    LaneOnly nS ws l r (putF l d v r) := by
  unfold putF; split
  · exact LaneOnly.setF _ _ _ hl (hv _ rfl)
  · exact LaneOnly.refl _ _ _ _

theorem putD_only {nS ws l} (d : Sel) (v : Raw) (r : Regs) (hl : l < 128) (hv : ∀ k, d = .reg k → (File.f, k.toNat) ∈ ws)
    (hv' : ∀ k, d = .reg k → (File.f, k.toNat + 1) ∈ ws) : LaneOnly nS ws l r (putD l d v r) := by
  unfold putD; split
  · exact (LaneOnly.setF _ _ _ hl (hv _ rfl)).trans (LaneOnly.setF _ _ _ hl (hv' _ rfl))
  · exact LaneOnly.refl _ _ _ _

theorem putP_only {nS ws l} (d : Sel) (v : Tri) (r : Regs) (hl : l < 128) (hv : ∀ k, d = .p k → (File.p, k.toNat) ∈ ws) :
    LaneOnly nS ws l r (putP l d v r) := by
  unfold putP; split
  · exact LaneOnly.setP _ _ _ hl (hv _ rfl)
  · exact LaneOnly.refl _ _ _ _

theorem putE_only {nS ws l} (d : Sel2) (v : Tri) (r : Regs) (hl : l < 128) (hv : ∀ k, d = .p k → (File.p, k.toNat) ∈ ws) :
    LaneOnly nS ws l r (putE l d v r) := by
  unfold putE; split
  · exact LaneOnly.setP _ _ _ hl (hv _ rfl)
  · exact LaneOnly.refl _ _ _ _

theorem putRow_only (c : Cx) {ws l} (vs : List Iv) (e : Tri) (r : Regs) (hl : l < 128)
    (hf : ∀ k i, c.x.d = .reg k → i < vs.length → (File.f, k.toNat + i) ∈ ws) (he : ∀ k, c.x.e = .p k → (File.p, k.toNat) ∈ ws) :
    LaneOnly c.nS ws l r (c.putRow l vs e r) := by
  unfold Cx.putRow
  split
  · rename_i k hk
    refine LaneOnly.trans ?_ (putE_only _ _ _ hl he)
    have key : ∀ (is : List Nat) (r : Regs), (∀ i ∈ is, i < vs.length) → LaneOnly c.nS ws l r
        (is.foldl (fun r i => r.setF (k.toNat + i) l (FReg.ofRaw (((vs.getD i .nai).flush .fp32 c.x.fzo).write .fp32))) r) := by
      intro is
      induction is with
      | nil => intro r _; exact LaneOnly.refl _ _ _ _
      | cons i is ih =>
        intro r hi
        exact (LaneOnly.setF _ _ _ hl (hf k i hk (hi i (by simp)))).trans (ih _ fun j hj => hi j (by simp [hj]))
    exact key _ _ fun i hi => List.mem_range.mp hi
  · exact LaneOnly.refl _ _ _ _

theorem lanesOf_lt {m : Mask} {l : Nat} (h : l ∈ lanesOf m) : l < 128 := by
  unfold lanesOf at h; simp at h; exact h.1
theorem lanesOf_mem {m : Mask} {l : Nat} (h : l ∈ lanesOf m) : m.getLsbD l = true := by
  unfold lanesOf at h; simp at h; exact h.2

/-- Lane by lane. -/
theorem fold_only {nS ws} (m : Mask) (f : Nat → Regs → Regs) (r : Regs)
    (h : ∀ l, l ∈ lanesOf m → ∀ r, LaneOnly nS ws l r (f l r)) :
    OnlyWrites nS ws m r ((lanesOf m).foldl (fun r l => f l r) r) ∧ RestKept r ((lanesOf m).foldl (fun r l => f l r) r) ∧
      ((lanesOf m).foldl (fun r l => f l r) r).pc = r.pc := by
  have key : ∀ (ls : List Nat) (r : Regs), (∀ l ∈ ls, l ∈ lanesOf m) →
      OnlyWrites nS ws m r (ls.foldl (fun r l => f l r) r) ∧ RestKept r (ls.foldl (fun r l => f l r) r) ∧ (ls.foldl (fun r l => f l r) r).pc = r.pc := by
    intro ls
    induction ls with
    | nil => intro r _; exact ⟨⟨fun _ _ _ _ => rfl, fun _ _ _ _ => rfl, fun _ _ _ _ => rfl, fun _ _ => rfl⟩, by simp [RestKept], rfl⟩
    | cons l ls ih =>
      intro r hl
      obtain ⟨a1,a2,a3,a4,a5,a6⟩ := h l (hl l (by simp)) r
      obtain ⟨⟨b1,b2,b3,b4⟩,b5,b6⟩ := ih (f l r) (fun j hj => hl j (by simp [hj]))
      have hm := lanesOf_mem (hl l (by simp))
      refine ⟨⟨?_, ?_, ?_, ?_⟩, ?_, b6.trans a6⟩
      · intro n l' hl' hn; exact (b1 n l' hl' hn).trans (a1 n l' hl' fun ⟨p, q⟩ => hn ⟨p, q ▸ hm⟩)
      · intro n l' hl' hn; exact (b2 n l' hl' hn).trans (a2 n l' hl' fun ⟨p, q⟩ => hn ⟨p, q ▸ hm⟩)
      · intro n l' hl' hn; exact (b3 n l' hl' hn).trans (a3 n l' hl' fun ⟨p, q⟩ => hn ⟨p, q ▸ hm⟩)
      · intro n hn; exact (b4 n hn).trans (a4 n hn)
      · simp only [RestKept, List.foldl_cons] at *; simp [a5, b5]
  exact key _ _ fun l hl => hl

theorem tyN_12 (t) : tyN t = 1 ∨ tyN t = 2 := by unfold tyN; split <;> simp

theorem dst_int {op x} {n : Nat} (al : Nat) (h : (sig op x).d = .v n al ∨ (sig op x).d = .vs n al) :
  (∀ k i, x.d = .reg k → i < n → (File.v, k.toNat + i) ∈ writesOf op x) ∧ (∀ k i, x.d = .s k → i < n → (File.s, k.val + i) ∈ writesOf op x) := by
  constructor <;> intro k i hk hi <;> rcases h with h | h <;> simp [writesOf, h, hk, PK.regs, hi]

theorem int_put (c : Cx) (op : Op) (n al : Nat) (l : Nat) (v : DWord) (r : Regs) (hl : l < 128) (hn : n = 1 ∨ n = 2)
    (hd : (sig op c.x).d = .v n al ∨ (sig op c.x).d = .vs n al) : LaneOnly c.nS (writesOf op c.x) l r (c.putInt n l c.x.d v r) := by
  obtain ⟨a, b⟩ := dst_int al hd
  exact putInt_only c _ _ _ _ hl hn a b

/-- One word where the position holds at least one. -/
theorem int_put_one (c : Cx) (op : Op) (n al : Nat) (l : Nat) (v : DWord) (r : Regs) (hl : l < 128) (hn : 0 < n)
    (hd : (sig op c.x).d = .v n al ∨ (sig op c.x).d = .vs n al) : LaneOnly c.nS (writesOf op c.x) l r (c.putInt 1 l c.x.d v r) := by
  obtain ⟨a, b⟩ := dst_int al hd
  exact putInt_only c _ _ _ _ hl (.inl rfl) (fun k i h hi => a k i h (by omega)) fun k i h hi => b k i h (by omega)

theorem tyN_pos (t : Nat) : 0 < tyN t := by unfold tyN; split <;> simp

theorem flt_putF {nS : Nat} {op : Op} {x : Ext} {n al : Nat} (l : Nat) (v : Raw) (r : Regs) (hl : l < 128) (hn : 0 < n)
    (hd : (sig op x).d = .f n al) : LaneOnly nS (writesOf op x) l r (putF l x.d v r) := by
  refine putF_only _ _ _ hl fun k hk => ?_
  simp only [writesOf, hd, hk, PK.regs, List.mem_append, List.mem_map, List.mem_range]
  exact .inl (.inl (.inl ⟨0, hn, rfl⟩))

theorem flt_putD {nS : Nat} {op : Op} {x : Ext} {al : Nat} (l : Nat) (v : Raw) (r : Regs) (hl : l < 128)
    (hd : (sig op x).d = .f 2 al) : LaneOnly nS (writesOf op x) l r (putD l x.d v r) := by
  refine putD_only _ _ _ hl (fun k hk => ?_) (fun k hk => ?_) <;>
    simp only [writesOf, hd, hk, PK.regs, List.mem_append, List.mem_map, List.mem_range]
  · exact .inl (.inl (.inl ⟨0, by omega, rfl⟩))
  · exact .inl (.inl (.inl ⟨1, by omega, rfl⟩))

theorem pred_putP {nS : Nat} {op : Op} {x : Ext} (l : Nat) (v : Tri) (r : Regs) (hl : l < 128)
    (hd : (sig op x).d = .pred) : LaneOnly nS (writesOf op x) l r (putP l x.d v r) := by
  refine putP_only _ _ _ hl fun k hk => ?_
  simp [writesOf, hd, hk, PK.regs]

theorem pred_putE {nS : Nat} {op : Op} {x : Ext} (l : Nat) (v : Tri) (r : Regs) (hl : l < 128)
    (he : (sig op x).e = .pred ∨ (sig op x).e = .predOpt) : LaneOnly nS (writesOf op x) l r (putE l x.e v r) := by
  refine putE_only _ _ _ hl fun k hk => ?_
  rcases he with he | he <;> simp [writesOf, he, hk, EK.regs]

/-- A row of results in F D, F D + 1, … and the predicate E. -/
theorem row_put (c : Cx) (op : Op) {n al : Nat} (l : Nat) (vs : List Iv) (e : Tri) (r : Regs) (hl : l < 128) (hn : vs.length ≤ n)
    (hd : (sig op c.x).d = .f n al) (he : (sig op c.x).e = .pred) : LaneOnly c.nS (writesOf op c.x) l r (c.putRow l vs e r) := by
  refine putRow_only c vs e r hl (fun k i hk hi => ?_) fun k hk => ?_
  · simp only [writesOf, hd, hk, PK.regs, List.mem_append, List.mem_map, List.mem_range]
    exact .inl (.inl (.inl ⟨i, by omega, rfl⟩))
  · simp [writesOf, he, hk, EK.regs]

end Sys2Proof.Machine
end

