-- ==== Sys2Proof/Laws/Lanes.lean ====
section
/-! SUPPORT. What each per-thread instruction writes in one thread: the destinations its signature names, and nothing
else. -/

namespace Sys2Proof.Machine
theorem iadd_only (c : Cx) (l : Nat) (r : Regs) (hl : l < 128) : LaneOnly c.nS (writesOf .iadd c.x) l r ((aluInt true (· + ·)) c l r) := by
  simp only [aluInt]
  exact int_put c .iadd (tyN c.x.ty) (tyN c.x.ty) l _ r hl (tyN_12 _) (.inl rfl)
theorem isub_only (c : Cx) (l : Nat) (r : Regs) (hl : l < 128) : LaneOnly c.nS (writesOf .isub c.x) l r ((aluInt true (· - ·)) c l r) := by
  simp only [aluInt]
  exact int_put c .isub (tyN c.x.ty) (tyN c.x.ty) l _ r hl (tyN_12 _) (.inl rfl)
theorem imul_only (c : Cx) (l : Nat) (r : Regs) (hl : l < 128) : LaneOnly c.nS (writesOf .imul c.x) l r ((aluInt true (· * ·)) c l r) := by
  simp only [aluInt]
  exact int_put c .imul (tyN c.x.ty) (tyN c.x.ty) l _ r hl (tyN_12 _) (.inl rfl)
theorem imulh_only (c : Cx) (l : Nat) (r : Regs) (hl : l < 128) : LaneOnly c.nS (writesOf .imulh c.x) l r (aluMulh c l r) := by
  simp only [aluMulh, aluInt]
  exact int_put c .imulh (tyN c.x.ty) (tyN c.x.ty) l _ r hl (tyN_12 _) (.inl rfl)
theorem imad_only (c : Cx) (l : Nat) (r : Regs) (hl : l < 128) : LaneOnly c.nS (writesOf .imad c.x) l r (aluMad c l r) := by
  simp only [aluMad]
  exact int_put c .imad (tyN c.x.ty) (tyN c.x.ty) l _ r hl (tyN_12 _) (.inl rfl)
theorem imin_only (c : Cx) (l : Nat) (r : Regs) (hl : l < 128) : LaneOnly c.nS (writesOf .imin c.x) l r ((aluInt false min) c l r) := by
  simp only [aluInt]
  exact int_put c .imin (tyN c.x.ty) (tyN c.x.ty) l _ r hl (tyN_12 _) (.inl rfl)
theorem imax_only (c : Cx) (l : Nat) (r : Regs) (hl : l < 128) : LaneOnly c.nS (writesOf .imax c.x) l r ((aluInt false max) c l r) := by
  simp only [aluInt]
  exact int_put c .imax (tyN c.x.ty) (tyN c.x.ty) l _ r hl (tyN_12 _) (.inl rfl)
theorem iabs_only (c : Cx) (l : Nat) (r : Regs) (hl : l < 128) : LaneOnly c.nS (writesOf .iabs c.x) l r (aluAbs c l r) := by
  simp only [aluAbs]
  exact int_put c .iabs (tyN c.x.ty) (tyN c.x.ty) l _ r hl (tyN_12 _) (.inl rfl)
theorem iand_only (c : Cx) (l : Nat) (r : Regs) (hl : l < 128) : LaneOnly c.nS (writesOf .iand c.x) l r ((aluBits fun _ a b => a &&& b) c l r) := by
  simp only [aluBits]
  exact int_put c .iand (tyN c.x.ty) (tyN c.x.ty) l _ r hl (tyN_12 _) (.inl rfl)
theorem ior_only (c : Cx) (l : Nat) (r : Regs) (hl : l < 128) : LaneOnly c.nS (writesOf .ior c.x) l r ((aluBits fun _ a b => a ||| b) c l r) := by
  simp only [aluBits]
  exact int_put c .ior (tyN c.x.ty) (tyN c.x.ty) l _ r hl (tyN_12 _) (.inl rfl)
theorem ixor_only (c : Cx) (l : Nat) (r : Regs) (hl : l < 128) : LaneOnly c.nS (writesOf .ixor c.x) l r ((aluBits fun _ a b => a ^^^ b) c l r) := by
  simp only [aluBits]
  exact int_put c .ixor (tyN c.x.ty) (tyN c.x.ty) l _ r hl (tyN_12 _) (.inl rfl)
theorem inot_only (c : Cx) (l : Nat) (r : Regs) (hl : l < 128) : LaneOnly c.nS (writesOf .inot c.x) l r ((aluBits fun w a _ => 2 ^ w - 1 - a) c l r) := by
  simp only [aluBits]
  exact int_put c .inot (tyN c.x.ty) (tyN c.x.ty) l _ r hl (tyN_12 _) (.inl rfl)
theorem shl_only (c : Cx) (l : Nat) (r : Regs) (hl : l < 128) : LaneOnly c.nS (writesOf .shl c.x) l r ((aluShift shl) c l r) := by
  simp only [aluShift]
  exact int_put c .shl (tyN c.x.ty) (tyN c.x.ty) l _ r hl (tyN_12 _) (.inl rfl)
theorem shr_only (c : Cx) (l : Nat) (r : Regs) (hl : l < 128) : LaneOnly c.nS (writesOf .shr c.x) l r ((aluShift shr) c l r) := by
  simp only [aluShift]
  exact int_put c .shr (tyN c.x.ty) (tyN c.x.ty) l _ r hl (tyN_12 _) (.inl rfl)
theorem sar_only (c : Cx) (l : Nat) (r : Regs) (hl : l < 128) : LaneOnly c.nS (writesOf .sar c.x) l r ((aluShift sar) c l r) := by
  simp only [aluShift]
  exact int_put c .sar (tyN c.x.ty) (tyN c.x.ty) l _ r hl (tyN_12 _) (.inl rfl)
theorem rot_only (c : Cx) (l : Nat) (r : Regs) (hl : l < 128) : LaneOnly c.nS (writesOf .rot c.x) l r ((aluShift rot) c l r) := by
  simp only [aluShift]
  exact int_put c .rot (tyN c.x.ty) (tyN c.x.ty) l _ r hl (tyN_12 _) (.inl rfl)
theorem bfx_only (c : Cx) (l : Nat) (r : Regs) (hl : l < 128) : LaneOnly c.nS (writesOf .bfx c.x) l r (aluBfx c l r) := by
  simp only [aluBfx]
  exact int_put c .bfx (tyN c.x.ty) (tyN c.x.ty) l _ r hl (tyN_12 _) (.inl rfl)
theorem bfi_only (c : Cx) (l : Nat) (r : Regs) (hl : l < 128) : LaneOnly c.nS (writesOf .bfi c.x) l r (aluBfi c l r) := by
  simp only [aluBfi]
  exact int_put c .bfi (tyN c.x.ty) (tyN c.x.ty) l _ r hl (tyN_12 _) (.inl rfl)
theorem brev_only (c : Cx) (l : Nat) (r : Regs) (hl : l < 128) : LaneOnly c.nS (writesOf .brev c.x) l r ((aluBits fun w a _ => bitRev w a) c l r) := by
  simp only [aluBits]
  exact int_put c .brev (tyN c.x.ty) (tyN c.x.ty) l _ r hl (tyN_12 _) (.inl rfl)
theorem mov_only (c : Cx) (l : Nat) (r : Regs) (hl : l < 128) : LaneOnly c.nS (writesOf .mov c.x) l r (movInt c l r) := by
  simp only [movInt]
  exact int_put c .mov (tyN c.x.ty) (tyN c.x.ty) l _ r hl (tyN_12 _) (.inl rfl)
theorem movl_only (c : Cx) (l : Nat) (r : Regs) (hl : l < 128) : LaneOnly c.nS (writesOf .movl c.x) l r (movLit c l r) := by
  simp only [movLit]
  exact int_put c .movl (tyN c.x.ty) (tyN c.x.ty) l _ r hl (tyN_12 _) (.inl rfl)
theorem sel_only (c : Cx) (l : Nat) (r : Regs) (hl : l < 128) : LaneOnly c.nS (writesOf .sel c.x) l r (selInt c l r) := by
  simp only [selInt]
  exact int_put c .sel (tyN c.x.ty) (tyN c.x.ty) l _ r hl (tyN_12 _) (.inl rfl)
theorem cvti_only (c : Cx) (l : Nat) (r : Regs) (hl : l < 128) : LaneOnly c.nS (writesOf .cvti c.x) l r (cvti c l r) := by
  simp only [cvti]
  exact int_put c .cvti (tyN c.x.ty) (tyN c.x.ty) l _ r hl (tyN_12 _) (.inl rfl)
theorem popc_only (c : Cx) (l : Nat) (r : Regs) (hl : l < 128) : LaneOnly c.nS (writesOf .popc c.x) l r ((aluCount popCount) c l r) := by
  simp only [aluCount]
  exact int_put c .popc (1) (1) l _ r hl (.inl rfl) (.inl rfl)
theorem clz_only (c : Cx) (l : Nat) (r : Regs) (hl : l < 128) : LaneOnly c.nS (writesOf .clz c.x) l r ((aluCount leadZeros) c l r) := by
  simp only [aluCount]
  exact int_put c .clz (1) (1) l _ r hl (.inl rfl) (.inl rfl)
theorem idot4_only (c : Cx) (l : Nat) (r : Regs) (hl : l < 128) : LaneOnly c.nS (writesOf .idot4 c.x) l r (idot4 c l r) := by
  simp only [idot4]
  exact int_put_one c .idot4 _ _ l _ r hl (tyN_pos _) (.inl rfl)
theorem icmp_only (c : Cx) (l : Nat) (r : Regs) (hl : l < 128) : LaneOnly c.nS (writesOf .icmp c.x) l r (icmp c l r) := by
  simp only [icmp]
  exact pred_putP l _ r hl rfl
theorem plop_only (c : Cx) (l : Nat) (r : Regs) (hl : l < 128) : LaneOnly c.nS (writesOf .plop c.x) l r (plopD c l r) := by
  simp only [plopD]
  exact pred_putP l _ r hl rfl
theorem fcmp_only (c : Cx) (l : Nat) (r : Regs) (hl : l < 128) : LaneOnly c.nS (writesOf .fcmp c.x) l r ((fltCmp .fp32) c l r) := by
  simp only [fltCmp]
  exact pred_putP l _ r hl rfl
theorem dcmp_only (c : Cx) (l : Nat) (r : Regs) (hl : l < 128) : LaneOnly c.nS (writesOf .dcmp c.x) l r ((fltCmp .fp64) c l r) := by
  simp only [fltCmp]
  exact pred_putP l _ r hl rfl
theorem fset_only (c : Cx) (l : Nat) (r : Regs) (hl : l < 128) : LaneOnly c.nS (writesOf .fset c.x) l r (fltTest c l r) := by
  simp only [fltTest]
  exact pred_putP l _ r hl rfl
theorem fadd_only (c : Cx) (l : Nat) (r : Regs) (hl : l < 128) : LaneOnly c.nS (writesOf .fadd c.x) l r ((flt2 .fp32 (Iv.add .fp32) (Pt.addP .fp32)) c l r) := by
  simp only [flt2, Cx.outPt, Cx.outIv, putRaw, if_true, reduceCtorEq, if_false]
  (try split) <;> exact flt_putF l _ r hl (by omega) rfl
theorem fsub_only (c : Cx) (l : Nat) (r : Regs) (hl : l < 128) : LaneOnly c.nS (writesOf .fsub c.x) l r ((flt2 .fp32 (Iv.sub .fp32) (fun x y => Pt.addP .fp32 x y.flip)) c l r) := by
  simp only [flt2, Cx.outPt, Cx.outIv, putRaw, if_true, reduceCtorEq, if_false]
  (try split) <;> exact flt_putF l _ r hl (by omega) rfl
theorem fmul_only (c : Cx) (l : Nat) (r : Regs) (hl : l < 128) : LaneOnly c.nS (writesOf .fmul c.x) l r ((flt2 .fp32 (Iv.mul .fp32) (fun x y => Pt.fmaP .fp32 x y none)) c l r) := by
  simp only [flt2, Cx.outPt, Cx.outIv, putRaw, if_true, reduceCtorEq, if_false]
  (try split) <;> exact flt_putF l _ r hl (by omega) rfl
theorem ffma_only (c : Cx) (l : Nat) (r : Regs) (hl : l < 128) : LaneOnly c.nS (writesOf .ffma c.x) l r ((fltFma .fp32) c l r) := by
  simp only [fltFma, Cx.outPt, Cx.outIv, putRaw, if_true, reduceCtorEq, if_false]
  (try split) <;> exact flt_putF l _ r hl (by omega) rfl
theorem fdiv_only (c : Cx) (l : Nat) (r : Regs) (hl : l < 128) : LaneOnly c.nS (writesOf .fdiv c.x) l r ((flt2 .fp32 (Iv.div .fp32) (Pt.divP .fp32)) c l r) := by
  simp only [flt2, Cx.outPt, Cx.outIv, putRaw, if_true, reduceCtorEq, if_false]
  (try split) <;> exact flt_putF l _ r hl (by omega) rfl
theorem fsqrt_only (c : Cx) (l : Nat) (r : Regs) (hl : l < 128) : LaneOnly c.nS (writesOf .fsqrt c.x) l r ((flt1 .fp32 (Iv.sqrt .fp32) (Pt.sqrtP .fp32)) c l r) := by
  simp only [flt1, Cx.outPt, Cx.outIv, putRaw, if_true, reduceCtorEq, if_false]
  (try split) <;> exact flt_putF l _ r hl (by omega) rfl
theorem fsqr_only (c : Cx) (l : Nat) (r : Regs) (hl : l < 128) : LaneOnly c.nS (writesOf .fsqr c.x) l r ((flt1 .fp32 (Iv.sqr .fp32) (fun x => Pt.fmaP .fp32 x x none)) c l r) := by
  simp only [flt1, Cx.outPt, Cx.outIv, putRaw, if_true, reduceCtorEq, if_false]
  (try split) <;> exact flt_putF l _ r hl (by omega) rfl
theorem frcp_only (c : Cx) (l : Nat) (r : Regs) (hl : l < 128) : LaneOnly c.nS (writesOf .frcp c.x) l r ((flt1 .fp32 (Iv.rcp .fp32) (fun x => Pt.divP .fp32 (Pt.one .fp32) x)) c l r) := by
  simp only [flt1, Cx.outPt, Cx.outIv, putRaw, if_true, reduceCtorEq, if_false]
  (try split) <;> exact flt_putF l _ r hl (by omega) rfl
theorem frsqrt_only (c : Cx) (l : Nat) (r : Regs) (hl : l < 128) : LaneOnly c.nS (writesOf .frsqrt c.x) l r ((flt1 .fp32 (Iv.rsqrt .fp32) (Pt.rsqrtP .fp32)) c l r) := by
  simp only [flt1, Cx.outPt, Cx.outIv, putRaw, if_true, reduceCtorEq, if_false]
  (try split) <;> exact flt_putF l _ r hl (by omega) rfl
theorem fabs_only (c : Cx) (l : Nat) (r : Regs) (hl : l < 128) : LaneOnly c.nS (writesOf .fabs c.x) l r ((fltSet1 Iv.abs) c l r) := by
  simp only [fltSet1, Cx.outPt, Cx.outIv, putRaw, if_true, reduceCtorEq, if_false]
  (try split) <;> exact flt_putF l _ r hl (by omega) rfl
theorem fneg_only (c : Cx) (l : Nat) (r : Regs) (hl : l < 128) : LaneOnly c.nS (writesOf .fneg c.x) l r ((fltSet1 Iv.neg) c l r) := by
  simp only [fltSet1, Cx.outPt, Cx.outIv, putRaw, if_true, reduceCtorEq, if_false]
  (try split) <;> exact flt_putF l _ r hl (by omega) rfl
theorem fmin_only (c : Cx) (l : Nat) (r : Regs) (hl : l < 128) : LaneOnly c.nS (writesOf .fmin c.x) l r ((fltSet2 Iv.imin) c l r) := by
  simp only [fltSet2, Cx.outPt, Cx.outIv, putRaw, if_true, reduceCtorEq, if_false]
  (try split) <;> exact flt_putF l _ r hl (by omega) rfl
theorem fmax_only (c : Cx) (l : Nat) (r : Regs) (hl : l < 128) : LaneOnly c.nS (writesOf .fmax c.x) l r ((fltSet2 Iv.imax) c l r) := by
  simp only [fltSet2, Cx.outPt, Cx.outIv, putRaw, if_true, reduceCtorEq, if_false]
  (try split) <;> exact flt_putF l _ r hl (by omega) rfl
theorem fhull_only (c : Cx) (l : Nat) (r : Regs) (hl : l < 128) : LaneOnly c.nS (writesOf .fhull c.x) l r ((fltSet2 Iv.hull) c l r) := by
  simp only [fltSet2, Cx.outPt, Cx.outIv, putRaw, if_true, reduceCtorEq, if_false]
  (try split) <;> exact flt_putF l _ r hl (by omega) rfl
theorem fisect_only (c : Cx) (l : Nat) (r : Regs) (hl : l < 128) : LaneOnly c.nS (writesOf .fisect c.x) l r ((fltSet2 Iv.isect) c l r) := by
  simp only [fltSet2, Cx.outPt, Cx.outIv, putRaw, if_true, reduceCtorEq, if_false]
  (try split) <;> exact flt_putF l _ r hl (by omega) rfl
theorem fmk_only (c : Cx) (l : Nat) (r : Regs) (hl : l < 128) : LaneOnly c.nS (writesOf .fmk c.x) l r ((fltMake) c l r) := by
  simp only [fltMake, Cx.outPt, Cx.outIv, putRaw, if_true, reduceCtorEq, if_false]
  (try split) <;> exact flt_putF l _ r hl (by omega) rfl
theorem flo_only (c : Cx) (l : Nat) (r : Regs) (hl : l < 128) : LaneOnly c.nS (writesOf .flo c.x) l r ((fltBound Raw.lo) c l r) := by
  simp only [fltBound]
  exact int_put c .flo (1) (1) l _ r hl (.inl rfl) (.inl rfl)
theorem fhi_only (c : Cx) (l : Nat) (r : Regs) (hl : l < 128) : LaneOnly c.nS (writesOf .fhi c.x) l r ((fltBound Raw.hi) c l r) := by
  simp only [fltBound]
  exact int_put c .fhi (1) (1) l _ r hl (.inl rfl) (.inl rfl)
theorem fmid_only (c : Cx) (l : Nat) (r : Regs) (hl : l < 128) : LaneOnly c.nS (writesOf .fmid c.x) l r ((fltMeasure (midMeasure .fp32)) c l r) := by
  simp only [fltMeasure, Cx.outPt, Cx.outIv, putRaw, if_true, reduceCtorEq, if_false]
  (try split) <;> exact flt_putF l _ r hl (by omega) rfl
theorem frad_only (c : Cx) (l : Nat) (r : Regs) (hl : l < 128) : LaneOnly c.nS (writesOf .frad c.x) l r ((fltMeasure (widMeasure .fp32 (-1))) c l r) := by
  simp only [fltMeasure, Cx.outPt, Cx.outIv, putRaw, if_true, reduceCtorEq, if_false]
  (try split) <;> exact flt_putF l _ r hl (by omega) rfl
theorem fwid_only (c : Cx) (l : Nat) (r : Regs) (hl : l < 128) : LaneOnly c.nS (writesOf .fwid c.x) l r ((fltMeasure (widMeasure .fp32 0)) c l r) := by
  simp only [fltMeasure, Cx.outPt, Cx.outIv, putRaw, if_true, reduceCtorEq, if_false]
  (try split) <;> exact flt_putF l _ r hl (by omega) rfl
theorem fmig_only (c : Cx) (l : Nat) (r : Regs) (hl : l < 128) : LaneOnly c.nS (writesOf .fmig c.x) l r ((fltMeasure (migMeasure .fp32)) c l r) := by
  simp only [fltMeasure, Cx.outPt, Cx.outIv, putRaw, if_true, reduceCtorEq, if_false]
  (try split) <;> exact flt_putF l _ r hl (by omega) rfl
theorem fmag_only (c : Cx) (l : Nat) (r : Regs) (hl : l < 128) : LaneOnly c.nS (writesOf .fmag c.x) l r ((fltMeasure (magMeasure .fp32)) c l r) := by
  simp only [fltMeasure, Cx.outPt, Cx.outIv, putRaw, if_true, reduceCtorEq, if_false]
  (try split) <;> exact flt_putF l _ r hl (by omega) rfl
theorem fclass_only (c : Cx) (l : Nat) (r : Regs) (hl : l < 128) : LaneOnly c.nS (writesOf .fclass c.x) l r ((fltClass) c l r) := by
  simp only [fltClass]
  exact int_put c .fclass (1) (1) l _ r hl (.inl rfl) (.inl rfl)
theorem fpown_only (c : Cx) (l : Nat) (r : Regs) (hl : l < 128) : LaneOnly c.nS (writesOf .fpown c.x) l r ((fltInt (Iv.pown .fp32) (Pt.pownP .fp32)) c l r) := by
  simp only [fltInt, Cx.outPt, Cx.outIv, putRaw, if_true, reduceCtorEq, if_false]
  (try split) <;> exact flt_putF l _ r hl (by omega) rfl
theorem fldexp_only (c : Cx) (l : Nat) (r : Regs) (hl : l < 128) : LaneOnly c.nS (writesOf .fldexp c.x) l r ((fltInt (Iv.ldexp .fp32) (Pt.ldexpP .fp32)) c l r) := by
  simp only [fltInt, Cx.outPt, Cx.outIv, putRaw, if_true, reduceCtorEq, if_false]
  (try split) <;> exact flt_putF l _ r hl (by omega) rfl
theorem fmov_only (c : Cx) (l : Nat) (r : Regs) (hl : l < 128) : LaneOnly c.nS (writesOf .fmov c.x) l r ((fltMove) c l r) := by
  simp only [fltMove, Cx.outPt, Cx.outIv, putRaw, if_true, reduceCtorEq, if_false]
  (try split) <;> exact flt_putF l _ r hl (by omega) rfl
theorem fsel_only (c : Cx) (l : Nat) (r : Regs) (hl : l < 128) : LaneOnly c.nS (writesOf .fsel c.x) l r ((fltSelect) c l r) := by
  simp only [fltSelect, Cx.outPt, Cx.outIv, putRaw, if_true, reduceCtorEq, if_false]
  (try split) <;> exact flt_putF l _ r hl (by omega) rfl
theorem fmovl_only (c : Cx) (l : Nat) (r : Regs) (hl : l < 128) : LaneOnly c.nS (writesOf .fmovl c.x) l r ((fltLit) c l r) := by
  simp only [fltLit, Cx.outPt, Cx.outIv, putRaw, if_true, reduceCtorEq, if_false]
  (try split) <;> exact flt_putF l _ r hl (by omega) rfl
theorem dadd_only (c : Cx) (l : Nat) (r : Regs) (hl : l < 128) : LaneOnly c.nS (writesOf .dadd c.x) l r ((flt2 .fp64 (Iv.add .fp64) (Pt.addP .fp64)) c l r) := by
  simp only [flt2, Cx.outPt, Cx.outIv, putRaw, if_true, reduceCtorEq, if_false]
  (try split) <;> exact flt_putD l _ r hl rfl
theorem dsub_only (c : Cx) (l : Nat) (r : Regs) (hl : l < 128) : LaneOnly c.nS (writesOf .dsub c.x) l r ((flt2 .fp64 (Iv.sub .fp64) (fun x y => Pt.addP .fp64 x y.flip)) c l r) := by
  simp only [flt2, Cx.outPt, Cx.outIv, putRaw, if_true, reduceCtorEq, if_false]
  (try split) <;> exact flt_putD l _ r hl rfl
theorem dmul_only (c : Cx) (l : Nat) (r : Regs) (hl : l < 128) : LaneOnly c.nS (writesOf .dmul c.x) l r ((flt2 .fp64 (Iv.mul .fp64) (fun x y => Pt.fmaP .fp64 x y none)) c l r) := by
  simp only [flt2, Cx.outPt, Cx.outIv, putRaw, if_true, reduceCtorEq, if_false]
  (try split) <;> exact flt_putD l _ r hl rfl
theorem dfma_only (c : Cx) (l : Nat) (r : Regs) (hl : l < 128) : LaneOnly c.nS (writesOf .dfma c.x) l r ((fltFma .fp64) c l r) := by
  simp only [fltFma, Cx.outPt, Cx.outIv, putRaw, if_true, reduceCtorEq, if_false]
  (try split) <;> exact flt_putD l _ r hl rfl
theorem ddiv_only (c : Cx) (l : Nat) (r : Regs) (hl : l < 128) : LaneOnly c.nS (writesOf .ddiv c.x) l r ((flt2 .fp64 (Iv.div .fp64) (Pt.divP .fp64)) c l r) := by
  simp only [flt2, Cx.outPt, Cx.outIv, putRaw, if_true, reduceCtorEq, if_false]
  (try split) <;> exact flt_putD l _ r hl rfl
theorem dsqrt_only (c : Cx) (l : Nat) (r : Regs) (hl : l < 128) : LaneOnly c.nS (writesOf .dsqrt c.x) l r ((flt1 .fp64 (Iv.sqrt .fp64) (Pt.sqrtP .fp64)) c l r) := by
  simp only [flt1, Cx.outPt, Cx.outIv, putRaw, if_true, reduceCtorEq, if_false]
  (try split) <;> exact flt_putD l _ r hl rfl
theorem fexp_only (c : Cx) (l : Nat) (r : Regs) (hl : l < 128) : LaneOnly c.nS (writesOf .fexp c.x) l r ((special .exp) c l r) := by
  simp only [special, Cx.outPt, Cx.outIv, putRaw, if_true, reduceCtorEq, if_false]
  (try split) <;> exact flt_putF l _ r hl (by omega) rfl
theorem fexp2_only (c : Cx) (l : Nat) (r : Regs) (hl : l < 128) : LaneOnly c.nS (writesOf .fexp2 c.x) l r ((special .exp2) c l r) := by
  simp only [special, Cx.outPt, Cx.outIv, putRaw, if_true, reduceCtorEq, if_false]
  (try split) <;> exact flt_putF l _ r hl (by omega) rfl
theorem flog_only (c : Cx) (l : Nat) (r : Regs) (hl : l < 128) : LaneOnly c.nS (writesOf .flog c.x) l r ((special .log) c l r) := by
  simp only [special, Cx.outPt, Cx.outIv, putRaw, if_true, reduceCtorEq, if_false]
  (try split) <;> exact flt_putF l _ r hl (by omega) rfl
theorem flog2_only (c : Cx) (l : Nat) (r : Regs) (hl : l < 128) : LaneOnly c.nS (writesOf .flog2 c.x) l r ((special .log2) c l r) := by
  simp only [special, Cx.outPt, Cx.outIv, putRaw, if_true, reduceCtorEq, if_false]
  (try split) <;> exact flt_putF l _ r hl (by omega) rfl
theorem ftanh_only (c : Cx) (l : Nat) (r : Regs) (hl : l < 128) : LaneOnly c.nS (writesOf .ftanh c.x) l r ((special .tanh) c l r) := by
  simp only [special, Cx.outPt, Cx.outIv, putRaw, if_true, reduceCtorEq, if_false]
  (try split) <;> exact flt_putF l _ r hl (by omega) rfl
theorem fsig_only (c : Cx) (l : Nat) (r : Regs) (hl : l < 128) : LaneOnly c.nS (writesOf .fsig c.x) l r ((special .sig) c l r) := by
  simp only [special, Cx.outPt, Cx.outIv, putRaw, if_true, reduceCtorEq, if_false]
  (try split) <;> exact flt_putF l _ r hl (by omega) rfl
theorem ferf_only (c : Cx) (l : Nat) (r : Regs) (hl : l < 128) : LaneOnly c.nS (writesOf .ferf c.x) l r ((special .erf) c l r) := by
  simp only [special, Cx.outPt, Cx.outIv, putRaw, if_true, reduceCtorEq, if_false]
  (try split) <;> exact flt_putF l _ r hl (by omega) rfl
theorem fsin_only (c : Cx) (l : Nat) (r : Regs) (hl : l < 128) : LaneOnly c.nS (writesOf .fsin c.x) l r ((special .sin) c l r) := by
  simp only [special, Cx.outPt, Cx.outIv, putRaw, if_true, reduceCtorEq, if_false]
  (try split) <;> exact flt_putF l _ r hl (by omega) rfl
theorem fcos_only (c : Cx) (l : Nat) (r : Regs) (hl : l < 128) : LaneOnly c.nS (writesOf .fcos c.x) l r ((special .cos) c l r) := by
  simp only [special, Cx.outPt, Cx.outIv, putRaw, if_true, reduceCtorEq, if_false]
  (try split) <;> exact flt_putF l _ r hl (by omega) rfl
theorem fgelu_only (c : Cx) (l : Nat) (r : Regs) (hl : l < 128) : LaneOnly c.nS (writesOf .fgelu c.x) l r ((special .gelu) c l r) := by
  simp only [special, Cx.outPt, Cx.outIv, putRaw, if_true, reduceCtorEq, if_false]
  (try split) <;> exact flt_putF l _ r hl (by omega) rfl
theorem fsilu_only (c : Cx) (l : Nat) (r : Regs) (hl : l < 128) : LaneOnly c.nS (writesOf .fsilu c.x) l r ((special .silu) c l r) := by
  simp only [special, Cx.outPt, Cx.outIv, putRaw, if_true, reduceCtorEq, if_false]
  (try split) <;> exact flt_putF l _ r hl (by omega) rfl
theorem fgate_only (c : Cx) (l : Nat) (r : Regs) (hl : l < 128) : LaneOnly c.nS (writesOf .fgate c.x) l r ((gate) c l r) := by
  simp only [gate, Cx.outPt, Cx.outIv, putRaw, if_true, reduceCtorEq, if_false]
  (try split) <;> exact flt_putF l _ r hl (by omega) rfl

theorem fbis_only (c : Cx) (l : Nat) (r : Regs) (hl : l < 128) : LaneOnly c.nS (writesOf .fbis c.x) l r (fltBisect c l r) := by
  simp only [fltBisect]
  exact (flt_putF l _ r hl (by omega) rfl).trans (pred_putE l _ _ hl (.inl rfl))

theorem sig_fdec_get (x : Ext) (h : x.m 0 2 = 0) : (sig .fdec x).d = .v 1 1 := by
  show Sig.d (ite _ _ _) = _
  rw [if_pos h]
theorem sig_fdec_set (x : Ext) (h : ¬ x.m 0 2 = 0) : (sig .fdec x).d = .f 1 1 := by
  show Sig.d (ite _ _ _) = _
  rw [if_neg h]; rfl
theorem sig_fcvt_pack (x : Ext) (h : x.m 3 1 = 0) : (sig .fcvt x).d = .v 1 1 ∧ (x.m 5 1 = 1 → (sig .fcvt x).e = .pred) := by
  have : sig .fcvt x = ite (x.m 3 1 = 0) _ _ := rfl
  rw [this, if_pos h]
  exact ⟨rfl, fun h => if_pos h⟩
theorem sig_fcvt_unpack (x : Ext) (h : ¬ x.m 3 1 = 0) : (sig .fcvt x).d = .f 1 1 := by
  have : sig .fcvt x = ite (x.m 3 1 = 0) _ _ := rfl
  rw [this, if_neg h]; rfl
theorem sig_fcvti_int (x : Ext) (h : x.m 4 1 = 0) :
    (sig .fcvti x).d = .v (tyN x.ty) (tyN x.ty) ∧ (x.m 6 1 = 1 → (sig .fcvti x).e = .v (tyN x.ty) (tyN x.ty)) := by
  have : sig .fcvti x = ite (x.m 4 1 = 0) _ _ := rfl
  rw [this, if_pos h]
  exact ⟨rfl, fun h => if_pos h⟩
theorem sig_fcvti_flt (x : Ext) (h : ¬ x.m 4 1 = 0) : (sig .fcvti x).d = .f 1 1 := by
  have : sig .fcvti x = ite (x.m 4 1 = 0) _ _ := rfl
  rw [this, if_neg h]; rfl
theorem sig_dcvt_wide (x : Ext) (h : x.m 0 1 = 0) : (sig .dcvt x).d = .f 2 2 := by
  have : sig .dcvt x = ite (x.m 0 1 = 0) _ _ := rfl
  rw [this, if_pos h]
theorem sig_dcvt_short (x : Ext) (h : ¬ x.m 0 1 = 0) : (sig .dcvt x).d = .f 1 1 := by
  have : sig .dcvt x = ite (x.m 0 1 = 0) _ _ := rfl
  rw [this, if_neg h]

theorem fdec_only (c : Cx) (l : Nat) (r : Regs) (hl : l < 128) : LaneOnly c.nS (writesOf .fdec c.x) l r (fltDec c l r) := by
  simp only [fltDec]
  split
  · rename_i h; exact int_put c .fdec 1 1 l _ r hl (.inl rfl) (.inl (sig_fdec_get c.x h))
  · rename_i h; exact flt_putF l _ r hl (by omega) (sig_fdec_set c.x (by rw [h]; decide))
  · rename_i h _; exact flt_putF l _ r hl (by omega) (sig_fdec_set c.x h)

theorem fcvt_only (c : Cx) (l : Nat) (r : Regs) (hl : l < 128) : LaneOnly c.nS (writesOf .fcvt c.x) l r (fltCvt c l r) := by
  simp only [fltCvt]
  split
  · rename_i h
    have hi := fun v r => int_put c .fcvt 1 1 l v r hl (.inl rfl) (.inl (sig_fcvt_pack c.x h).1)
    split
    · rename_i he
      exact (hi _ _).trans (pred_putE l _ _ hl (.inl ((sig_fcvt_pack c.x h).2 he)))
    · exact hi _ _
  · rename_i h; exact flt_putF l _ r hl (by omega) (sig_fcvt_unpack c.x h)

theorem fcvti_only (c : Cx) (l : Nat) (r : Regs) (hl : l < 128) : LaneOnly c.nS (writesOf .fcvti c.x) l r (fltCvti c l r) := by
  simp only [fltCvti]
  split
  · rename_i h
    have hi := fun v r => int_put c .fcvti (tyN c.x.ty) (tyN c.x.ty) l v r hl (tyN_12 _) (.inl (sig_fcvti_int c.x h).1)
    split
    · rename_i he
      have key : ∀ v r, LaneOnly c.nS (writesOf .fcvti c.x) l r (c.putEInt (tyN c.x.ty) l v r) := by
        intro v r
        unfold Cx.putEInt
        split
        · rename_i k hk
          refine putInt_only c _ _ _ _ hl (tyN_12 _) (fun k' i h' hi' => ?_) (fun k' i h' => by simp at h')
          cases h'
          simp [writesOf, (sig_fcvti_int c.x h).2 he, hk, EK.regs, hi']
        · exact LaneOnly.refl _ _ _ _
      exact (hi _ _).trans (key _ _)
    · exact hi _ _
  · rename_i h
    split <;> exact flt_putF l _ r hl (by omega) (sig_fcvti_flt c.x h)

theorem dcvt_only (c : Cx) (l : Nat) (r : Regs) (hl : l < 128) : LaneOnly c.nS (writesOf .dcvt c.x) l r (fltCvtD c l r) := by
  simp only [fltCvtD]
  split
  · rename_i h; exact flt_putD l _ r hl (sig_dcvt_wide c.x h)
  · rename_i h
    split <;> exact flt_putF l _ r hl (by omega) (sig_dcvt_short c.x h)

theorem smxu_only (c : Cx) (l : Nat) (r : Regs) (hl : l < 128) : LaneOnly c.nS (writesOf .smxu c.x) l r (rowSmxu c l r) := by
  simp only [rowSmxu]
  split
  · split
    · rename_i k hk
      refine (LaneOnly.setF r _ _ hl ?_).trans (pred_putE l _ _ hl (.inl rfl))
      rw [show writesOf .smxu c.x = PK.regs (.f 2 1) c.x.d ++ EK.regs .pred c.x.e ++ [] ++ [] from rfl]
      simp [hk, PK.regs]
    · exact LaneOnly.refl _ _ _ _
  · exact row_put c .smxu (n := 2) (al := 1) l _ _ r hl (by simp) rfl rfl
theorem rmax_only (c : Cx) (l : Nat) (r : Regs) (hl : l < 128) : LaneOnly c.nS (writesOf .rmax c.x) l r (rowMax c l r) :=
  row_put c .rmax (n := 1) (al := 1) l _ _ r hl (by simp) rfl rfl

theorem rsum_only (c : Cx) (l : Nat) (r : Regs) (hl : l < 128) : LaneOnly c.nS (writesOf .rsum c.x) l r (rowAdd c l r) :=
  row_put c .rsum (n := 1) (al := 1) l _ _ r hl (by simp) rfl rfl

theorem rstat_only (c : Cx) (l : Nat) (r : Regs) (hl : l < 128) : LaneOnly c.nS (writesOf .rstat c.x) l r (rowStats c l r) :=
  row_put c .rstat (n := 2) (al := 1) l _ _ r hl (by simp only [Row.stat]; split <;> (try split) <;> simp) rfl rfl

theorem row_len (c : Cx) (l : Nat) : (c.row l).xs.length ≤ c.x.imm.toNat := by
  unfold Cx.row; split <;> simp [Row.of]

theorem smxa_only (c : Cx) (l : Nat) (r : Regs) (hl : l < 128) : LaneOnly c.nS (writesOf .smxa c.x) l r (rowSmxa c l r) :=
  row_put c .smxa (n := c.x.imm.toNat) (al := 1) l _ _ r hl (by simpa using row_len c l) rfl rfl

theorem rnorm_only (c : Cx) (l : Nat) (r : Regs) (hl : l < 128) : LaneOnly c.nS (writesOf .rnorm c.x) l r (rowNorm c l r) :=
  row_put c .rnorm (n := c.x.imm.toNat) (al := 1) l _ _ r hl (by simpa using row_len c l) rfl rfl
end Sys2Proof.Machine
end

