-- ==== Sys2Proof/Laws/Exec.lean ====
section
/-! SUPPORT. Every encoded instruction runs in the frame of its form: the checks of R237 come before its effect. -/

namespace Sys2Proof.Machine
/-- The checks of the frame come before the instruction's own effect. -/
theorem exec_frame (i : Instr) (s : State) (op : Op) (x : Ext) (len : Nat) (h : instrForm i = some (op, x, len)) :
    ∃ body, exec i s = frame op x s body := by
  cases i <;> try (cases h; done)
  case nop =>
    cases h; refine ⟨?_, ?_⟩; rotate_left; show execNop s = _; delta execNop nop; rfl
  case nopX x =>
    cases h; refine ⟨?_, ?_⟩; rotate_left; show execNopX x s = _; delta execNopX nop; rfl
  case bra j =>
    cases h; refine ⟨?_, ?_⟩; rotate_left; show execBra j s = _; delta execBra jumpJ; rfl
  case braX j g gs =>
    cases h; refine ⟨?_, ?_⟩; rotate_left; show execBraX j g gs s = _; delta execBraX jumpJ; rfl
  case brc c tC lit =>
    cases h; refine ⟨?_, ?_⟩; rotate_left; show execBrc c tC lit s = _; delta execBrc brc predFrame; rfl
  case brm p3 p2 p1 p0 jn lit =>
    cases h; refine ⟨?_, ?_⟩; rotate_left; show execBrm p3 p2 p1 p0 jn lit s = _; delta execBrm brm predFrame; rfl
  case join =>
    cases h; refine ⟨?_, ?_⟩; rotate_left; show execJoin s = _; delta execJoin joinPop; rfl
  case joinX =>
    cases h; refine ⟨?_, ?_⟩; rotate_left; show execJoinX s = _; delta execJoinX joinPop; rfl
  case call j =>
    cases h; refine ⟨?_, ?_⟩; rotate_left; show execCall j s = _; delta execCall jumpJ; rfl
  case callX j g gs =>
    cases h; refine ⟨?_, ?_⟩; rotate_left; show execCallX j g gs s = _; delta execCallX jumpJ; rfl
  case ret =>
    cases h; refine ⟨?_, ?_⟩; rotate_left; show execRet s = _; delta execRet retPop; rfl
  case retX =>
    cases h; refine ⟨?_, ?_⟩; rotate_left; show execRetX s = _; delta execRetX retPop; rfl
  case jmpx a =>
    cases h; refine ⟨?_, ?_⟩; rotate_left; show execJmpx a s = _; delta execJmpx jmpx; rfl
  case jmpxX x =>
    cases h; refine ⟨?_, ?_⟩; rotate_left; show execJmpxX x s = _; delta execJmpxX jmpx; rfl
  case exit =>
    cases h; refine ⟨?_, ?_⟩; rotate_left; show execExit s = _; delta execExit exitThreads; rfl
  case exitX x =>
    cases h; refine ⟨?_, ?_⟩; rotate_left; show execExitX x s = _; delta execExitX exitThreads; rfl
  case barsync =>
    cases h; refine ⟨?_, ?_⟩; rotate_left; show execBarsync s = _; delta execBarsync barsync noSprout; rfl
  case barsyncX x =>
    cases h; refine ⟨?_, ?_⟩; rotate_left; show execBarsyncX x s = _; delta execBarsyncX barsync noSprout; rfl
  case waitk x =>
    cases h; refine ⟨?_, ?_⟩; rotate_left; show execWaitk x s = _; delta execWaitk waitk; rfl
  case waitm x =>
    cases h; refine ⟨?_, ?_⟩; rotate_left; show execWaitm x s = _; delta execWaitm waitm noSprout; rfl
  case yield =>
    cases h; refine ⟨?_, ?_⟩; rotate_left; show execYield s = _; delta execYield yieldWarp; rfl
  case yieldX x =>
    cases h; refine ⟨?_, ?_⟩; rotate_left; show execYieldX x s = _; delta execYieldX yieldWarp; rfl
  case sleep a =>
    cases h; refine ⟨?_, ?_⟩; rotate_left; show execSleep a s = _; delta execSleep sleep; rfl
  case sleepX x =>
    cases h; refine ⟨?_, ?_⟩; rotate_left; show execSleepX x s = _; delta execSleepX sleep; rfl
  case brkpt =>
    cases h; refine ⟨?_, ?_⟩; rotate_left; show execBrkpt s = _; delta execBrkpt brkpt noSprout; rfl
  case brkptX =>
    cases h; refine ⟨?_, ?_⟩; rotate_left; show execBrkptX s = _; delta execBrkptX brkpt noSprout; rfl
  case trap a =>
    cases h; refine ⟨?_, ?_⟩; rotate_left; show execTrap a s = _; delta execTrap trapInstr noSprout; rfl
  case trapX x =>
    cases h; refine ⟨?_, ?_⟩; rotate_left; show execTrapX x s = _; delta execTrapX trapInstr noSprout; rfl
  case split x =>
    cases h; refine ⟨?_, ?_⟩; rotate_left; show execSplit x s = _; delta execSplit split; rfl
  case spawn x =>
    cases h; refine ⟨?_, ?_⟩; rotate_left; show execSpawn x s = _; delta execSpawn spawn; rfl
  case poolq a d =>
    cases h; refine ⟨?_, ?_⟩; rotate_left; show execPoolq a d s = _; delta execPoolq poolq; rfl
  case poolqX x =>
    cases h; refine ⟨?_, ?_⟩; rotate_left; show execPoolqX x s = _; delta execPoolqX poolq; rfl
  case recruit x =>
    cases h; refine ⟨?_, ?_⟩; rotate_left; show execRecruit x s = _; delta execRecruit recruit; rfl
  case hend x =>
    cases h; refine ⟨?_, ?_⟩; rotate_left; show execHend x s = _; delta execHend hend; rfl
  case hjoin x =>
    cases h; refine ⟨?_, ?_⟩; rotate_left; show execHjoin x s = _; delta execHjoin hjoin; rfl
  case iadd u b a d =>
    cases h; refine ⟨?_, ?_⟩; rotate_left; show execIadd u b a d s = _; delta execIadd perThread; rfl
  case iaddX x =>
    cases h; refine ⟨?_, ?_⟩; rotate_left; show execIaddX x s = _; delta execIaddX perThread; rfl
  case isub u b a d =>
    cases h; refine ⟨?_, ?_⟩; rotate_left; show execIsub u b a d s = _; delta execIsub perThread; rfl
  case isubX x =>
    cases h; refine ⟨?_, ?_⟩; rotate_left; show execIsubX x s = _; delta execIsubX perThread; rfl
  case imul u b a d =>
    cases h; refine ⟨?_, ?_⟩; rotate_left; show execImul u b a d s = _; delta execImul perThread; rfl
  case imulX x =>
    cases h; refine ⟨?_, ?_⟩; rotate_left; show execImulX x s = _; delta execImulX perThread; rfl
  case imulh u b a d =>
    cases h; refine ⟨?_, ?_⟩; rotate_left; show execImulh u b a d s = _; delta execImulh perThread; rfl
  case imulhX x =>
    cases h; refine ⟨?_, ?_⟩; rotate_left; show execImulhX x s = _; delta execImulhX perThread; rfl
  case imad u b a d =>
    cases h; refine ⟨?_, ?_⟩; rotate_left; show execImad u b a d s = _; delta execImad perThread; rfl
  case imadX x =>
    cases h; refine ⟨?_, ?_⟩; rotate_left; show execImadX x s = _; delta execImadX perThread; rfl
  case idiv u b a d =>
    cases h; refine ⟨?_, ?_⟩; rotate_left; show execIdiv u b a d s = _; delta execIdiv aluDivide; rfl
  case idivX x =>
    cases h; refine ⟨?_, ?_⟩; rotate_left; show execIdivX x s = _; delta execIdivX aluDivide; rfl
  case irem u b a d =>
    cases h; refine ⟨?_, ?_⟩; rotate_left; show execIrem u b a d s = _; delta execIrem aluDivide; rfl
  case iremX x =>
    cases h; refine ⟨?_, ?_⟩; rotate_left; show execIremX x s = _; delta execIremX aluDivide; rfl
  case imin u b a d =>
    cases h; refine ⟨?_, ?_⟩; rotate_left; show execImin u b a d s = _; delta execImin perThread; rfl
  case iminX x =>
    cases h; refine ⟨?_, ?_⟩; rotate_left; show execIminX x s = _; delta execIminX perThread; rfl
  case imax u b a d =>
    cases h; refine ⟨?_, ?_⟩; rotate_left; show execImax u b a d s = _; delta execImax perThread; rfl
  case imaxX x =>
    cases h; refine ⟨?_, ?_⟩; rotate_left; show execImaxX x s = _; delta execImaxX perThread; rfl
  case iabs u a d =>
    cases h; refine ⟨?_, ?_⟩; rotate_left; show execIabs u a d s = _; delta execIabs perThread; rfl
  case iabsX x =>
    cases h; refine ⟨?_, ?_⟩; rotate_left; show execIabsX x s = _; delta execIabsX perThread; rfl
  case iand u b a d =>
    cases h; refine ⟨?_, ?_⟩; rotate_left; show execIand u b a d s = _; delta execIand perThread; rfl
  case iandX x =>
    cases h; refine ⟨?_, ?_⟩; rotate_left; show execIandX x s = _; delta execIandX perThread; rfl
  case ior u b a d =>
    cases h; refine ⟨?_, ?_⟩; rotate_left; show execIor u b a d s = _; delta execIor perThread; rfl
  case iorX x =>
    cases h; refine ⟨?_, ?_⟩; rotate_left; show execIorX x s = _; delta execIorX perThread; rfl
  case ixor u b a d =>
    cases h; refine ⟨?_, ?_⟩; rotate_left; show execIxor u b a d s = _; delta execIxor perThread; rfl
  case ixorX x =>
    cases h; refine ⟨?_, ?_⟩; rotate_left; show execIxorX x s = _; delta execIxorX perThread; rfl
  case inot u a d =>
    cases h; refine ⟨?_, ?_⟩; rotate_left; show execInot u a d s = _; delta execInot perThread; rfl
  case inotX x =>
    cases h; refine ⟨?_, ?_⟩; rotate_left; show execInotX x s = _; delta execInotX perThread; rfl
  case shl u b a d =>
    cases h; refine ⟨?_, ?_⟩; rotate_left; show execShl u b a d s = _; delta execShl perThread; rfl
  case shlX x =>
    cases h; refine ⟨?_, ?_⟩; rotate_left; show execShlX x s = _; delta execShlX perThread; rfl
  case shr u b a d =>
    cases h; refine ⟨?_, ?_⟩; rotate_left; show execShr u b a d s = _; delta execShr perThread; rfl
  case shrX x =>
    cases h; refine ⟨?_, ?_⟩; rotate_left; show execShrX x s = _; delta execShrX perThread; rfl
  case sar u b a d =>
    cases h; refine ⟨?_, ?_⟩; rotate_left; show execSar u b a d s = _; delta execSar perThread; rfl
  case sarX x =>
    cases h; refine ⟨?_, ?_⟩; rotate_left; show execSarX x s = _; delta execSarX perThread; rfl
  case rot u b a d =>
    cases h; refine ⟨?_, ?_⟩; rotate_left; show execRot u b a d s = _; delta execRot perThread; rfl
  case rotX x =>
    cases h; refine ⟨?_, ?_⟩; rotate_left; show execRotX x s = _; delta execRotX perThread; rfl
  case bfx u b a d =>
    cases h; refine ⟨?_, ?_⟩; rotate_left; show execBfx u b a d s = _; delta execBfx perThread; rfl
  case bfxX x =>
    cases h; refine ⟨?_, ?_⟩; rotate_left; show execBfxX x s = _; delta execBfxX perThread; rfl
  case bfi u b a d =>
    cases h; refine ⟨?_, ?_⟩; rotate_left; show execBfi u b a d s = _; delta execBfi perThread; rfl
  case bfiX x =>
    cases h; refine ⟨?_, ?_⟩; rotate_left; show execBfiX x s = _; delta execBfiX perThread; rfl
  case popc u a d =>
    cases h; refine ⟨?_, ?_⟩; rotate_left; show execPopc u a d s = _; delta execPopc perThread; rfl
  case popcX x =>
    cases h; refine ⟨?_, ?_⟩; rotate_left; show execPopcX x s = _; delta execPopcX perThread; rfl
  case clz u a d =>
    cases h; refine ⟨?_, ?_⟩; rotate_left; show execClz u a d s = _; delta execClz perThread; rfl
  case clzX x =>
    cases h; refine ⟨?_, ?_⟩; rotate_left; show execClzX x s = _; delta execClzX perThread; rfl
  case brev u a d =>
    cases h; refine ⟨?_, ?_⟩; rotate_left; show execBrev u a d s = _; delta execBrev perThread; rfl
  case brevX x =>
    cases h; refine ⟨?_, ?_⟩; rotate_left; show execBrevX x s = _; delta execBrevX perThread; rfl
  case lea u b a d =>
    cases h; refine ⟨?_, ?_⟩; rotate_left; show execLea u b a d s = _; delta execLea lea; rfl
  case leaX x =>
    cases h; refine ⟨?_, ?_⟩; rotate_left; show execLeaX x s = _; delta execLeaX lea; rfl
  case mov u a d =>
    cases h; refine ⟨?_, ?_⟩; rotate_left; show execMov u a d s = _; delta execMov perThread; rfl
  case movX x =>
    cases h; refine ⟨?_, ?_⟩; rotate_left; show execMovX x s = _; delta execMovX perThread; rfl
  case movl u d lit =>
    cases h; refine ⟨?_, ?_⟩; rotate_left; show execMovl u d lit s = _; delta execMovl perThread; rfl
  case movlX x =>
    cases h; refine ⟨?_, ?_⟩; rotate_left; show execMovlX x s = _; delta execMovlX perThread; rfl
  case sel x =>
    cases h; refine ⟨?_, ?_⟩; rotate_left; show execSel x s = _; delta execSel perThread; rfl
  case icmp x =>
    cases h; refine ⟨?_, ?_⟩; rotate_left; show execIcmp x s = _; delta execIcmp perThread; rfl
  case plop x =>
    cases h; refine ⟨?_, ?_⟩; rotate_left; show execPlop x s = _; delta execPlop perThread; rfl
  case pmov x =>
    cases h; refine ⟨?_, ?_⟩; rotate_left; show execPmov x s = _; delta execPmov; rfl
  case cvti u a d =>
    cases h; refine ⟨?_, ?_⟩; rotate_left; show execCvti u a d s = _; delta execCvti perThread; rfl
  case cvtiX x =>
    cases h; refine ⟨?_, ?_⟩; rotate_left; show execCvtiX x s = _; delta execCvtiX perThread; rfl
  case idot4 u b a d =>
    cases h; refine ⟨?_, ?_⟩; rotate_left; show execIdot4 u b a d s = _; delta execIdot4 perThread; rfl
  case idot4X x =>
    cases h; refine ⟨?_, ?_⟩; rotate_left; show execIdot4X x s = _; delta execIdot4X perThread; rfl
  case fadd b a d =>
    cases h; refine ⟨?_, ?_⟩; rotate_left; show execFadd b a d s = _; delta execFadd perThread; rfl
  case faddX x =>
    cases h; refine ⟨?_, ?_⟩; rotate_left; show execFaddX x s = _; delta execFaddX perThread; rfl
  case fsub b a d =>
    cases h; refine ⟨?_, ?_⟩; rotate_left; show execFsub b a d s = _; delta execFsub perThread; rfl
  case fsubX x =>
    cases h; refine ⟨?_, ?_⟩; rotate_left; show execFsubX x s = _; delta execFsubX perThread; rfl
  case fmul b a d =>
    cases h; refine ⟨?_, ?_⟩; rotate_left; show execFmul b a d s = _; delta execFmul perThread; rfl
  case fmulX x =>
    cases h; refine ⟨?_, ?_⟩; rotate_left; show execFmulX x s = _; delta execFmulX perThread; rfl
  case ffma b a d =>
    cases h; refine ⟨?_, ?_⟩; rotate_left; show execFfma b a d s = _; delta execFfma perThread; rfl
  case ffmaX x =>
    cases h; refine ⟨?_, ?_⟩; rotate_left; show execFfmaX x s = _; delta execFfmaX perThread; rfl
  case fdiv b a d =>
    cases h; refine ⟨?_, ?_⟩; rotate_left; show execFdiv b a d s = _; delta execFdiv perThread; rfl
  case fdivX x =>
    cases h; refine ⟨?_, ?_⟩; rotate_left; show execFdivX x s = _; delta execFdivX perThread; rfl
  case fsqrt a d =>
    cases h; refine ⟨?_, ?_⟩; rotate_left; show execFsqrt a d s = _; delta execFsqrt perThread; rfl
  case fsqrtX x =>
    cases h; refine ⟨?_, ?_⟩; rotate_left; show execFsqrtX x s = _; delta execFsqrtX perThread; rfl
  case fsqr a d =>
    cases h; refine ⟨?_, ?_⟩; rotate_left; show execFsqr a d s = _; delta execFsqr perThread; rfl
  case fsqrX x =>
    cases h; refine ⟨?_, ?_⟩; rotate_left; show execFsqrX x s = _; delta execFsqrX perThread; rfl
  case frcp a d =>
    cases h; refine ⟨?_, ?_⟩; rotate_left; show execFrcp a d s = _; delta execFrcp perThread; rfl
  case frcpX x =>
    cases h; refine ⟨?_, ?_⟩; rotate_left; show execFrcpX x s = _; delta execFrcpX perThread; rfl
  case frsqrt a d =>
    cases h; refine ⟨?_, ?_⟩; rotate_left; show execFrsqrt a d s = _; delta execFrsqrt perThread; rfl
  case frsqrtX x =>
    cases h; refine ⟨?_, ?_⟩; rotate_left; show execFrsqrtX x s = _; delta execFrsqrtX perThread; rfl
  case fabs a d =>
    cases h; refine ⟨?_, ?_⟩; rotate_left; show execFabs a d s = _; delta execFabs perThread; rfl
  case fabsX x =>
    cases h; refine ⟨?_, ?_⟩; rotate_left; show execFabsX x s = _; delta execFabsX perThread; rfl
  case fneg a d =>
    cases h; refine ⟨?_, ?_⟩; rotate_left; show execFneg a d s = _; delta execFneg perThread; rfl
  case fnegX x =>
    cases h; refine ⟨?_, ?_⟩; rotate_left; show execFnegX x s = _; delta execFnegX perThread; rfl
  case fmin b a d =>
    cases h; refine ⟨?_, ?_⟩; rotate_left; show execFmin b a d s = _; delta execFmin perThread; rfl
  case fminX x =>
    cases h; refine ⟨?_, ?_⟩; rotate_left; show execFminX x s = _; delta execFminX perThread; rfl
  case fmax b a d =>
    cases h; refine ⟨?_, ?_⟩; rotate_left; show execFmax b a d s = _; delta execFmax perThread; rfl
  case fmaxX x =>
    cases h; refine ⟨?_, ?_⟩; rotate_left; show execFmaxX x s = _; delta execFmaxX perThread; rfl
  case fhull b a d =>
    cases h; refine ⟨?_, ?_⟩; rotate_left; show execFhull b a d s = _; delta execFhull perThread; rfl
  case fhullX x =>
    cases h; refine ⟨?_, ?_⟩; rotate_left; show execFhullX x s = _; delta execFhullX perThread; rfl
  case fisect b a d =>
    cases h; refine ⟨?_, ?_⟩; rotate_left; show execFisect b a d s = _; delta execFisect perThread; rfl
  case fisectX x =>
    cases h; refine ⟨?_, ?_⟩; rotate_left; show execFisectX x s = _; delta execFisectX perThread; rfl
  case fmk b a d =>
    cases h; refine ⟨?_, ?_⟩; rotate_left; show execFmk b a d s = _; delta execFmk perThread; rfl
  case fmkX x =>
    cases h; refine ⟨?_, ?_⟩; rotate_left; show execFmkX x s = _; delta execFmkX perThread; rfl
  case flo a d =>
    cases h; refine ⟨?_, ?_⟩; rotate_left; show execFlo a d s = _; delta execFlo perThread; rfl
  case floX x =>
    cases h; refine ⟨?_, ?_⟩; rotate_left; show execFloX x s = _; delta execFloX perThread; rfl
  case fhi a d =>
    cases h; refine ⟨?_, ?_⟩; rotate_left; show execFhi a d s = _; delta execFhi perThread; rfl
  case fhiX x =>
    cases h; refine ⟨?_, ?_⟩; rotate_left; show execFhiX x s = _; delta execFhiX perThread; rfl
  case fmid a d =>
    cases h; refine ⟨?_, ?_⟩; rotate_left; show execFmid a d s = _; delta execFmid perThread; rfl
  case fmidX x =>
    cases h; refine ⟨?_, ?_⟩; rotate_left; show execFmidX x s = _; delta execFmidX perThread; rfl
  case frad a d =>
    cases h; refine ⟨?_, ?_⟩; rotate_left; show execFrad a d s = _; delta execFrad perThread; rfl
  case fradX x =>
    cases h; refine ⟨?_, ?_⟩; rotate_left; show execFradX x s = _; delta execFradX perThread; rfl
  case fwid a d =>
    cases h; refine ⟨?_, ?_⟩; rotate_left; show execFwid a d s = _; delta execFwid perThread; rfl
  case fwidX x =>
    cases h; refine ⟨?_, ?_⟩; rotate_left; show execFwidX x s = _; delta execFwidX perThread; rfl
  case fmig a d =>
    cases h; refine ⟨?_, ?_⟩; rotate_left; show execFmig a d s = _; delta execFmig perThread; rfl
  case fmigX x =>
    cases h; refine ⟨?_, ?_⟩; rotate_left; show execFmigX x s = _; delta execFmigX perThread; rfl
  case fmag a d =>
    cases h; refine ⟨?_, ?_⟩; rotate_left; show execFmag a d s = _; delta execFmag perThread; rfl
  case fmagX x =>
    cases h; refine ⟨?_, ?_⟩; rotate_left; show execFmagX x s = _; delta execFmagX perThread; rfl
  case fbis x =>
    cases h; refine ⟨?_, ?_⟩; rotate_left; show execFbis x s = _; delta execFbis perThread; rfl
  case fcmp x =>
    cases h; refine ⟨?_, ?_⟩; rotate_left; show execFcmp x s = _; delta execFcmp perThread; rfl
  case fset x =>
    cases h; refine ⟨?_, ?_⟩; rotate_left; show execFset x s = _; delta execFset perThread; rfl
  case fclass a d =>
    cases h; refine ⟨?_, ?_⟩; rotate_left; show execFclass a d s = _; delta execFclass perThread; rfl
  case fclassX x =>
    cases h; refine ⟨?_, ?_⟩; rotate_left; show execFclassX x s = _; delta execFclassX perThread; rfl
  case fdec a d =>
    cases h; refine ⟨?_, ?_⟩; rotate_left; show execFdec a d s = _; delta execFdec perThread; rfl
  case fdecX x =>
    cases h; refine ⟨?_, ?_⟩; rotate_left; show execFdecX x s = _; delta execFdecX perThread; rfl
  case fcvt a d =>
    cases h; refine ⟨?_, ?_⟩; rotate_left; show execFcvt a d s = _; delta execFcvt perThread; rfl
  case fcvtX x =>
    cases h; refine ⟨?_, ?_⟩; rotate_left; show execFcvtX x s = _; delta execFcvtX perThread; rfl
  case fcvti a d =>
    cases h; refine ⟨?_, ?_⟩; rotate_left; show execFcvti a d s = _; delta execFcvti perThread; rfl
  case fcvtiX x =>
    cases h; refine ⟨?_, ?_⟩; rotate_left; show execFcvtiX x s = _; delta execFcvtiX perThread; rfl
  case fpown b a d =>
    cases h; refine ⟨?_, ?_⟩; rotate_left; show execFpown b a d s = _; delta execFpown perThread; rfl
  case fpownX x =>
    cases h; refine ⟨?_, ?_⟩; rotate_left; show execFpownX x s = _; delta execFpownX perThread; rfl
  case fldexp b a d =>
    cases h; refine ⟨?_, ?_⟩; rotate_left; show execFldexp b a d s = _; delta execFldexp perThread; rfl
  case fldexpX x =>
    cases h; refine ⟨?_, ?_⟩; rotate_left; show execFldexpX x s = _; delta execFldexpX perThread; rfl
  case fmov a d =>
    cases h; refine ⟨?_, ?_⟩; rotate_left; show execFmov a d s = _; delta execFmov perThread; rfl
  case fmovX x =>
    cases h; refine ⟨?_, ?_⟩; rotate_left; show execFmovX x s = _; delta execFmovX perThread; rfl
  case fsel x =>
    cases h; refine ⟨?_, ?_⟩; rotate_left; show execFsel x s = _; delta execFsel perThread; rfl
  case fmovl d lit =>
    cases h; refine ⟨?_, ?_⟩; rotate_left; show execFmovl d lit s = _; delta execFmovl perThread; rfl
  case fmovlX x =>
    cases h; refine ⟨?_, ?_⟩; rotate_left; show execFmovlX x s = _; delta execFmovlX perThread; rfl
  case rmax x =>
    cases h; refine ⟨?_, ?_⟩; rotate_left; show execRmax x s = _; delta execRmax perThread; rfl
  case rsum x =>
    cases h; refine ⟨?_, ?_⟩; rotate_left; show execRsum x s = _; delta execRsum perThread; rfl
  case rstat x =>
    cases h; refine ⟨?_, ?_⟩; rotate_left; show execRstat x s = _; delta execRstat perThread; rfl
  case smxu x =>
    cases h; refine ⟨?_, ?_⟩; rotate_left; show execSmxu x s = _; delta execSmxu perThread; rfl
  case smxa x =>
    cases h; refine ⟨?_, ?_⟩; rotate_left; show execSmxa x s = _; delta execSmxa perThread; rfl
  case rnorm x =>
    cases h; refine ⟨?_, ?_⟩; rotate_left; show execRnorm x s = _; delta execRnorm perThread; rfl
  case dadd b a d =>
    cases h; refine ⟨?_, ?_⟩; rotate_left; show execDadd b a d s = _; delta execDadd perThread; rfl
  case daddX x =>
    cases h; refine ⟨?_, ?_⟩; rotate_left; show execDaddX x s = _; delta execDaddX perThread; rfl
  case dsub b a d =>
    cases h; refine ⟨?_, ?_⟩; rotate_left; show execDsub b a d s = _; delta execDsub perThread; rfl
  case dsubX x =>
    cases h; refine ⟨?_, ?_⟩; rotate_left; show execDsubX x s = _; delta execDsubX perThread; rfl
  case dmul b a d =>
    cases h; refine ⟨?_, ?_⟩; rotate_left; show execDmul b a d s = _; delta execDmul perThread; rfl
  case dmulX x =>
    cases h; refine ⟨?_, ?_⟩; rotate_left; show execDmulX x s = _; delta execDmulX perThread; rfl
  case dfma b a d =>
    cases h; refine ⟨?_, ?_⟩; rotate_left; show execDfma b a d s = _; delta execDfma perThread; rfl
  case dfmaX x =>
    cases h; refine ⟨?_, ?_⟩; rotate_left; show execDfmaX x s = _; delta execDfmaX perThread; rfl
  case ddiv b a d =>
    cases h; refine ⟨?_, ?_⟩; rotate_left; show execDdiv b a d s = _; delta execDdiv perThread; rfl
  case ddivX x =>
    cases h; refine ⟨?_, ?_⟩; rotate_left; show execDdivX x s = _; delta execDdivX perThread; rfl
  case dsqrt a d =>
    cases h; refine ⟨?_, ?_⟩; rotate_left; show execDsqrt a d s = _; delta execDsqrt perThread; rfl
  case dsqrtX x =>
    cases h; refine ⟨?_, ?_⟩; rotate_left; show execDsqrtX x s = _; delta execDsqrtX perThread; rfl
  case dcmp x =>
    cases h; refine ⟨?_, ?_⟩; rotate_left; show execDcmp x s = _; delta execDcmp perThread; rfl
  case dcvt a d =>
    cases h; refine ⟨?_, ?_⟩; rotate_left; show execDcvt a d s = _; delta execDcvt perThread; rfl
  case dcvtX x =>
    cases h; refine ⟨?_, ?_⟩; rotate_left; show execDcvtX x s = _; delta execDcvtX perThread; rfl
  case fexp a d =>
    cases h; refine ⟨?_, ?_⟩; rotate_left; show execFexp a d s = _; delta execFexp perThread; rfl
  case fexpX x =>
    cases h; refine ⟨?_, ?_⟩; rotate_left; show execFexpX x s = _; delta execFexpX perThread; rfl
  case fexp2 a d =>
    cases h; refine ⟨?_, ?_⟩; rotate_left; show execFexp2 a d s = _; delta execFexp2 perThread; rfl
  case fexp2X x =>
    cases h; refine ⟨?_, ?_⟩; rotate_left; show execFexp2X x s = _; delta execFexp2X perThread; rfl
  case flog a d =>
    cases h; refine ⟨?_, ?_⟩; rotate_left; show execFlog a d s = _; delta execFlog perThread; rfl
  case flogX x =>
    cases h; refine ⟨?_, ?_⟩; rotate_left; show execFlogX x s = _; delta execFlogX perThread; rfl
  case flog2 a d =>
    cases h; refine ⟨?_, ?_⟩; rotate_left; show execFlog2 a d s = _; delta execFlog2 perThread; rfl
  case flog2X x =>
    cases h; refine ⟨?_, ?_⟩; rotate_left; show execFlog2X x s = _; delta execFlog2X perThread; rfl
  case ftanh a d =>
    cases h; refine ⟨?_, ?_⟩; rotate_left; show execFtanh a d s = _; delta execFtanh perThread; rfl
  case ftanhX x =>
    cases h; refine ⟨?_, ?_⟩; rotate_left; show execFtanhX x s = _; delta execFtanhX perThread; rfl
  case fsig a d =>
    cases h; refine ⟨?_, ?_⟩; rotate_left; show execFsig a d s = _; delta execFsig perThread; rfl
  case fsigX x =>
    cases h; refine ⟨?_, ?_⟩; rotate_left; show execFsigX x s = _; delta execFsigX perThread; rfl
  case ferf a d =>
    cases h; refine ⟨?_, ?_⟩; rotate_left; show execFerf a d s = _; delta execFerf perThread; rfl
  case ferfX x =>
    cases h; refine ⟨?_, ?_⟩; rotate_left; show execFerfX x s = _; delta execFerfX perThread; rfl
  case fsin a d =>
    cases h; refine ⟨?_, ?_⟩; rotate_left; show execFsin a d s = _; delta execFsin perThread; rfl
  case fsinX x =>
    cases h; refine ⟨?_, ?_⟩; rotate_left; show execFsinX x s = _; delta execFsinX perThread; rfl
  case fcos a d =>
    cases h; refine ⟨?_, ?_⟩; rotate_left; show execFcos a d s = _; delta execFcos perThread; rfl
  case fcosX x =>
    cases h; refine ⟨?_, ?_⟩; rotate_left; show execFcosX x s = _; delta execFcosX perThread; rfl
  case fgelu a d =>
    cases h; refine ⟨?_, ?_⟩; rotate_left; show execFgelu a d s = _; delta execFgelu perThread; rfl
  case fgeluX x =>
    cases h; refine ⟨?_, ?_⟩; rotate_left; show execFgeluX x s = _; delta execFgeluX perThread; rfl
  case fsilu a d =>
    cases h; refine ⟨?_, ?_⟩; rotate_left; show execFsilu a d s = _; delta execFsilu perThread; rfl
  case fsiluX x =>
    cases h; refine ⟨?_, ?_⟩; rotate_left; show execFsiluX x s = _; delta execFsiluX perThread; rfl
  case fgate b a d =>
    cases h; refine ⟨?_, ?_⟩; rotate_left; show execFgate b a d s = _; delta execFgate perThread; rfl
  case fgateX x =>
    cases h; refine ⟨?_, ?_⟩; rotate_left; show execFgateX x s = _; delta execFgateX perThread; rfl
  case ld a d =>
    cases h; refine ⟨?_, ?_⟩; rotate_left; show execLd a d s = _; delta execLd ld; rfl
  case ldX x =>
    cases h; refine ⟨?_, ?_⟩; rotate_left; show execLdX x s = _; delta execLdX ld; rfl
  case st b a =>
    cases h; refine ⟨?_, ?_⟩; rotate_left; show execSt b a s = _; delta execSt st; rfl
  case stX x =>
    cases h; refine ⟨?_, ?_⟩; rotate_left; show execStX x s = _; delta execStX st; rfl
  case ldf a d =>
    cases h; refine ⟨?_, ?_⟩; rotate_left; show execLdf a d s = _; delta execLdf ldf; rfl
  case ldfX x =>
    cases h; refine ⟨?_, ?_⟩; rotate_left; show execLdfX x s = _; delta execLdfX ldf; rfl
  case stf b a =>
    cases h; refine ⟨?_, ?_⟩; rotate_left; show execStf b a s = _; delta execStf stf; rfl
  case stfX x =>
    cases h; refine ⟨?_, ?_⟩; rotate_left; show execStfX x s = _; delta execStfX stf; rfl
  case sld x =>
    cases h; refine ⟨?_, ?_⟩; rotate_left; show execSld x s = _; delta execSld sld; rfl
  case sst x =>
    cases h; refine ⟨?_, ?_⟩; rotate_left; show execSst x s = _; delta execSst sst; rfl
  case atom b a d =>
    cases h; refine ⟨?_, ?_⟩; rotate_left; show execAtom b a d s = _; delta execAtom atomAny; rfl
  case atomX x =>
    cases h; refine ⟨?_, ?_⟩; rotate_left; show execAtomX x s = _; delta execAtomX atomAny; rfl
  case atomf b a d =>
    cases h; refine ⟨?_, ?_⟩; rotate_left; show execAtomf b a d s = _; delta execAtomf atomAny; rfl
  case atomfX x =>
    cases h; refine ⟨?_, ?_⟩; rotate_left; show execAtomfX x s = _; delta execAtomfX atomAny; rfl
  case red b a =>
    cases h; refine ⟨?_, ?_⟩; rotate_left; show execRed b a s = _; delta execRed atomAny; rfl
  case redX x =>
    cases h; refine ⟨?_, ?_⟩; rotate_left; show execRedX x s = _; delta execRedX atomAny; rfl
  case cas b a d =>
    cases h; refine ⟨?_, ?_⟩; rotate_left; show execCas b a d s = _; delta execCas atomAny; rfl
  case casX x =>
    cases h; refine ⟨?_, ?_⟩; rotate_left; show execCasX x s = _; delta execCasX atomAny; rfl
  case fence =>
    cases h; refine ⟨?_, ?_⟩; rotate_left; show execFence s = _; delta execFence fence; rfl
  case fenceX x =>
    cases h; refine ⟨?_, ?_⟩; rotate_left; show execFenceX x s = _; delta execFenceX fence; rfl
  case pref a =>
    cases h; refine ⟨?_, ?_⟩; rotate_left; show execPref a s = _; delta execPref pref; rfl
  case prefX x =>
    cases h; refine ⟨?_, ?_⟩; rotate_left; show execPrefX x s = _; delta execPrefX pref; rfl
  case cctl =>
    cases h; refine ⟨?_, ?_⟩; rotate_left; show execCctl s = _; delta execCctl cctl; rfl
  case cctlX x =>
    cases h; refine ⟨?_, ?_⟩; rotate_left; show execCctlX x s = _; delta execCctlX cctl; rfl
  case smap x =>
    cases h; refine ⟨?_, ?_⟩; rotate_left; show execSmap x s = _; delta execSmap smap onceTeam; rfl
  case sunmap x =>
    cases h; refine ⟨?_, ?_⟩; rotate_left; show execSunmap x s = _; delta execSunmap sunmap onceTeam; rfl
  case sflush x =>
    cases h; refine ⟨?_, ?_⟩; rotate_left; show execSflush x s = _; delta execSflush sflush onceTeam; rfl
  case sqry x =>
    cases h; refine ⟨?_, ?_⟩; rotate_left; show execSqry x s = _; delta execSqry sqry onceTeam; rfl
  case cpy x =>
    cases h; refine ⟨?_, ?_⟩; rotate_left; show execCpy x s = _; delta execCpy cpy; rfl
  case cpyg x =>
    cases h; refine ⟨?_, ?_⟩; rotate_left; show execCpyg x s = _; delta execCpyg cpy; rfl
  case cpya x =>
    cases h; refine ⟨?_, ?_⟩; rotate_left; show execCpya x s = _; delta execCpya cpy; rfl
  case cpyq x =>
    cases h; refine ⟨?_, ?_⟩; rotate_left; show execCpyq x s = _; delta execCpyq cpyq; rfl
  case binit x =>
    cases h; refine ⟨?_, ?_⟩; rotate_left; show execBinit x s = _; delta execBinit binit onceTeam; rfl
  case barr x =>
    cases h; refine ⟨?_, ?_⟩; rotate_left; show execBarr x s = _; delta execBarr barr onceTeam; rfl
  case bwait x =>
    cases h; refine ⟨?_, ?_⟩; rotate_left; show execBwait x s = _; delta execBwait bwait onceTeam; rfl
  case btest x =>
    cases h; refine ⟨?_, ?_⟩; rotate_left; show execBtest x s = _; delta execBtest btest onceTeam; rfl
  case mma x =>
    cases h; refine ⟨?_, ?_⟩; rotate_left; show execMma x s = _; delta execMma matrixOp; rfl
  case mmaq x =>
    cases h; refine ⟨?_, ?_⟩; rotate_left; show execMmaq x s = _; delta execMmaq matrixOp; rfl
  case mmai x =>
    cases h; refine ⟨?_, ?_⟩; rotate_left; show execMmai x s = _; delta execMmai matrixOp; rfl
  case mtrn x =>
    cases h; refine ⟨?_, ?_⟩; rotate_left; show execMtrn x s = _; delta execMtrn matrixOp; rfl
  case mperm x =>
    cases h; refine ⟨?_, ?_⟩; rotate_left; show execMperm x s = _; delta execMperm matrixOp; rfl
  case mred x =>
    cases h; refine ⟨?_, ?_⟩; rotate_left; show execMred x s = _; delta execMred matrixOp; rfl
  case xopen x =>
    cases h; refine ⟨?_, ?_⟩; rotate_left; show execXopen x s = _; delta execXopen xopen streamOnce streamFrame; rfl
  case xnext x =>
    cases h; refine ⟨?_, ?_⟩; rotate_left; show execXnext x s = _; delta execXnext xnext streamFrame; rfl
  case xnext2 x =>
    cases h; refine ⟨?_, ?_⟩; rotate_left; show execXnext2 x s = _; delta execXnext2 xnext streamFrame; rfl
  case xisect x =>
    cases h; refine ⟨?_, ?_⟩; rotate_left; show execXisect x s = _; delta execXisect xcombine streamOnce streamFrame; rfl
  case xunion x =>
    cases h; refine ⟨?_, ?_⟩; rotate_left; show execXunion x s = _; delta execXunion xcombine streamOnce streamFrame; rfl
  case xskip x =>
    cases h; refine ⟨?_, ?_⟩; rotate_left; show execXskip x s = _; delta execXskip xskip streamOnce streamFrame; rfl
  case xclose x =>
    cases h; refine ⟨?_, ?_⟩; rotate_left; show execXclose x s = _; delta execXclose xclose streamOnce streamFrame; rfl
  case xsave x =>
    cases h; refine ⟨?_, ?_⟩; rotate_left; show execXsave x s = _; delta execXsave xsave streamOnce streamFrame; rfl
  case xload x =>
    cases h; refine ⟨?_, ?_⟩; rotate_left; show execXload x s = _; delta execXload xload streamOnce streamFrame; rfl
  case xpos x =>
    cases h; refine ⟨?_, ?_⟩; rotate_left; show execXpos x s = _; delta execXpos xpos streamOnce streamFrame; rfl
  case vote x =>
    cases h; refine ⟨?_, ?_⟩; rotate_left; show execVote x s = _; delta execVote vote warpWide; rfl
  case shfl x =>
    cases h; refine ⟨?_, ?_⟩; rotate_left; show execShfl x s = _; delta execShfl shfl warpWide; rfl
  case fshfl x =>
    cases h; refine ⟨?_, ?_⟩; rotate_left; show execFshfl x s = _; delta execFshfl shfl warpWide; rfl
  case matchV x =>
    cases h; refine ⟨?_, ?_⟩; rotate_left; show execMatchV x s = _; delta execMatchV matchLanes warpWide; rfl
  case redux x =>
    cases h; refine ⟨?_, ?_⟩; rotate_left; show execRedux x s = _; delta execRedux redux warpWide; rfl
  case scan x =>
    cases h; refine ⟨?_, ?_⟩; rotate_left; show execScan x s = _; delta execScan scan warpWide; rfl
  case swr x =>
    cases h; refine ⟨?_, ?_⟩; rotate_left; show execSwr x s = _; delta execSwr swr; rfl
  case topo a d =>
    cases h; refine ⟨?_, ?_⟩; rotate_left; show execTopo a d s = _; delta execTopo topo; rfl
  case topoX x =>
    cases h; refine ⟨?_, ?_⟩; rotate_left; show execTopoX x s = _; delta execTopoX topo; rfl
  case time d =>
    cases h; refine ⟨?_, ?_⟩; rotate_left; show execTime d s = _; delta execTime time; rfl
  case timeX x =>
    cases h; refine ⟨?_, ?_⟩; rotate_left; show execTimeX x s = _; delta execTimeX time; rfl
  case perf x =>
    cases h; refine ⟨?_, ?_⟩; rotate_left; show execPerf x s = _; delta execPerf perf; rfl
  case rte =>
    cases h; refine ⟨?_, ?_⟩; rotate_left; show execRte s = _; delta execRte rte trapOnly; rfl
  case rteX =>
    cases h; refine ⟨?_, ?_⟩; rotate_left; show execRteX s = _; delta execRteX rte trapOnly; rfl
  case csave x =>
    cases h; refine ⟨?_, ?_⟩; rotate_left; show execCsave x s = _; delta execCsave csave contextFrame trapOnly; rfl
  case cload x =>
    cases h; refine ⟨?_, ?_⟩; rotate_left; show execCload x s = _; delta execCload cload contextFrame trapOnly; rfl
  case rgnclr x =>
    cases h; refine ⟨?_, ?_⟩; rotate_left; show execRgnclr x s = _; delta execRgnclr rgnclr trapOnly; rfl
  case tlbinv x =>
    cases h; refine ⟨?_, ?_⟩; rotate_left; show execTlbinv x s = _; delta execTlbinv tlbinv noSprout; rfl
  case srd x =>
    cases h; refine ⟨?_, ?_⟩; rotate_left; show execSrd x s = _; delta execSrd srd; rfl

end Sys2Proof.Machine
end

