-- ==== Sys2Proof/Laws/PerInstr.lean ====
section
/-! SUPPORT. One lemma per constructor: the layout of an instruction names that instruction. -/

namespace Sys2Proof.Laws

/-- The layout of an encoded instruction is legal and is that instruction's; a step of the part has none. -/
def Layout.Statement (i : Instr) : Prop :=
  match i.view with
  | some v => v.legal = true ∧ v.instr = some i
  | none => i.encoded = false

theorem Layout.nop : Layout.Statement (.nop) := ⟨rfl, rfl⟩
theorem Layout.nopX (x : Ext) : Layout.Statement (.nopX x) := ⟨rfl, rfl⟩
theorem Layout.bra (j : BitVec 22) : Layout.Statement (.bra j) := ⟨rfl, rfl⟩
theorem Layout.braX (j : BitVec 22) (g : BitVec 4) (gs : BitVec 2) : Layout.Statement (.braX j g gs) := ⟨rfl, rfl⟩
theorem Layout.brc (c : BitVec 4) (tC : Bool) (lit : DWord) : Layout.Statement (.brc c tC lit) := ⟨rfl, rfl⟩
theorem Layout.brm (p3 : BitVec 4) (p2 : BitVec 4) (p1 : BitVec 4) (p0 : BitVec 4) (join : BitVec 16) (lit : DWord) : Layout.Statement (.brm p3 p2 p1 p0 join lit) := ⟨rfl, rfl⟩
theorem Layout.join : Layout.Statement (.join) := ⟨rfl, rfl⟩
theorem Layout.joinX : Layout.Statement (.joinX) := ⟨rfl, rfl⟩
theorem Layout.call (j : BitVec 22) : Layout.Statement (.call j) := ⟨rfl, rfl⟩
theorem Layout.callX (j : BitVec 22) (g : BitVec 4) (gs : BitVec 2) : Layout.Statement (.callX j g gs) := ⟨rfl, rfl⟩
theorem Layout.ret : Layout.Statement (.ret) := ⟨rfl, rfl⟩
theorem Layout.retX : Layout.Statement (.retX) := ⟨rfl, rfl⟩
theorem Layout.jmpx (a : BitVec 7) : Layout.Statement (.jmpx a) := ⟨rfl, rfl⟩
theorem Layout.jmpxX (x : Ext) : Layout.Statement (.jmpxX x) := ⟨rfl, rfl⟩
theorem Layout.exit : Layout.Statement (.exit) := ⟨rfl, rfl⟩
theorem Layout.exitX (x : Ext) : Layout.Statement (.exitX x) := ⟨rfl, rfl⟩
theorem Layout.barsync : Layout.Statement (.barsync) := ⟨rfl, rfl⟩
theorem Layout.barsyncX (x : Ext) : Layout.Statement (.barsyncX x) := ⟨rfl, rfl⟩
theorem Layout.waitk (x : Ext) : Layout.Statement (.waitk x) := ⟨rfl, rfl⟩
theorem Layout.waitm (x : Ext) : Layout.Statement (.waitm x) := ⟨rfl, rfl⟩
theorem Layout.yield : Layout.Statement (.yield) := ⟨rfl, rfl⟩
theorem Layout.yieldX (x : Ext) : Layout.Statement (.yieldX x) := ⟨rfl, rfl⟩
theorem Layout.sleep (a : BitVec 7) : Layout.Statement (.sleep a) := ⟨rfl, rfl⟩
theorem Layout.sleepX (x : Ext) : Layout.Statement (.sleepX x) := ⟨rfl, rfl⟩
theorem Layout.brkpt : Layout.Statement (.brkpt) := ⟨rfl, rfl⟩
theorem Layout.brkptX : Layout.Statement (.brkptX) := ⟨rfl, rfl⟩
theorem Layout.trap (a : BitVec 7) : Layout.Statement (.trap a) := ⟨rfl, rfl⟩
theorem Layout.trapX (x : Ext) : Layout.Statement (.trapX x) := ⟨rfl, rfl⟩
theorem Layout.split (x : Ext) : Layout.Statement (.split x) := ⟨rfl, rfl⟩
theorem Layout.spawn (x : Ext) : Layout.Statement (.spawn x) := ⟨rfl, rfl⟩
theorem Layout.poolq (a : BitVec 7) (d : BitVec 7) : Layout.Statement (.poolq a d) := ⟨rfl, rfl⟩
theorem Layout.poolqX (x : Ext) : Layout.Statement (.poolqX x) := ⟨rfl, rfl⟩
theorem Layout.recruit (x : Ext) : Layout.Statement (.recruit x) := ⟨rfl, rfl⟩
theorem Layout.hend (x : Ext) : Layout.Statement (.hend x) := ⟨rfl, rfl⟩
theorem Layout.hjoin (x : Ext) : Layout.Statement (.hjoin x) := ⟨rfl, rfl⟩
theorem Layout.iadd (u : Bool) (b : BitVec 7) (a : BitVec 7) (d : BitVec 7) : Layout.Statement (.iadd u b a d) := ⟨rfl, rfl⟩
theorem Layout.iaddX (x : Ext) : Layout.Statement (.iaddX x) := ⟨rfl, rfl⟩
theorem Layout.isub (u : Bool) (b : BitVec 7) (a : BitVec 7) (d : BitVec 7) : Layout.Statement (.isub u b a d) := ⟨rfl, rfl⟩
theorem Layout.isubX (x : Ext) : Layout.Statement (.isubX x) := ⟨rfl, rfl⟩
theorem Layout.imul (u : Bool) (b : BitVec 7) (a : BitVec 7) (d : BitVec 7) : Layout.Statement (.imul u b a d) := ⟨rfl, rfl⟩
theorem Layout.imulX (x : Ext) : Layout.Statement (.imulX x) := ⟨rfl, rfl⟩
theorem Layout.imulh (u : Bool) (b : BitVec 7) (a : BitVec 7) (d : BitVec 7) : Layout.Statement (.imulh u b a d) := ⟨rfl, rfl⟩
theorem Layout.imulhX (x : Ext) : Layout.Statement (.imulhX x) := ⟨rfl, rfl⟩
theorem Layout.imad (u : Bool) (b : BitVec 7) (a : BitVec 7) (d : BitVec 7) : Layout.Statement (.imad u b a d) := ⟨rfl, rfl⟩
theorem Layout.imadX (x : Ext) : Layout.Statement (.imadX x) := ⟨rfl, rfl⟩
theorem Layout.idiv (u : Bool) (b : BitVec 7) (a : BitVec 7) (d : BitVec 7) : Layout.Statement (.idiv u b a d) := ⟨rfl, rfl⟩
theorem Layout.idivX (x : Ext) : Layout.Statement (.idivX x) := ⟨rfl, rfl⟩
theorem Layout.irem (u : Bool) (b : BitVec 7) (a : BitVec 7) (d : BitVec 7) : Layout.Statement (.irem u b a d) := ⟨rfl, rfl⟩
theorem Layout.iremX (x : Ext) : Layout.Statement (.iremX x) := ⟨rfl, rfl⟩
theorem Layout.imin (u : Bool) (b : BitVec 7) (a : BitVec 7) (d : BitVec 7) : Layout.Statement (.imin u b a d) := ⟨rfl, rfl⟩
theorem Layout.iminX (x : Ext) : Layout.Statement (.iminX x) := ⟨rfl, rfl⟩
theorem Layout.imax (u : Bool) (b : BitVec 7) (a : BitVec 7) (d : BitVec 7) : Layout.Statement (.imax u b a d) := ⟨rfl, rfl⟩
theorem Layout.imaxX (x : Ext) : Layout.Statement (.imaxX x) := ⟨rfl, rfl⟩
theorem Layout.iabs (u : Bool) (a : BitVec 7) (d : BitVec 7) : Layout.Statement (.iabs u a d) := ⟨rfl, rfl⟩
theorem Layout.iabsX (x : Ext) : Layout.Statement (.iabsX x) := ⟨rfl, rfl⟩
theorem Layout.iand (u : Bool) (b : BitVec 7) (a : BitVec 7) (d : BitVec 7) : Layout.Statement (.iand u b a d) := ⟨rfl, rfl⟩
theorem Layout.iandX (x : Ext) : Layout.Statement (.iandX x) := ⟨rfl, rfl⟩
theorem Layout.ior (u : Bool) (b : BitVec 7) (a : BitVec 7) (d : BitVec 7) : Layout.Statement (.ior u b a d) := ⟨rfl, rfl⟩
theorem Layout.iorX (x : Ext) : Layout.Statement (.iorX x) := ⟨rfl, rfl⟩
theorem Layout.ixor (u : Bool) (b : BitVec 7) (a : BitVec 7) (d : BitVec 7) : Layout.Statement (.ixor u b a d) := ⟨rfl, rfl⟩
theorem Layout.ixorX (x : Ext) : Layout.Statement (.ixorX x) := ⟨rfl, rfl⟩
theorem Layout.inot (u : Bool) (a : BitVec 7) (d : BitVec 7) : Layout.Statement (.inot u a d) := ⟨rfl, rfl⟩
theorem Layout.inotX (x : Ext) : Layout.Statement (.inotX x) := ⟨rfl, rfl⟩
theorem Layout.shl (u : Bool) (b : BitVec 7) (a : BitVec 7) (d : BitVec 7) : Layout.Statement (.shl u b a d) := ⟨rfl, rfl⟩
theorem Layout.shlX (x : Ext) : Layout.Statement (.shlX x) := ⟨rfl, rfl⟩
theorem Layout.shr (u : Bool) (b : BitVec 7) (a : BitVec 7) (d : BitVec 7) : Layout.Statement (.shr u b a d) := ⟨rfl, rfl⟩
theorem Layout.shrX (x : Ext) : Layout.Statement (.shrX x) := ⟨rfl, rfl⟩
theorem Layout.sar (u : Bool) (b : BitVec 7) (a : BitVec 7) (d : BitVec 7) : Layout.Statement (.sar u b a d) := ⟨rfl, rfl⟩
theorem Layout.sarX (x : Ext) : Layout.Statement (.sarX x) := ⟨rfl, rfl⟩
theorem Layout.rot (u : Bool) (b : BitVec 7) (a : BitVec 7) (d : BitVec 7) : Layout.Statement (.rot u b a d) := ⟨rfl, rfl⟩
theorem Layout.rotX (x : Ext) : Layout.Statement (.rotX x) := ⟨rfl, rfl⟩
theorem Layout.bfx (u : Bool) (b : BitVec 7) (a : BitVec 7) (d : BitVec 7) : Layout.Statement (.bfx u b a d) := ⟨rfl, rfl⟩
theorem Layout.bfxX (x : Ext) : Layout.Statement (.bfxX x) := ⟨rfl, rfl⟩
theorem Layout.bfi (u : Bool) (b : BitVec 7) (a : BitVec 7) (d : BitVec 7) : Layout.Statement (.bfi u b a d) := ⟨rfl, rfl⟩
theorem Layout.bfiX (x : Ext) : Layout.Statement (.bfiX x) := ⟨rfl, rfl⟩
theorem Layout.popc (u : Bool) (a : BitVec 7) (d : BitVec 7) : Layout.Statement (.popc u a d) := ⟨rfl, rfl⟩
theorem Layout.popcX (x : Ext) : Layout.Statement (.popcX x) := ⟨rfl, rfl⟩
theorem Layout.clz (u : Bool) (a : BitVec 7) (d : BitVec 7) : Layout.Statement (.clz u a d) := ⟨rfl, rfl⟩
theorem Layout.clzX (x : Ext) : Layout.Statement (.clzX x) := ⟨rfl, rfl⟩
theorem Layout.brev (u : Bool) (a : BitVec 7) (d : BitVec 7) : Layout.Statement (.brev u a d) := ⟨rfl, rfl⟩
theorem Layout.brevX (x : Ext) : Layout.Statement (.brevX x) := ⟨rfl, rfl⟩
theorem Layout.lea (u : Bool) (b : BitVec 7) (a : BitVec 7) (d : BitVec 7) : Layout.Statement (.lea u b a d) := ⟨rfl, rfl⟩
theorem Layout.leaX (x : Ext) : Layout.Statement (.leaX x) := ⟨rfl, rfl⟩
theorem Layout.mov (u : Bool) (a : BitVec 7) (d : BitVec 7) : Layout.Statement (.mov u a d) := ⟨rfl, rfl⟩
theorem Layout.movX (x : Ext) : Layout.Statement (.movX x) := ⟨rfl, rfl⟩
theorem Layout.movl (u : Bool) (d : BitVec 7) (lit : DWord) : Layout.Statement (.movl u d lit) := ⟨rfl, rfl⟩
theorem Layout.movlX (x : Ext) : Layout.Statement (.movlX x) := ⟨rfl, rfl⟩
theorem Layout.sel (x : Ext) : Layout.Statement (.sel x) := ⟨rfl, rfl⟩
theorem Layout.icmp (x : Ext) : Layout.Statement (.icmp x) := ⟨rfl, rfl⟩
theorem Layout.plop (x : Ext) : Layout.Statement (.plop x) := ⟨rfl, rfl⟩
theorem Layout.pmov (x : Ext) : Layout.Statement (.pmov x) := ⟨rfl, rfl⟩
theorem Layout.cvti (u : Bool) (a : BitVec 7) (d : BitVec 7) : Layout.Statement (.cvti u a d) := ⟨rfl, rfl⟩
theorem Layout.cvtiX (x : Ext) : Layout.Statement (.cvtiX x) := ⟨rfl, rfl⟩
theorem Layout.idot4 (u : Bool) (b : BitVec 7) (a : BitVec 7) (d : BitVec 7) : Layout.Statement (.idot4 u b a d) := ⟨rfl, rfl⟩
theorem Layout.idot4X (x : Ext) : Layout.Statement (.idot4X x) := ⟨rfl, rfl⟩
theorem Layout.fadd (b : BitVec 7) (a : BitVec 7) (d : BitVec 7) : Layout.Statement (.fadd b a d) := ⟨rfl, rfl⟩
theorem Layout.faddX (x : Ext) : Layout.Statement (.faddX x) := ⟨rfl, rfl⟩
theorem Layout.fsub (b : BitVec 7) (a : BitVec 7) (d : BitVec 7) : Layout.Statement (.fsub b a d) := ⟨rfl, rfl⟩
theorem Layout.fsubX (x : Ext) : Layout.Statement (.fsubX x) := ⟨rfl, rfl⟩
theorem Layout.fmul (b : BitVec 7) (a : BitVec 7) (d : BitVec 7) : Layout.Statement (.fmul b a d) := ⟨rfl, rfl⟩
theorem Layout.fmulX (x : Ext) : Layout.Statement (.fmulX x) := ⟨rfl, rfl⟩
theorem Layout.ffma (b : BitVec 7) (a : BitVec 7) (d : BitVec 7) : Layout.Statement (.ffma b a d) := ⟨rfl, rfl⟩
theorem Layout.ffmaX (x : Ext) : Layout.Statement (.ffmaX x) := ⟨rfl, rfl⟩
theorem Layout.fdiv (b : BitVec 7) (a : BitVec 7) (d : BitVec 7) : Layout.Statement (.fdiv b a d) := ⟨rfl, rfl⟩
theorem Layout.fdivX (x : Ext) : Layout.Statement (.fdivX x) := ⟨rfl, rfl⟩
theorem Layout.fsqrt (a : BitVec 7) (d : BitVec 7) : Layout.Statement (.fsqrt a d) := ⟨rfl, rfl⟩
theorem Layout.fsqrtX (x : Ext) : Layout.Statement (.fsqrtX x) := ⟨rfl, rfl⟩
theorem Layout.fsqr (a : BitVec 7) (d : BitVec 7) : Layout.Statement (.fsqr a d) := ⟨rfl, rfl⟩
theorem Layout.fsqrX (x : Ext) : Layout.Statement (.fsqrX x) := ⟨rfl, rfl⟩
theorem Layout.frcp (a : BitVec 7) (d : BitVec 7) : Layout.Statement (.frcp a d) := ⟨rfl, rfl⟩
theorem Layout.frcpX (x : Ext) : Layout.Statement (.frcpX x) := ⟨rfl, rfl⟩
theorem Layout.frsqrt (a : BitVec 7) (d : BitVec 7) : Layout.Statement (.frsqrt a d) := ⟨rfl, rfl⟩
theorem Layout.frsqrtX (x : Ext) : Layout.Statement (.frsqrtX x) := ⟨rfl, rfl⟩
theorem Layout.fabs (a : BitVec 7) (d : BitVec 7) : Layout.Statement (.fabs a d) := ⟨rfl, rfl⟩
theorem Layout.fabsX (x : Ext) : Layout.Statement (.fabsX x) := ⟨rfl, rfl⟩
theorem Layout.fneg (a : BitVec 7) (d : BitVec 7) : Layout.Statement (.fneg a d) := ⟨rfl, rfl⟩
theorem Layout.fnegX (x : Ext) : Layout.Statement (.fnegX x) := ⟨rfl, rfl⟩
theorem Layout.fmin (b : BitVec 7) (a : BitVec 7) (d : BitVec 7) : Layout.Statement (.fmin b a d) := ⟨rfl, rfl⟩
theorem Layout.fminX (x : Ext) : Layout.Statement (.fminX x) := ⟨rfl, rfl⟩
theorem Layout.fmax (b : BitVec 7) (a : BitVec 7) (d : BitVec 7) : Layout.Statement (.fmax b a d) := ⟨rfl, rfl⟩
theorem Layout.fmaxX (x : Ext) : Layout.Statement (.fmaxX x) := ⟨rfl, rfl⟩
theorem Layout.fhull (b : BitVec 7) (a : BitVec 7) (d : BitVec 7) : Layout.Statement (.fhull b a d) := ⟨rfl, rfl⟩
theorem Layout.fhullX (x : Ext) : Layout.Statement (.fhullX x) := ⟨rfl, rfl⟩
theorem Layout.fisect (b : BitVec 7) (a : BitVec 7) (d : BitVec 7) : Layout.Statement (.fisect b a d) := ⟨rfl, rfl⟩
theorem Layout.fisectX (x : Ext) : Layout.Statement (.fisectX x) := ⟨rfl, rfl⟩
theorem Layout.fmk (b : BitVec 7) (a : BitVec 7) (d : BitVec 7) : Layout.Statement (.fmk b a d) := ⟨rfl, rfl⟩
theorem Layout.fmkX (x : Ext) : Layout.Statement (.fmkX x) := ⟨rfl, rfl⟩
theorem Layout.flo (a : BitVec 7) (d : BitVec 7) : Layout.Statement (.flo a d) := ⟨rfl, rfl⟩
theorem Layout.floX (x : Ext) : Layout.Statement (.floX x) := ⟨rfl, rfl⟩
theorem Layout.fhi (a : BitVec 7) (d : BitVec 7) : Layout.Statement (.fhi a d) := ⟨rfl, rfl⟩
theorem Layout.fhiX (x : Ext) : Layout.Statement (.fhiX x) := ⟨rfl, rfl⟩
theorem Layout.fmid (a : BitVec 7) (d : BitVec 7) : Layout.Statement (.fmid a d) := ⟨rfl, rfl⟩
theorem Layout.fmidX (x : Ext) : Layout.Statement (.fmidX x) := ⟨rfl, rfl⟩
theorem Layout.frad (a : BitVec 7) (d : BitVec 7) : Layout.Statement (.frad a d) := ⟨rfl, rfl⟩
theorem Layout.fradX (x : Ext) : Layout.Statement (.fradX x) := ⟨rfl, rfl⟩
theorem Layout.fwid (a : BitVec 7) (d : BitVec 7) : Layout.Statement (.fwid a d) := ⟨rfl, rfl⟩
theorem Layout.fwidX (x : Ext) : Layout.Statement (.fwidX x) := ⟨rfl, rfl⟩
theorem Layout.fmig (a : BitVec 7) (d : BitVec 7) : Layout.Statement (.fmig a d) := ⟨rfl, rfl⟩
theorem Layout.fmigX (x : Ext) : Layout.Statement (.fmigX x) := ⟨rfl, rfl⟩
theorem Layout.fmag (a : BitVec 7) (d : BitVec 7) : Layout.Statement (.fmag a d) := ⟨rfl, rfl⟩
theorem Layout.fmagX (x : Ext) : Layout.Statement (.fmagX x) := ⟨rfl, rfl⟩
theorem Layout.fbis (x : Ext) : Layout.Statement (.fbis x) := ⟨rfl, rfl⟩
theorem Layout.fcmp (x : Ext) : Layout.Statement (.fcmp x) := ⟨rfl, rfl⟩
theorem Layout.fset (x : Ext) : Layout.Statement (.fset x) := ⟨rfl, rfl⟩
theorem Layout.fclass (a : BitVec 7) (d : BitVec 7) : Layout.Statement (.fclass a d) := ⟨rfl, rfl⟩
theorem Layout.fclassX (x : Ext) : Layout.Statement (.fclassX x) := ⟨rfl, rfl⟩
theorem Layout.fdec (a : BitVec 7) (d : BitVec 7) : Layout.Statement (.fdec a d) := ⟨rfl, rfl⟩
theorem Layout.fdecX (x : Ext) : Layout.Statement (.fdecX x) := ⟨rfl, rfl⟩
theorem Layout.fcvt (a : BitVec 7) (d : BitVec 7) : Layout.Statement (.fcvt a d) := ⟨rfl, rfl⟩
theorem Layout.fcvtX (x : Ext) : Layout.Statement (.fcvtX x) := ⟨rfl, rfl⟩
theorem Layout.fcvti (a : BitVec 7) (d : BitVec 7) : Layout.Statement (.fcvti a d) := ⟨rfl, rfl⟩
theorem Layout.fcvtiX (x : Ext) : Layout.Statement (.fcvtiX x) := ⟨rfl, rfl⟩
theorem Layout.fpown (b : BitVec 7) (a : BitVec 7) (d : BitVec 7) : Layout.Statement (.fpown b a d) := ⟨rfl, rfl⟩
theorem Layout.fpownX (x : Ext) : Layout.Statement (.fpownX x) := ⟨rfl, rfl⟩
theorem Layout.fldexp (b : BitVec 7) (a : BitVec 7) (d : BitVec 7) : Layout.Statement (.fldexp b a d) := ⟨rfl, rfl⟩
theorem Layout.fldexpX (x : Ext) : Layout.Statement (.fldexpX x) := ⟨rfl, rfl⟩
theorem Layout.fmov (a : BitVec 7) (d : BitVec 7) : Layout.Statement (.fmov a d) := ⟨rfl, rfl⟩
theorem Layout.fmovX (x : Ext) : Layout.Statement (.fmovX x) := ⟨rfl, rfl⟩
theorem Layout.fsel (x : Ext) : Layout.Statement (.fsel x) := ⟨rfl, rfl⟩
theorem Layout.fmovl (d : BitVec 7) (lit : DWord) : Layout.Statement (.fmovl d lit) := ⟨rfl, rfl⟩
theorem Layout.fmovlX (x : Ext) : Layout.Statement (.fmovlX x) := ⟨rfl, rfl⟩
theorem Layout.rmax (x : Ext) : Layout.Statement (.rmax x) := ⟨rfl, rfl⟩
theorem Layout.rsum (x : Ext) : Layout.Statement (.rsum x) := ⟨rfl, rfl⟩
theorem Layout.rstat (x : Ext) : Layout.Statement (.rstat x) := ⟨rfl, rfl⟩
theorem Layout.smxu (x : Ext) : Layout.Statement (.smxu x) := ⟨rfl, rfl⟩
theorem Layout.smxa (x : Ext) : Layout.Statement (.smxa x) := ⟨rfl, rfl⟩
theorem Layout.rnorm (x : Ext) : Layout.Statement (.rnorm x) := ⟨rfl, rfl⟩
theorem Layout.dadd (b : BitVec 7) (a : BitVec 7) (d : BitVec 7) : Layout.Statement (.dadd b a d) := ⟨rfl, rfl⟩
theorem Layout.daddX (x : Ext) : Layout.Statement (.daddX x) := ⟨rfl, rfl⟩
theorem Layout.dsub (b : BitVec 7) (a : BitVec 7) (d : BitVec 7) : Layout.Statement (.dsub b a d) := ⟨rfl, rfl⟩
theorem Layout.dsubX (x : Ext) : Layout.Statement (.dsubX x) := ⟨rfl, rfl⟩
theorem Layout.dmul (b : BitVec 7) (a : BitVec 7) (d : BitVec 7) : Layout.Statement (.dmul b a d) := ⟨rfl, rfl⟩
theorem Layout.dmulX (x : Ext) : Layout.Statement (.dmulX x) := ⟨rfl, rfl⟩
theorem Layout.dfma (b : BitVec 7) (a : BitVec 7) (d : BitVec 7) : Layout.Statement (.dfma b a d) := ⟨rfl, rfl⟩
theorem Layout.dfmaX (x : Ext) : Layout.Statement (.dfmaX x) := ⟨rfl, rfl⟩
theorem Layout.ddiv (b : BitVec 7) (a : BitVec 7) (d : BitVec 7) : Layout.Statement (.ddiv b a d) := ⟨rfl, rfl⟩
theorem Layout.ddivX (x : Ext) : Layout.Statement (.ddivX x) := ⟨rfl, rfl⟩
theorem Layout.dsqrt (a : BitVec 7) (d : BitVec 7) : Layout.Statement (.dsqrt a d) := ⟨rfl, rfl⟩
theorem Layout.dsqrtX (x : Ext) : Layout.Statement (.dsqrtX x) := ⟨rfl, rfl⟩
theorem Layout.dcmp (x : Ext) : Layout.Statement (.dcmp x) := ⟨rfl, rfl⟩
theorem Layout.dcvt (a : BitVec 7) (d : BitVec 7) : Layout.Statement (.dcvt a d) := ⟨rfl, rfl⟩
theorem Layout.dcvtX (x : Ext) : Layout.Statement (.dcvtX x) := ⟨rfl, rfl⟩
theorem Layout.fexp (a : BitVec 7) (d : BitVec 7) : Layout.Statement (.fexp a d) := ⟨rfl, rfl⟩
theorem Layout.fexpX (x : Ext) : Layout.Statement (.fexpX x) := ⟨rfl, rfl⟩
theorem Layout.fexp2 (a : BitVec 7) (d : BitVec 7) : Layout.Statement (.fexp2 a d) := ⟨rfl, rfl⟩
theorem Layout.fexp2X (x : Ext) : Layout.Statement (.fexp2X x) := ⟨rfl, rfl⟩
theorem Layout.flog (a : BitVec 7) (d : BitVec 7) : Layout.Statement (.flog a d) := ⟨rfl, rfl⟩
theorem Layout.flogX (x : Ext) : Layout.Statement (.flogX x) := ⟨rfl, rfl⟩
theorem Layout.flog2 (a : BitVec 7) (d : BitVec 7) : Layout.Statement (.flog2 a d) := ⟨rfl, rfl⟩
theorem Layout.flog2X (x : Ext) : Layout.Statement (.flog2X x) := ⟨rfl, rfl⟩
theorem Layout.ftanh (a : BitVec 7) (d : BitVec 7) : Layout.Statement (.ftanh a d) := ⟨rfl, rfl⟩
theorem Layout.ftanhX (x : Ext) : Layout.Statement (.ftanhX x) := ⟨rfl, rfl⟩
theorem Layout.fsig (a : BitVec 7) (d : BitVec 7) : Layout.Statement (.fsig a d) := ⟨rfl, rfl⟩
theorem Layout.fsigX (x : Ext) : Layout.Statement (.fsigX x) := ⟨rfl, rfl⟩
theorem Layout.ferf (a : BitVec 7) (d : BitVec 7) : Layout.Statement (.ferf a d) := ⟨rfl, rfl⟩
theorem Layout.ferfX (x : Ext) : Layout.Statement (.ferfX x) := ⟨rfl, rfl⟩
theorem Layout.fsin (a : BitVec 7) (d : BitVec 7) : Layout.Statement (.fsin a d) := ⟨rfl, rfl⟩
theorem Layout.fsinX (x : Ext) : Layout.Statement (.fsinX x) := ⟨rfl, rfl⟩
theorem Layout.fcos (a : BitVec 7) (d : BitVec 7) : Layout.Statement (.fcos a d) := ⟨rfl, rfl⟩
theorem Layout.fcosX (x : Ext) : Layout.Statement (.fcosX x) := ⟨rfl, rfl⟩
theorem Layout.fgelu (a : BitVec 7) (d : BitVec 7) : Layout.Statement (.fgelu a d) := ⟨rfl, rfl⟩
theorem Layout.fgeluX (x : Ext) : Layout.Statement (.fgeluX x) := ⟨rfl, rfl⟩
theorem Layout.fsilu (a : BitVec 7) (d : BitVec 7) : Layout.Statement (.fsilu a d) := ⟨rfl, rfl⟩
theorem Layout.fsiluX (x : Ext) : Layout.Statement (.fsiluX x) := ⟨rfl, rfl⟩
theorem Layout.fgate (b : BitVec 7) (a : BitVec 7) (d : BitVec 7) : Layout.Statement (.fgate b a d) := ⟨rfl, rfl⟩
theorem Layout.fgateX (x : Ext) : Layout.Statement (.fgateX x) := ⟨rfl, rfl⟩
theorem Layout.ld (a : BitVec 7) (d : BitVec 7) : Layout.Statement (.ld a d) := ⟨rfl, rfl⟩
theorem Layout.ldX (x : Ext) : Layout.Statement (.ldX x) := ⟨rfl, rfl⟩
theorem Layout.st (b : BitVec 7) (a : BitVec 7) : Layout.Statement (.st b a) := ⟨rfl, rfl⟩
theorem Layout.stX (x : Ext) : Layout.Statement (.stX x) := ⟨rfl, rfl⟩
theorem Layout.ldf (a : BitVec 7) (d : BitVec 7) : Layout.Statement (.ldf a d) := ⟨rfl, rfl⟩
theorem Layout.ldfX (x : Ext) : Layout.Statement (.ldfX x) := ⟨rfl, rfl⟩
theorem Layout.stf (b : BitVec 7) (a : BitVec 7) : Layout.Statement (.stf b a) := ⟨rfl, rfl⟩
theorem Layout.stfX (x : Ext) : Layout.Statement (.stfX x) := ⟨rfl, rfl⟩
theorem Layout.sld (x : Ext) : Layout.Statement (.sld x) := ⟨rfl, rfl⟩
theorem Layout.sst (x : Ext) : Layout.Statement (.sst x) := ⟨rfl, rfl⟩
theorem Layout.atom (b : BitVec 7) (a : BitVec 7) (d : BitVec 7) : Layout.Statement (.atom b a d) := ⟨rfl, rfl⟩
theorem Layout.atomX (x : Ext) : Layout.Statement (.atomX x) := ⟨rfl, rfl⟩
theorem Layout.atomf (b : BitVec 7) (a : BitVec 7) (d : BitVec 7) : Layout.Statement (.atomf b a d) := ⟨rfl, rfl⟩
theorem Layout.atomfX (x : Ext) : Layout.Statement (.atomfX x) := ⟨rfl, rfl⟩
theorem Layout.red (b : BitVec 7) (a : BitVec 7) : Layout.Statement (.red b a) := ⟨rfl, rfl⟩
theorem Layout.redX (x : Ext) : Layout.Statement (.redX x) := ⟨rfl, rfl⟩
theorem Layout.cas (b : BitVec 7) (a : BitVec 7) (d : BitVec 7) : Layout.Statement (.cas b a d) := ⟨rfl, rfl⟩
theorem Layout.casX (x : Ext) : Layout.Statement (.casX x) := ⟨rfl, rfl⟩
theorem Layout.fence : Layout.Statement (.fence) := ⟨rfl, rfl⟩
theorem Layout.fenceX (x : Ext) : Layout.Statement (.fenceX x) := ⟨rfl, rfl⟩
theorem Layout.pref (a : BitVec 7) : Layout.Statement (.pref a) := ⟨rfl, rfl⟩
theorem Layout.prefX (x : Ext) : Layout.Statement (.prefX x) := ⟨rfl, rfl⟩
theorem Layout.cctl : Layout.Statement (.cctl) := ⟨rfl, rfl⟩
theorem Layout.cctlX (x : Ext) : Layout.Statement (.cctlX x) := ⟨rfl, rfl⟩
theorem Layout.smap (x : Ext) : Layout.Statement (.smap x) := ⟨rfl, rfl⟩
theorem Layout.sunmap (x : Ext) : Layout.Statement (.sunmap x) := ⟨rfl, rfl⟩
theorem Layout.sflush (x : Ext) : Layout.Statement (.sflush x) := ⟨rfl, rfl⟩
theorem Layout.sqry (x : Ext) : Layout.Statement (.sqry x) := ⟨rfl, rfl⟩
theorem Layout.cpy (x : Ext) : Layout.Statement (.cpy x) := ⟨rfl, rfl⟩
theorem Layout.cpyg (x : Ext) : Layout.Statement (.cpyg x) := ⟨rfl, rfl⟩
theorem Layout.cpya (x : Ext) : Layout.Statement (.cpya x) := ⟨rfl, rfl⟩
theorem Layout.cpyq (x : Ext) : Layout.Statement (.cpyq x) := ⟨rfl, rfl⟩
theorem Layout.binit (x : Ext) : Layout.Statement (.binit x) := ⟨rfl, rfl⟩
theorem Layout.barr (x : Ext) : Layout.Statement (.barr x) := ⟨rfl, rfl⟩
theorem Layout.bwait (x : Ext) : Layout.Statement (.bwait x) := ⟨rfl, rfl⟩
theorem Layout.btest (x : Ext) : Layout.Statement (.btest x) := ⟨rfl, rfl⟩
theorem Layout.mma (x : Ext) : Layout.Statement (.mma x) := ⟨rfl, rfl⟩
theorem Layout.mmaq (x : Ext) : Layout.Statement (.mmaq x) := ⟨rfl, rfl⟩
theorem Layout.mmai (x : Ext) : Layout.Statement (.mmai x) := ⟨rfl, rfl⟩
theorem Layout.mtrn (x : Ext) : Layout.Statement (.mtrn x) := ⟨rfl, rfl⟩
theorem Layout.mperm (x : Ext) : Layout.Statement (.mperm x) := ⟨rfl, rfl⟩
theorem Layout.mred (x : Ext) : Layout.Statement (.mred x) := ⟨rfl, rfl⟩
theorem Layout.xopen (x : Ext) : Layout.Statement (.xopen x) := ⟨rfl, rfl⟩
theorem Layout.xnext (x : Ext) : Layout.Statement (.xnext x) := ⟨rfl, rfl⟩
theorem Layout.xnext2 (x : Ext) : Layout.Statement (.xnext2 x) := ⟨rfl, rfl⟩
theorem Layout.xisect (x : Ext) : Layout.Statement (.xisect x) := ⟨rfl, rfl⟩
theorem Layout.xunion (x : Ext) : Layout.Statement (.xunion x) := ⟨rfl, rfl⟩
theorem Layout.xskip (x : Ext) : Layout.Statement (.xskip x) := ⟨rfl, rfl⟩
theorem Layout.xclose (x : Ext) : Layout.Statement (.xclose x) := ⟨rfl, rfl⟩
theorem Layout.xsave (x : Ext) : Layout.Statement (.xsave x) := ⟨rfl, rfl⟩
theorem Layout.xload (x : Ext) : Layout.Statement (.xload x) := ⟨rfl, rfl⟩
theorem Layout.xpos (x : Ext) : Layout.Statement (.xpos x) := ⟨rfl, rfl⟩
theorem Layout.vote (x : Ext) : Layout.Statement (.vote x) := ⟨rfl, rfl⟩
theorem Layout.shfl (x : Ext) : Layout.Statement (.shfl x) := ⟨rfl, rfl⟩
theorem Layout.fshfl (x : Ext) : Layout.Statement (.fshfl x) := ⟨rfl, rfl⟩
theorem Layout.matchV (x : Ext) : Layout.Statement (.matchV x) := ⟨rfl, rfl⟩
theorem Layout.redux (x : Ext) : Layout.Statement (.redux x) := ⟨rfl, rfl⟩
theorem Layout.scan (x : Ext) : Layout.Statement (.scan x) := ⟨rfl, rfl⟩
theorem Layout.srd (x : Ext) : Layout.Statement (.srd x) := ⟨rfl, rfl⟩
theorem Layout.swr (x : Ext) : Layout.Statement (.swr x) := ⟨rfl, rfl⟩
theorem Layout.topo (a : BitVec 7) (d : BitVec 7) : Layout.Statement (.topo a d) := ⟨rfl, rfl⟩
theorem Layout.topoX (x : Ext) : Layout.Statement (.topoX x) := ⟨rfl, rfl⟩
theorem Layout.time (d : BitVec 7) : Layout.Statement (.time d) := ⟨rfl, rfl⟩
theorem Layout.timeX (x : Ext) : Layout.Statement (.timeX x) := ⟨rfl, rfl⟩
theorem Layout.perf (x : Ext) : Layout.Statement (.perf x) := ⟨rfl, rfl⟩
theorem Layout.rte : Layout.Statement (.rte) := ⟨rfl, rfl⟩
theorem Layout.rteX : Layout.Statement (.rteX) := ⟨rfl, rfl⟩
theorem Layout.csave (x : Ext) : Layout.Statement (.csave x) := ⟨rfl, rfl⟩
theorem Layout.cload (x : Ext) : Layout.Statement (.cload x) := ⟨rfl, rfl⟩
theorem Layout.rgnclr (x : Ext) : Layout.Statement (.rgnclr x) := ⟨rfl, rfl⟩
theorem Layout.tlbinv (x : Ext) : Layout.Statement (.tlbinv x) := ⟨rfl, rfl⟩
theorem Layout.trapEntry : Layout.Statement (.trapEntry) := rfl
theorem Layout.fenceComplete : Layout.Statement (.fenceComplete) := rfl
theorem Layout.sleepEnd : Layout.Statement (.sleepEnd) := rfl
theorem Layout.waitmTimeout : Layout.Statement (.waitmTimeout) := rfl
theorem Layout.warpActivate : Layout.Statement (.warpActivate) := rfl
theorem Layout.scratchClear : Layout.Statement (.scratchClear) := rfl
theorem Layout.readReq : Layout.Statement (.readReq) := rfl
theorem Layout.readGrant : Layout.Statement (.readGrant) := rfl
theorem Layout.exclReq : Layout.Statement (.exclReq) := rfl
theorem Layout.exclWaitExpire : Layout.Statement (.exclWaitExpire) := rfl
theorem Layout.exclGrant : Layout.Statement (.exclGrant) := rfl
theorem Layout.storeReq : Layout.Statement (.storeReq) := rfl
theorem Layout.writePerform : Layout.Statement (.writePerform) := rfl
theorem Layout.storeAck : Layout.Statement (.storeAck) := rfl
theorem Layout.atomReq : Layout.Statement (.atomReq) := rfl
theorem Layout.atomAck : Layout.Statement (.atomAck) := rfl
theorem Layout.forward : Layout.Statement (.forward) := rfl
theorem Layout.fwdData : Layout.Statement (.fwdData) := rfl
theorem Layout.writeback : Layout.Statement (.writeback) := rfl
theorem Layout.recall : Layout.Statement (.recall) := rfl
theorem Layout.renew : Layout.Statement (.renew) := rfl
theorem Layout.renewTimer : Layout.Statement (.renewTimer) := rfl
theorem Layout.holderLeaseBound : Layout.Statement (.holderLeaseBound) := rfl
theorem Layout.watchSet : Layout.Statement (.watchSet) := rfl
theorem Layout.watchFire : Layout.Statement (.watchFire) := rfl
theorem Layout.watchTimeout : Layout.Statement (.watchTimeout) := rfl
theorem Layout.lostNotice : Layout.Statement (.lostNotice) := rfl
theorem Layout.unknownMessage : Layout.Statement (.unknownMessage) := rfl
theorem Layout.xexpReached : Layout.Statement (.xexpReached) := rfl
theorem Layout.holderDeadTimeout : Layout.Statement (.holderDeadTimeout) := rfl
theorem Layout.sharedExpire : Layout.Statement (.sharedExpire) := rfl
theorem Layout.lenDouble : Layout.Statement (.lenDouble) := rfl
theorem Layout.regionMerge : Layout.Statement (.regionMerge) := rfl
theorem Layout.lostClearRequest : Layout.Statement (.lostClearRequest) := rfl
theorem Layout.homeMemoryFailure : Layout.Statement (.homeMemoryFailure) := rfl
theorem Layout.patrolScrub : Layout.Statement (.patrolScrub) := rfl
theorem Layout.hbmSelfRefresh : Layout.Statement (.hbmSelfRefresh) := rfl
theorem Layout.hbmBwWindow : Layout.Statement (.hbmBwWindow) := rfl
theorem Layout.tcCalibration : Layout.Statement (.tcCalibration) := rfl
theorem Layout.replicaOutOfService : Layout.Statement (.replicaOutOfService) := rfl
theorem Layout.eRaise : Layout.Statement (.eRaise) := rfl
theorem Layout.eLower : Layout.Statement (.eLower) := rfl
theorem Layout.linkLaneFail : Layout.Statement (.linkLaneFail) := rfl
theorem Layout.linkWidthChangeDone : Layout.Statement (.linkWidthChangeDone) := rfl
theorem Layout.linkDisableReroute : Layout.Statement (.linkDisableReroute) := rfl
theorem Layout.kelviaHalfFail : Layout.Statement (.kelviaHalfFail) := rfl
theorem Layout.dieClockChangeDone : Layout.Statement (.dieClockChangeDone) := rfl
theorem Layout.powerSample : Layout.Statement (.powerSample) := rfl
theorem Layout.gatingDelayExpire : Layout.Statement (.gatingDelayExpire) := rfl
theorem Layout.gatingPowerSwitch : Layout.Statement (.gatingPowerSwitch) := rfl
theorem Layout.dieWake : Layout.Statement (.dieWake) := rfl
theorem Layout.dieWakeDone : Layout.Statement (.dieWakeDone) := rfl
theorem Layout.firmwareRetireDie : Layout.Statement (.firmwareRetireDie) := rfl
theorem Layout.walkDone : Layout.Statement (.walkDone) := rfl
theorem Layout.faultRecordRetry : Layout.Statement (.faultRecordRetry) := rfl
theorem Layout.translationInvalidate : Layout.Statement (.translationInvalidate) := rfl
theorem Layout.queueTableWrite : Layout.Statement (.queueTableWrite) := rfl
theorem Layout.queueTailBind : Layout.Statement (.queueTailBind) := rfl
theorem Layout.slotRotation : Layout.Statement (.slotRotation) := rfl
theorem Layout.launchAdmit : Layout.Statement (.launchAdmit) := rfl
theorem Layout.dieReserve : Layout.Statement (.dieReserve) := rfl
theorem Layout.priorityPreempt : Layout.Statement (.priorityPreempt) := rfl
theorem Layout.teamPlace : Layout.Statement (.teamPlace) := rfl
theorem Layout.progressSwap : Layout.Statement (.progressSwap) := rfl
theorem Layout.timeSliceSwap : Layout.Statement (.timeSliceSwap) := rfl
theorem Layout.dieGroupSwap : Layout.Statement (.dieGroupSwap) := rfl
theorem Layout.preemptRequest : Layout.Statement (.preemptRequest) := rfl
theorem Layout.teamResume : Layout.Statement (.teamResume) := rfl
theorem Layout.watchdogFirstLimit : Layout.Statement (.watchdogFirstLimit) := rfl
theorem Layout.watchdogSecondLimit : Layout.Statement (.watchdogSecondLimit) := rfl
theorem Layout.gridComplete : Layout.Statement (.gridComplete) := rfl
theorem Layout.poolGridTermination : Layout.Statement (.poolGridTermination) := rfl
theorem Layout.shellerFullWarp : Layout.Statement (.shellerFullWarp) := rfl
theorem Layout.shellerPartialWarp : Layout.Statement (.shellerPartialWarp) := rfl
theorem Layout.stealSearch : Layout.Statement (.stealSearch) := rfl
theorem Layout.stealRequest : Layout.Statement (.stealRequest) := rfl
theorem Layout.stealReply : Layout.Statement (.stealReply) := rfl
theorem Layout.copyChunkSend : Layout.Statement (.copyChunkSend) := rfl
theorem Layout.copyArrive : Layout.Statement (.copyArrive) := rfl
theorem Layout.matrixGrant : Layout.Statement (.matrixGrant) := rfl
theorem Layout.rowGroupCommit : Layout.Statement (.rowGroupCommit) := rfl
theorem Layout.lookaheadRead : Layout.Statement (.lookaheadRead) := rfl
theorem Layout.sproutBudgetExpire : Layout.Statement (.sproutBudgetExpire) := rfl
theorem Layout.recruitmentReleaseDone : Layout.Statement (.recruitmentReleaseDone) := rfl
theorem Layout.spanIncomingPut : Layout.Statement (.spanIncomingPut) := rfl
theorem Layout.spanIncomingGet : Layout.Statement (.spanIncomingGet) := rfl
theorem Layout.spanIncomingAtomic : Layout.Statement (.spanIncomingAtomic) := rfl
theorem Layout.spanAck : Layout.Statement (.spanAck) := rfl
theorem Layout.spanTimeout : Layout.Statement (.spanTimeout) := rfl
theorem Layout.spanPortFail : Layout.Statement (.spanPortFail) := rfl
theorem Layout.spanPortRestore : Layout.Statement (.spanPortRestore) := rfl
theorem Layout.noticeRetry : Layout.Statement (.noticeRetry) := rfl
theorem Layout.moduleIdWrite : Layout.Statement (.moduleIdWrite) := rfl
theorem Layout.svcErrClear : Layout.Statement (.svcErrClear) := rfl
theorem Layout.deadWrite : Layout.Statement (.deadWrite) := rfl
theorem Layout.fqLogWrite : Layout.Statement (.fqLogWrite) := rfl
theorem Layout.fqReplyResolve : Layout.Statement (.fqReplyResolve) := rfl
theorem Layout.fqReplyDecline : Layout.Statement (.fqReplyDecline) := rfl
theorem Layout.nrDroppedClear : Layout.Statement (.nrDroppedClear) := rfl
theorem Layout.attGoStart : Layout.Statement (.attGoStart) := rfl
theorem Layout.attestationDone : Layout.Statement (.attestationDone) := rfl
theorem Layout.dbgHalt : Layout.Statement (.dbgHalt) := rfl
theorem Layout.dbgResume : Layout.Statement (.dbgResume) := rfl
theorem Layout.dbgDataWrite : Layout.Statement (.dbgDataWrite) := rfl
theorem Layout.incWrite : Layout.Statement (.incWrite) := rfl
theorem Layout.lclrStart : Layout.Statement (.lclrStart) := rfl
theorem Layout.lclrDone : Layout.Statement (.lclrDone) := rfl
theorem Layout.serviceRegisterWrite : Layout.Statement (.serviceRegisterWrite) := rfl
theorem Layout.serviceUndefinedAccess : Layout.Statement (.serviceUndefinedAccess) := rfl
theorem Layout.bootFirmwareVerify : Layout.Statement (.bootFirmwareVerify) := rfl
theorem Layout.memorySitesTrained : Layout.Statement (.memorySitesTrained) := rfl
theorem Layout.kelviaLinkUp : Layout.Statement (.kelviaLinkUp) := rfl
theorem Layout.dieJoin : Layout.Statement (.dieJoin) := rfl
theorem Layout.fullServiceReached : Layout.Statement (.fullServiceReached) := rfl
theorem Layout.moduleReset : Layout.Statement (.moduleReset) := rfl
theorem Layout.computeDieFailure : Layout.Statement (.computeDieFailure) := rfl
theorem Layout.memorySiteFailure : Layout.Statement (.memorySiteFailure) := rfl
theorem Layout.companionMemoryResponse : Layout.Statement (.companionMemoryResponse) := rfl
theorem Layout.vaultAccessComplete : Layout.Statement (.vaultAccessComplete) := rfl
theorem Layout.outstandingDecrementSend : Layout.Statement (.outstandingDecrementSend) := rfl
theorem Layout.lostClearAnswer : Layout.Statement (.lostClearAnswer) := rfl
theorem Layout.invalidationAcknowledge : Layout.Statement (.invalidationAcknowledge) := rfl

end Sys2Proof.Laws
end

