-- ==== Sys2Proof/Laws/Run.lean ====
section
/-! SUPPORT. Running a decoded layout is executing its instruction. -/

namespace Sys2Proof.Machine

theorem runBase_exec (op : Op) (u : Bool) (b a d : BitVec 7) (i : Instr) (s : State) (h : View.ofBase op u b a d = some i) :
    runBase op u b a d s = exec i s := by
  cases op <;> first
    | (cases h; done)
    | (cases h; rfl)
    | (simp only [View.ofBase] at h; split at h <;> cases h <;> rfl)

theorem runExt_exec (op : Op) (x : Ext) (i : Instr) (s : State) (h : View.ofExt op x = some i) : runExt op x s = exec i s := by
  cases op <;> first
    | (cases h; done)
    | (cases h; rfl)
    | (simp only [View.ofExt] at h; split at h <;> cases h <;> rfl)

/-- The meaning reached from a layout is exec's. -/
theorem run_exec (v : View) (i : Instr) (s : State) (h : v.instr = some i) : runView v s = exec i s := by
  cases v with
  | base op u b a d => exact runBase_exec op u b a d i s h
  | ext op x => exact runExt_exec op x i s h
  | litBase op u d l =>
    cases op <;> first
      | (cases h; done)
      | (cases h; rfl)
      | (simp only [View.instr] at h; split at h <;> cases h <;> rfl)
  | jump op j => cases op <;> cases h <;> rfl
  | jumpX op j g gs => cases op <;> cases h <;> rfl
  | brc c tC l => cases h; rfl
  | brm p3 p2 p1 p0 jn l => cases h; rfl

end Sys2Proof.Machine
end

