-- ==== Sys2Proof/Laws/View.lean ====
section
/-! SUPPORT. Layouts and instructions: a layout that R235 allows has an instruction, and an instruction has the layout it
was read from. -/

namespace Sys2Proof

/-- A layout that R235 allows has an instruction. -/
theorem View.legal_instr (v : View) (h : v.legal = true) : ∃ i, v.instr = some i := by
  cases v with
  | base op u b a d =>
    cases op <;> first
      | exact ⟨_, rfl⟩
      | (exfalso; revert h; exact (by decide : ¬ false = true))
      | (simp only [View.legal, View.baseLegal] at h; simp only [View.instr, View.ofBase, h, if_true]; exact ⟨_, rfl⟩)
      | (simp only [View.legal, View.baseLegal, decide_eq_true_eq] at h; simp only [View.instr, View.ofBase, h, if_true]; exact ⟨_, rfl⟩)
  | ext op x =>
    cases op <;> first
      | exact ⟨_, rfl⟩
      | (exfalso; revert h; exact (by decide : ¬ false = true))
      | (simp only [View.legal, decide_eq_true_eq] at h; simp only [View.instr, View.ofExt, h, if_true]; exact ⟨_, rfl⟩)
  | litBase op u d l =>
    cases op <;> first
      | exact ⟨_, rfl⟩
      | (simp [View.legal] at h; done)
      | (simp [View.legal] at h; simp [View.instr, h])
  | jump op j => cases op <;> first | exact ⟨_, rfl⟩ | (simp [View.legal] at h; done)
  | jumpX op j g gs => cases op <;> first | exact ⟨_, rfl⟩ | (simp [View.legal] at h; done)
  | brc c t l => exact ⟨_, rfl⟩
  | brm a b c d e f => exact ⟨_, rfl⟩
/-- The instruction read from a layout has that layout. -/
theorem View.view_of_instr (v : View) (i : Instr) (h : v.instr = some i) : i.view = some v := by
  cases v with
  | base op u b a d =>
    cases op <;> first
      | (cases h; done)
      | (cases h; rfl)
      | (simp only [View.instr, View.ofBase] at h; split at h <;> [skip; cases h]; rename_i h'; simp at h'; cases h; simp_all [Instr.view])
  | ext op x =>
    cases op <;> first
      | (cases h; done)
      | (cases h; rfl)
      | (simp only [View.instr, View.ofExt] at h; split at h <;> [skip; cases h]; rename_i h'; cases h; simp_all [Instr.view])
  | litBase op u d l =>
    cases op <;> first
      | (cases h; done)
      | (cases h; rfl)
      | (simp only [View.instr] at h; split at h <;> [skip; cases h]; rename_i h'; simp at h'; cases h; simp_all [Instr.view])
  | jump op j => cases op <;> first | (cases h; done) | (cases h; rfl)
  | jumpX op j g gs => cases op <;> first | (cases h; done) | (cases h; rfl)
  | brc c t l => cases h; rfl
  | brm a b c d e f => cases h; rfl
end Sys2Proof
end

