-- ==== Sys2Proof/Tests/Slice0.lean ====
section
/-! SUPPORT. Tests: words of the spec decode to what they stand for, ill-formed terms are refused, and the statements'
hypotheses are met. Expected results are the spec's own worked encodings and examples, or worked out from its tables. -/

namespace Sys2Proof.Tests

open Machine

-- Each theorem below is checked in its turn: many kernel evaluations at once would need too many threads.
set_option Elab.async false

/-! ### Words (the worked encodings of each chapter) -/

theorem test_words_integer :
    decode [0x280808ed, 0x00780185, 0x21] = .ok (.icmp { Ext.fixed with d := .p 2, a := .reg 4, b := .imm 40, mod := 0x21 }, 3) ∧
    decode [0x04041891, 0x00780000, 0x12] = .ok (.imadX { Ext.fixed with d := .reg 6, a := .reg 2, b := .reg 4, mod := 0x12 }, 3) ∧
    decode [0x000024e6, 0x00012345, 0] = .ok (.movl false 9 0x12345, 3) := ⟨rfl, rfl, rfl⟩

theorem test_words_interval :
    decode [0x060411c0] = .ok (.dadd 6 2 4, 1) ∧
    decode [0x02020d0d, 0x00780000, 1] = .ok (.ffmaX { Ext.fixed with d := .reg 3, a := .reg 1, b := .reg 2, mod := 1 }, 3) ∧
    decode [0x05080561, 0x00780005, 0] = .ok (.fcmp { Ext.fixed with d := .p 1, a := .reg 4, b := .reg 5 }, 3) ∧
    decode [0x000c1d5d, 0x00780000, 0x00820001] = .ok (.fbis { Ext.fixed with d := .reg 7, a := .reg 6, e := .p 2, mod := 1 }, 3) ∧
    decode [0x00061971, 0x00780000, 0x00810023] = .ok (.fcvtX { Ext.fixed with d := .reg 6, a := .reg 3, e := .p 1, mod := 0x23 }, 3) ∧
    decode [0x1062c585, 0x007863c0, 0x01000000] = .ok (.fsel { Ext.fixed with d := .reg 49, a := .reg 49, b := .const 16, c := .reg 49, imm := 1 }, 3) :=
  ⟨rfl, rfl, rfl, rfl, rfl, rfl⟩

theorem test_words_functions :
    decode [0x00020a10] = .ok (.ftanh 1 2, 1) ∧
    decode [0x00061601, 0x00780000, 4] = .ok (.fexpX { Ext.fixed with d := .reg 5, a := .reg 3, mod := 4 }, 3) ∧
    decode [0x0508262d, 0x00780000, 0x11] = .ok (.fgateX { Ext.fixed with d := .reg 9, a := .reg 4, b := .reg 5, mod := 0x11 }, 3) ∧
    decode [0x00005199, 0x00780000, 0x08810000] = .ok (.smxu { Ext.fixed with d := .reg 20, a := .reg 0, e := .p 1, imm := 8 }, 3) ∧
    decode [0x1400019d, 0x00780000, 0x08810000] = .ok (.smxa { Ext.fixed with d := .reg 0, a := .reg 0, b := .reg 20, e := .p 1, imm := 8 }, 3) :=
  ⟨rfl, rfl, rfl, rfl, rfl⟩

theorem test_words_matrix :
    decode [0x0c104301, 0x00780090, 0] = .ok (.mma { Ext.fixed with d := .reg 16, a := .s 8, b := .s 12 }, 3) ∧
    decode [0x14200305, 0x00780090, 0x80a] = .ok (.mmaq { Ext.fixed with d := .reg 0, a := .s 16, b := .s 20, mod := 0x80a }, 3) := ⟨rfl, rfl⟩

theorem test_words_streams :
    decode [0x06084341, 0x00780095, 0x01000000] = .ok (.xopen { Ext.fixed with d := .x 0, a := .s 4, b := .s 6, imm := 1 }, 3) ∧
    decode [0x11204b4d, 0x0078016d, 0] = .ok (.xisect { Ext.fixed with d := .x 2, a := .x 0, b := .x 1 }, 3) ∧
    decode [0x00201345, 0x00780028, 0x08810001] = .ok (.xnext { Ext.fixed with d := .reg 4, a := .x 0, e := .p 1, imm := 8, mod := 1 }, 3) ∧
    decode [0x00242b49, 0x00780028, 0x0a830001] = .ok (.xnext2 { Ext.fixed with d := .reg 10, a := .x 2, e := .p 3, imm := 10, mod := 1 }, 3) ∧
    decode [0x00242765, 0x0078002a, 9] = .ok (.xpos { Ext.fixed with d := .s 9, a := .x 2, mod := 9 }, 3) := ⟨rfl, rfl, rfl, rfl, rfl⟩

theorem test_words_memory :
    decode [0x09041e58] = .ok (.atom 9 2 7, 1) ∧ decode [0x00000268] = .ok (.fence, 1) ∧
    decode [0x00000269, 0x00780000, 4] = .ok (.fenceX { Ext.fixed with mod := 4 }, 3) ∧
    decode [0x05040245, 0x007e0000, 0x02000080] = .ok (.stX { Ext.fixed with a := .reg 2, b := .reg 5, c := .imm 0, imm := 2, mod := 0x80 }, 3) ∧
    decode [0x00061a49, 0x00780800, 0x2018] = .ok (.ldfX { Ext.fixed with d := .reg 6, a := .reg 3, c := .reg 4, mod := 0x2018 }, 3) ∧
    decode [0x09182a59, 0x00180c00, 0x2005] = .ok (.atomX { Ext.fixed with d := .reg 10, a := .reg 12, b := .reg 9, c := .reg 6, g := 3, mod := 0x2005 }, 3) ∧
    decode [0x11040261, 0x00282010, 1] = .ok (.redX { Ext.fixed with a := .s 2, b := .reg 17, c := .reg 16, g := 5, mod := 1 }, 3) :=
  ⟨rfl, rfl, rfl, rfl, rfl, rfl, rfl⟩

theorem test_words_scratch_and_copies :
    decode [0x00080285, 0x007e4190, 0x00810001] = .ok (.cpy { Ext.fixed with a := .s 4, b := .imm 0, c := .imm 32, e := .p 1, mod := 1 }, 3) ∧
    decode [0x03340295, 0x007801a8, 0] = .ok (.binit { Ext.fixed with a := .b 2, b := .imm 3 }, 3) ∧
    decode [0x0034029d, 0x00780028, 0x01000000] = .ok (.bwait { Ext.fixed with a := .b 2, imm := 1 }, 3) ∧
    decode [0x7f000277, 0x007a2df0, 0, 0x80, 0] = .ok (.smap { Ext.fixed with a := .imm 0, b := .lit, c := .s 22, lit := some 0x80 }, 5) :=
  ⟨rfl, rfl, rfl, rfl⟩

theorem test_words_control :
    decode [0x00000004] = .ok (.nop, 1) ∧ decode [0x00000014] = .ok (.join, 1) ∧ decode [0x0000001c] = .ok (.ret, 1) ∧ decode [0x00000024] = .ok (.exit, 1) ∧
    decode [0x00000029, 0x00780000, 1] = .ok (.barsyncX { Ext.fixed with mod := 1 }, 3) ∧
    decode [0x0028002d, 0x00780010, 0] = .ok (.waitk { Ext.fixed with a := .s 20 }, 3) ∧
    decode [0x00000013, 0x00004200, 0x0e, 0x000a0006, 0] = .ok (.brm 0 0 2 1 14 0x000a0006, 5) ∧
    decode [0x0000000f, 0x007d0200, 0, 0x00090005, 0x0013000d] = .ok (.brc 1 false 0x0013000d00090005, 5) ∧
    decode [0xffff6408] = .ok (.bra (-39), 1) := ⟨rfl, rfl, rfl, rfl, rfl, rfl, rfl, rfl, rfl⟩

theorem test_words_warpwide :
    decode [0x01102385, 0x007eff80, 0x00820030] = .ok (.shfl { Ext.fixed with d := .reg 8, a := .reg 8, b := .imm 1, c := .imm 127, e := .p 2, mod := 0x30 }, 3) ∧
    decode [0x00081791, 0x007efe00, 0x008f0100] = .ok (.redux { Ext.fixed with d := .reg 5, a := .reg 4, c := .imm 127, e := .p 15, mod := 0x100 }, 3) ∧
    decode [0x000c1f8d, 0x007efe00, 0x00820001] = .ok (.matchV { Ext.fixed with d := .reg 7, a := .reg 6, c := .imm 127, e := .p 2, mod := 1 }, 3) :=
  ⟨rfl, rfl, rfl⟩

theorem test_words_pods_and_sprouts :
    decode [0x000c1847, 0x00780000, 0x00810000, 0x28, 0] = .ok (.split { Ext.fixed with d := .reg 6, a := .reg 6, e := .p 1, lit := some 0x28 }, 5) ∧
    decode [0x000c1847, 0x01900000, 0x00830000, 0xffffffe8, 0] =
      .ok (.split { Ext.fixed with d := .reg 6, a := .reg 6, e := .p 3, g := 2, gs := 3, lit := some 0xffffffe8 }, 5) ∧
    decode [0x0004144c] = .ok (.poolq 2 5, 1) ∧
    decode [0x0840a053, 0x007801b2, 0x00820009, 0x14, 0] =
      .ok (.recruit { Ext.fixed with d := .s 40, a := .imm 32, b := .imm 8, e := .p 2, mod := 9, lit := some 0x14 }, 5) ∧
    decode [0x000c0055, 0x00880000, 9] = .ok (.hend { Ext.fixed with a := .reg 6, g := 1, gs := 1, mod := 9 }, 3) ∧
    decode [0x00602859, 0x00780010, 0x00830008] = .ok (.hjoin { Ext.fixed with d := .reg 10, a := .s 48, e := .p 3, mod := 8 }, 3) :=
  ⟨rfl, rfl, rfl, rfl, rfl, rfl⟩

theorem test_words_traps :
    decode [0x00060040] = .ok (.trap 3, 1) ∧ decode [0x000a0041, 0x00780030, 0] = .ok (.trapX { Ext.fixed with a := .imm 5 }, 3) ∧
    decode [0x008017c1, 0x00780028, 0] = .ok (.srd { Ext.fixed with d := .reg 5, a := .sr .lpc }, 3) ∧
    decode [0x00f8f3c5, 0x00780025, 0] = .ok (.swr { Ext.fixed with d := .sr .tstat, a := .s 380 }, 3) ∧
    decode [0x00041bc8] = .ok (.topo 2 6, 1) ∧ decode [0x000013cc] = .ok (.time 4, 1) ∧ decode [0x000003d4] = .ok (.rte, 1) ∧
    decode [0x00f003d9, 0x00780020, 4] = .ok (.csave { Ext.fixed with a := .s 376, mod := 4 }, 3) ∧
    decode [0x00f803d9, 0x007e21a0, 0] = .ok (.csave { Ext.fixed with a := .s 380, b := .imm 0, c := .imm 16 }, 3) :=
  ⟨rfl, rfl, rfl, rfl, rfl, rfl, rfl, rfl, rfl⟩

/-- The host's form of the first two worked encodings. -/
theorem test_table_word :
    decodeTableWord 32 0x12022100 = some (.fadd 18 1 8) ∧
    decodeTableWord 96 0x007801c002122501 = some (.faddX { Ext.fixed with d := .reg 9, a := .reg 9, b := .const 2 }) := ⟨rfl, rfl⟩

/-- What is no instruction (R234 to R236): too few words, a reserved opcode, a length the opcode does not have, a
reserved bit, and a reserved selector. -/
theorem test_words_refused :
    decode [] = .error .truncated ∧ decode [0x00041241, 0x007e0000] = .error .truncated ∧ decode [0] = .error .opcode ∧ decode [0x3fc] = .error .opcode ∧
    decode [0x12022102, 0, 0] = .error .form ∧ decode [0x02122501, 0x407801c0, 0] = .error .reservedBits ∧ decode [0x02122501, 0x00780040, 0] = .error .selector :=
  ⟨rfl, rfl, rfl, rfl, rfl, rfl, rfl⟩

/-! ### Ill-formed terms, one for each check of R236 -/

theorem test_bad_uBit : (Instr.faddX { Ext.fixed with u := true }).bad = some .uBit := rfl
/-- JOIN takes no guard: its constructor has none, so the check is shown on the fields. -/
theorem test_bad_guard : Ext.check .join { Ext.fixed with g := 3 } = some .guard ∧ (Instr.yieldX { Ext.fixed with g := 3 }).wf = true := ⟨rfl, rfl⟩
theorem test_bad_mod : (Instr.faddX { Ext.fixed with mod := 0x8000 }).bad = some .mod := rfl
theorem test_bad_imm : (Instr.faddX { Ext.fixed with imm := 1 }).bad = some .imm := rfl
theorem test_bad_posD : (Instr.faddX { Ext.fixed with d := .p 1 }).bad = some .posD := rfl
theorem test_bad_posA : (Instr.faddX { Ext.fixed with a := .sr .lane }).bad = some .posA := rfl
theorem test_bad_posB : (Instr.faddX { Ext.fixed with b := .x 0 }).bad = some .posB := rfl
theorem test_bad_posC : (Instr.faddX { Ext.fixed with c := .reg 1 }).bad = some .posC := rfl
theorem test_bad_posE : (Instr.fbis { Ext.fixed with e := .reg 3 }).bad = some .posE := rfl
theorem test_bad_tBit : (Instr.faddX { Ext.fixed with tC := true }).bad = some .tBit := rfl
theorem test_bad_flush : (Instr.iaddX { Ext.fixed with fzi := true }).bad = some .flush := rfl
theorem test_bad_literal : (Instr.faddX { Ext.fixed with lit := some 0 }).bad = some .literal := rfl
theorem test_bad_pair : (Instr.dadd 6 3 4).bad = some .posA := rfl

/-! ### The statements' hypotheses are met -/


/-- The state in which the placed warp executes. -/
def tS : State := { State.reset.withFetchWord 32 0 with cur := some probeKey, agenda := [] }
def tW : Warp := Warp.start (Regs.start 0x10000 (fullMask 32)) 32 0 0 0 0 true
def put (w : Warp) : State := tS.setWarp probeKey w

/-- What an instruction sees in a state. -/
def sees (s : State) (i : Instr) : Cx :=
  let w := (s.warp? probeKey).getD tW
  match instrForm i with
  | some (op, x, _) => cx s probeKey w op x
  | none => cx s probeKey w .nop Ext.fixed

/-- The instruction may execute in this state. -/
def able (s : State) (i : Instr) : Bool :=
  match instrForm i, s.running with
  | some (op, x, _), some (k, w) => k = probeKey && x.check op = none && s.namesOk k w op x && readiness (s.header k).nS w (w.r.takes x) op (w.named op x) = .go
  | _, _ => false

theorem runs_of_able (s : State) (i : Instr) (h : able s i = true) : ∃ len, Executes i (sees s i) len := by
  unfold able at h
  cases hf : instrForm i with
  | none => simp [hf] at h
  | some f =>
    cases hr : s.running with
    | none => simp [hf, hr] at h
    | some q =>
      obtain ⟨op, x, len⟩ := f
      obtain ⟨k, w⟩ := q
      simp only [hf, hr, Bool.and_eq_true, decide_eq_true_eq] at h
      obtain ⟨⟨⟨hk, hl⟩, hd⟩, hg⟩ := h
      subst hk
      have hw : s.warp? probeKey = some w := by
        unfold State.running at hr
        cases hc : s.cur with
        | none => simp [hc] at hr
        | some k' =>
          simp only [hc, Option.map_eq_some_iff, Prod.mk.injEq] at hr
          obtain ⟨w', h1, h2, h3⟩ := hr
          rw [← h2, ← h3, h1]
      have e : sees s i = cx s probeKey w op x := by simp [sees, hf, hw]
      rw [e]
      exact ⟨len, hf, ⟨hr, hl, hd, hg⟩, rfl, rfl⟩

/-! ### The statements' hypotheses are met -/

theorem wit_DecodeInvertsEncode : (Instr.faddX { Ext.fixed with d := .reg 9, a := .reg 9, b := .const 2 }).wf = true ∧
    (Instr.faddX { Ext.fixed with d := .reg 9, a := .reg 9, b := .const 2 }).encoded = true := ⟨rfl, rfl⟩

theorem wit_EncodeInvertsDecode : ∃ ws i n, decode ws = .ok (i, n) := ⟨[0x12022100], _, _, rfl⟩

/-- A NOP stands where the placed warp issues, and a step of the part is on the agenda. -/
theorem wit_StepRunsWhatStands :
    (∃ (s s' : State) (k : WarpKey) (rest : List Slot) (w : Warp) (ws : List Word) (i : Instr) (n : Nat), s.agenda = .issue k :: rest ∧
      let s₀ : State := { s.tick with agenda := rest }
      s₀.warp? k = some w ∧ s₀.mayIssue k w = true ∧ w.pending.first = none ∧ w.held = false ∧
        s₀.fetchInstr k w w.r.pc = (s', .words ws) ∧ decode ws = .ok (i, n)) ∧
    (∃ (s : State) (i : Instr) (a : EvArg) (rest : List Slot), s.agenda = .event i a :: rest ∧ i.encoded = false) :=
  ⟨⟨State.reset.withFetchWord 32 4, _, probeKey, [], tW, [4], .nop, 1, rfl, rfl, rfl, rfl, rfl, rfl, rfl⟩,
   ⟨{ State.reset with agenda := [.event .eRaise {}] }, .eRaise, {}, [], rfl, rfl⟩⟩

/-- An instruction that has issued and whose effects have not come back. -/
def tOut : Out :=
  { id := 1, kind := .load, op := .ld, x := Ext.fixed, ctr := some .kg, mask := 1, lanes := [], pieces := [], acks := [], dests := [],
    finished := false, acq := false, oldest := 0, back := none, slot := 0, stop := none }

/-- Reserved words; a register that is not declared; an empty source with its T bit set. -/
theorem wit_DecodeChecksTrap :
    decode [0] = .error .opcode ∧
    (instrForm (.faddX { Ext.fixed with u := true })).isSome = true ∧ ({ Ext.fixed with u := true } : Ext).check .fadd ≠ none ∧
    tS.running = some (probeKey, tW) ∧
    (let x : Ext := { Ext.fixed with a := .reg 2, b := .imm 1, tA := true }
     let w : Warp := { tW with outs := [{ tOut with dests := [⟨.v, 2, 0⟩] }] }
     (put w).running = some (probeKey, w) ∧ x.check .iadd = none ∧ (put w).namesOk probeKey w .iadd x = true ∧
       ({ put w with grids := [(1, { probeGrid with header := { probeHeader with nV := 2 } })] } : State).namesOk probeKey w .iadd x = false ∧ readiness ((put w).header probeKey).nS w (w.r.takes x) .iadd (w.named .iadd x) = .fe 1 (.v, 2) 0) := by
  refine ⟨rfl, rfl, by decide +kernel, rfl, rfl, by decide +kernel, by decide +kernel, by decide +kernel, by decide +kernel⟩

/-- A source whose contents are uncorrectable. -/
theorem wit_DecodeChecksTrap_ecc :
    let x : Ext := { Ext.fixed with a := .reg 2, b := .imm 1 }
    let w : Warp := { tW with r := { tW.r with bad := [⟨.v, 2, 3⟩] } }
    x.check .iadd = none ∧ (put w).namesOk probeKey w .iadd x = true ∧ fullness w (w.r.takes x) .iadd (w.named .iadd x) = .go ∧
      (1, File.v, 2) ∈ readsOf .iadd (w.named .iadd x) ∧ (w.r.takes x).getLsbD 3 = true ∧ readiness 0 w (w.r.takes x) .iadd x = .ecc 3 := by decide +kernel

/-! ### Registers -/

def can (s : State) (i : Instr) : Prop := ∃ len, Executes i (sees s i) len
def ext (d a b : Sel) : Ext := { Ext.fixed with d := d, a := a, b := b }
/-- One of each opcode, in the forms of its chapter. -/
def intOps : List Instr :=
  let x := ext (.reg 1) (.reg 2) (.imm 3)
  [.iadd false 1 2 3, .iaddX x, .isub true 3 2 1, .isubX x, .imulX x, .imulhX x, .imadX x, .iminX x, .imaxX x, .iabsX { x with b := .absent }]
def logicOps : List Instr :=
  let x := ext (.reg 1) (.reg 2) (.imm 3)
  let y := { x with b := .absent }
  [.iandX x, .iorX x, .ixorX x, .inotX y, .shlX x, .shrX x, .sarX x, .rotX x, .brevX y, .popcX y, .clzX y, .bfxX x, .bfiX x, .movX y,
   .movl false 1 7, .sel { x with c := .imm 4, imm := 2 }, .pmov (ext (.p 1) (.p 2) .absent), .pmov { ext (.reg 1) (.p 2) .absent with mod := 1 },
   .pmov { ext (.p 1) (.reg 2) .absent with mod := 2 }, .pmov { ext (.reg 1) .absent .absent with mod := 3 }, .pmov { ext .absent (.reg 2) .absent with mod := 4 }]
def predOps : List Instr := [.icmp (ext (.p 1) (.reg 2) (.imm 3)), .icmp (ext (.p 15) (.reg 2) (.imm 3)), .plop { ext (.p 1) (.p 2) (.p 3) with mod := 1 }]
def convOps : List Instr := [.cvtiX (ext (.reg 1) (.reg 2) .absent), .idot4X (ext (.reg 1) (.reg 2) (.reg 3))]

theorem all_can (s : State) (l : List Instr) (h : l.all (able s) = true) : ∀ i ∈ l, can s i :=
  fun i hi => runs_of_able s i (List.all_eq_true.1 h i hi)

theorem wit_IntegerArithmetic :
    (∀ i ∈ intOps, can tS i) ∧ (∀ i ∈ intOps, (sees tS i).op ∈ [Op.iadd, .isub, .imul, .imulh, .imad, .imin, .imax, .iabs]) ∧
    (∀ i ∈ [Instr.idivX (ext (.reg 1) (.reg 2) (.imm 3)), .iremX (ext (.reg 1) (.reg 2) (.imm 3))], can tS i) ∧
    (∀ i ∈ [Instr.idivX (ext (.reg 1) (.reg 2) (.imm 3)), .iremX (ext (.reg 1) (.reg 2) (.imm 3))],
      ∀ l ∈ lanesOf (sees tS i).m, (sees tS i).src (tyN (sees tS i).x.ty) l (sees tS i).x.b ≠ 0) ∧
    (∀ i ∈ [Instr.idivX (ext (.reg 1) (.reg 2) (.reg 3)), .iremX (ext (.reg 1) (.reg 2) (.reg 3))], can tS i) ∧
    (∀ i ∈ [Instr.idivX (ext (.reg 1) (.reg 2) (.reg 3)), .iremX (ext (.reg 1) (.reg 2) (.reg 3))],
      0 ∈ lanesOf (sees tS i).m ∧ (sees tS i).src (tyN (sees tS i).x.ty) 0 (sees tS i).x.b = 0 ∧ ¬ (sees tS i).x.m 5 1 = 1) :=
  ⟨all_can _ _ (by decide +kernel), by decide +kernel, all_can _ _ (by decide +kernel), by decide +kernel, all_can _ _ (by decide +kernel), by decide +kernel⟩

theorem wit_LogicFieldsAndMoves : (∀ i ∈ logicOps, can tS i) ∧
    logicOps.map (fun i => (sees tS i).op) = [.iand, .ior, .ixor, .inot, .shl, .shr, .sar, .rot, .brev, .popc, .clz, .bfx, .bfi, .mov, .movl, .sel, .pmov, .pmov, .pmov, .pmov, .pmov] ∧
    ((logicOps.reverse.map fun i => (sees tS i).x.m 0 3).take 5) = [4, 3, 2, 1, 0] := ⟨all_can _ _ (by decide +kernel), rfl, rfl⟩

theorem wit_PredicateResults : (∀ i ∈ predOps, can tS i) ∧ predOps.map (fun i => ((sees tS i).op, (sees tS i).x.d)) = [(.icmp, .p 1), (.icmp, .p 15), (.plop, .p 1)] :=
  ⟨all_can _ _ (by decide +kernel), rfl⟩

theorem wit_IntegerConversions : (∀ i ∈ convOps, can tS i) ∧ convOps.map (fun i => (sees tS i).op) = [.cvti, .idot4] := ⟨all_can _ _ (by decide +kernel), rfl⟩

/-- LEA of a sum, of a place in scratch, and of a place that scratch does not hold. -/
def leaOps : List Instr := [.leaX (ext (.reg 1) (.reg 2) (.imm 3)), .leaX { ext (.reg 1) (.reg 2) (.imm 3) with mod := 0x80 }, .leaX { ext (.reg 1) .lit (.imm 3) with mod := 0x80, lit := some 0x7ffffff0 }]

theorem wit_AddressArithmetic : (∀ i ∈ leaOps, can tS i) ∧
    leaOps.map (fun i => ((sees tS i).op, (sees tS i).x.m 7 2, (tS.scratchLoc probeKey tW ((sees tS i).x.m 7 2) (leaSum (sees tS i) 0).toNat 1).isBad)) =
      [(.lea, 0, false), (.lea, 1, false), (.lea, 1, true)] := ⟨all_can _ _ (by decide +kernel), by decide +kernel⟩

/-! ### Intervals -/

def f1 : Ext := ext (.reg 1) (.reg 2) .absent
def f2 : Ext := ext (.reg 1) (.reg 2) (.reg 3)
def d2 : Ext := ext (.reg 2) (.reg 4) (.reg 6)
def fltOps : List Instr :=
  [.fadd 3 2 1, .faddX f2, .fsubX f2, .fmulX f2, .fdivX f2, .ffmaX f2, .fsqrtX f1, .fsqrX f1, .frcpX f1, .frsqrtX f1, .fpownX { f2 with b := .imm 2 }, .fldexpX { f2 with b := .imm 2 },
   .fminX f2, .fmaxX f2, .fabsX f1, .fnegX f1, .daddX d2, .dsubX d2, .dmulX d2, .ddivX d2, .dfmaX d2, .dsqrtX { d2 with b := .absent },
   .fexpX f1, .fexp2X f1, .flogX f1, .flog2X f1, .ftanhX f1, .fsigX f1, .ferfX f1, .fsinX f1, .fcosX f1, .fgeluX f1, .fsiluX f1, .fgateX f2]
def pointOps : List Instr :=
  let p (x : Ext) : Ext := { x with mod := 1 }
  [.faddX (p f2), .fsubX (p f2), .fmulX (p f2), .ffmaX (p f2), .fdivX (p f2), .fsqrtX (p f1), .fsqrX (p f1), .frcpX (p f1), .frsqrtX (p f1), .fpownX { p f2 with b := .imm 2 }, .fldexpX { p f2 with b := .imm 2 }]
def partOps : List Instr :=
  [.fmkX { f2 with b := .imm 0 }, .floX f1, .fhiX f1, .fmovX f1, .fmovl 1 0x3f80000000000000, .fsel { f2 with c := .reg 4, imm := 2 }, .fdecX f1, .fdecX { f1 with b := .imm 2, mod := 1 }, .fbis { f1 with e := .p 2 }]
def otherFlt : List Instr :=
  [.fmidX f1, .fradX f1, .fwidX f1, .fmigX f1, .fmagX f1, .fcvtX f1, .fcvtiX f1, .dcvtX { f1 with d := .reg 2 }, .rmax { f1 with e := .p 1, imm := 2 }, .rsum { f1 with e := .p 1, imm := 2 },
   .rstat { f1 with e := .p 1, d := .reg 8, imm := 2 }, .smxu { f1 with e := .p 1, d := .reg 8, imm := 2 }, .smxa { f2 with d := .reg 20, b := .reg 8, e := .p 1, imm := 2 }, .rnorm { f2 with d := .reg 20, e := .p 1, imm := 2 }]

theorem wit_SpecialAndPointResults :
    (∀ i ∈ fltOps, can tS i) ∧ (∀ i ∈ fltOps, (sees tS i).op ∈ fltOps1 ++ fltOps2 ++ fltOps3 ∧ isPoint (sees tS i).op (sees tS i).x = false) ∧
    (∀ i ∈ pointOps, can tS i) ∧ (∀ i ∈ pointOps, isPoint (sees tS i).op (sees tS i).x = true) :=
  ⟨all_can _ _ (by decide +kernel), by decide +kernel, all_can _ _ (by decide +kernel), by decide +kernel⟩

theorem zero_ext : (Pt.fin false 0).ext .fp32 = 0 := by
  show (((Fmt.mag .fp32 0).real : ℝ) : EReal) = 0
  have : Fmt.mag .fp32 0 = ⟨0, _⟩ := rfl
  rw [this]; simp [Dy.real]

/-- The operations on the zeros in the registers, whose point 0 is one at which division is not defined; 1/1 is. -/
theorem wit_Encloses :
    (sees tS (.faddX f2)).taken .fp32 0 (.reg 2) = .mk (.fin false 0) (.fin false 0) Dec.com ∧ (Iv.mk (.fin false 0) (.fin false 0) Dec.com).Holds .fp32 0 ∧
    realDom .fsqrt 0 0 ∧ realDom .fdiv 0 1 :=
  ⟨by decide +kernel, ⟨_, _, _, rfl, by simp [zero_ext], by simp [zero_ext]⟩, le_refl (0 : ℝ), one_ne_zero⟩

def hullOps : List Instr := [.fnegX f1, .fabsX f1, .fminX f2, .fmaxX f2, .fhullX f2, .fisectX f2]
theorem wit_BoundsHullAndIntersection : (∀ i ∈ hullOps, can tS i) ∧ hullOps.map (fun i => ((sees tS i).op, (sees tS i).x.fzo)) =
    [(.fneg, false), (.fabs, false), (.fmin, false), (.fmax, false), (.fhull, false), (.fisect, false)] ∧
    ∀ i ∈ hullOps, (sees tS i).taken .fp32 0 (.reg 2) = .mk (.fin false 0) (.fin false 0) Dec.com :=
  ⟨all_can _ _ (by decide +kernel), rfl, by decide +kernel⟩

theorem wit_IntervalParts : (∀ i ∈ partOps, can tS i) ∧ partOps.map (fun i => ((sees tS i).op, (sees tS i).x.fzi || (sees tS i).x.fzo)) =
    [(.fmk, false), (.flo, false), (.fhi, false), (.fmov, false), (.fmovl, false), (.fsel, false), (.fdec, false), (.fdec, false), (.fbis, false)] :=
  ⟨all_can _ _ (by decide +kernel), rfl⟩

def relOps : List Instr := [.fcmp { f2 with d := .p 1 }, .dcmp { d2 with d := .p 1, mod := 5 }, .fset { f2 with d := .p 1 }, .fset { f1 with d := .p 1, mod := 6 }, .fclassX f1]
theorem wit_RelationsAndSetTests : (∀ i ∈ relOps, can tS i) ∧ relOps.map (fun i => ((sees tS i).op, (sees tS i).x.d, (sees tS i).x.m 0 3)) =
    [(.fcmp, .p 1, 0), (.dcmp, .p 1, 5), (.fset, .p 1, 0), (.fset, .p 1, 6), (.fclass, .reg 1, 0)] :=
  ⟨all_can _ _ (by decide +kernel), rfl⟩

/-! ### Every register instruction -/

noncomputable def laneOps : List Instr :=
  let c : Sel := .imm 127
  [.vote { ext (.p 1) (.p 2) .absent with c := c, e := .p 3 }, .shfl { ext (.reg 1) (.reg 2) (.imm 3) with c := c, e := .p 3 }, .fshfl { ext (.reg 1) (.reg 2) (.imm 3) with c := c, e := .p 3 },
   .matchV { f1 with c := c, e := .p 3 }, .redux { f1 with c := c, e := .p 3 }, .scan { f1 with c := c, e := .p 3 }, .srd (ext (.reg 1) (.sr .lane) .absent), .topo 2 6, .time 4,
   .perf (ext (.reg 4) (.imm 0) .absent)]
def noTrap (c : Cx) : Bool :=
  match c.op with
  | .idiv | .irem => (lanesOf c.m).all fun l => c.src (tyN c.x.ty) l c.x.b ≠ 0 || c.x.m 5 1 = 1
  | .lea => c.x.m 7 2 = 0 || (lanesOf c.m).all fun l => !(c.s.scratchLoc c.k c.w (c.x.m 7 2) (leaSum c l).toNat 1).isBad
  | .vote | .shfl | .fshfl | .matchV | .redux | .scan => c.m &&& ~~~c.members = 0
  | _ => true
theorem noTrap_spec (c : Cx) (h : noTrap c = true) : NoValueTrap c := by
  unfold noTrap at h; unfold NoValueTrap; split at h <;> simp_all

noncomputable def regInstrs : List Instr :=
  intOps ++ logicOps ++ predOps ++ convOps ++ leaOps.take 2 ++ [.idivX (ext (.reg 1) (.reg 2) (.imm 3)), .iremX (ext (.reg 1) (.reg 2) (.imm 3))] ++ fltOps ++ pointOps ++ partOps ++ relOps ++ hullOps ++ otherFlt ++ laneOps

theorem wit_RegisterInstructionsComplete : (∀ i ∈ regInstrs, can tS i) ∧ (∀ op ∈ registerOps, ∃ i ∈ regInstrs, (sees tS i).op = op) ∧ (∀ i ∈ regInstrs, NoValueTrap (sees tS i)) := by
  have h : regInstrs.all (fun i => noTrap (sees tS i)) = true := by decide +kernel
  exact ⟨all_can _ _ (by decide +kernel), by decide +kernel, fun i hi => noTrap_spec _ (List.all_eq_true.1 h i hi)⟩

/-! ### Control flow -/

/-- The placed warp with one live thread, whose V2, V3 address the code page's line, where it may read and write. -/
def mW : Warp := { tW with r := { Regs.start 0x10000 1 with v := [(256, 0x10000)] } }
def mem (w : Warp) : State := { put w with tlbs := [{ probeTlb with w := true }] }
/-- It with an entry on its reconvergence stack. -/
def under (kind : Nat) (join : DWord) : Warp := { tW with r := { tW.r with stack := [⟨1, 0x10010, join, kind⟩] } }
def pred1 : Warp := { tW with r := tW.r.setP 1 0 Tri.tt }

/-- Jumps in all threads, in none and in some; a computed jump, whole and misaligned. -/
theorem wit_Branches :
    (∀ i ∈ [Instr.bra 4, .call 4, .braX 4 1 0, .jmpx 2, .brc 1 false 5, .brm 1 1 1 1 4 5], can (put tW) i) ∧
    (sees tS (.bra 4)).m = tW.r.mask ∧ tW.r.mask ≠ 0 ∧ (sees tS (.braX 4 1 0)).m = 0 ∧
    (∀ i ∈ [Instr.braX 4 1 0, .callX 4 1 0], can (put pred1) i) ∧ (sees (put pred1) (.braX 4 1 0)).m = 1 ∧ pred1.r.mask ≠ 1 ∧
    (∀ t ∈ lanesOf (sees tS (.jmpx 2)).m, (sees tS (.jmpx 2)).i64 t (sees tS (.jmpx 2)).x.a = 0) ∧
    tW.r.cur.length < stackSize probeHeader tW ∧ brmPairs 5 = 1 ∧ tW.emptyIn tW.r.mask (.p, 1) = false :=
  ⟨all_can _ _ (by decide +kernel), by decide +kernel, by decide +kernel, by decide +kernel, all_can _ _ (by decide +kernel), by decide +kernel, by decide +kernel,
   by decide +kernel, by decide, rfl, by decide +kernel⟩

/-- A JOIN with nothing on the stack, of its own path entry and of another's; an EXIT of one thread of many. -/
theorem wit_PopsAndExits :
    (can tS .join ∧ tW.r.cur = []) ∧
    (can (put (under 0 0x10000)) .join ∧ (under 0 0x10000).r.cur = [] ++ ⟨1, 0x10010, 0x10000, 0⟩ :: [] ∧ (1 : Mask) &&& (under 0 0x10000).r.live ≠ 0) ∧
    (can (put (under 0 0x10004)) .join ∧ (0x10004 : DWord) ≠ (under 0 0x10004).r.pc) ∧ can (put (under 2 0)) .ret ∧
    (can (put (under 1 0x10000)) .join ∧ ∃ s', (put (under 1 0x10000)).fetchFirst probeKey (under 1 0x10000) 0x10000 = (s', .words [0])) ∧
    (can (put pred1) (.exitX { Ext.fixed with g := 1 }) ∧ pred1.sprout = Option.none ∧ pred1.outs = [] ∧ (sees (put pred1) (.exitX { Ext.fixed with g := 1 })).m = 1 ∧
      pred1.r.mask &&& ~~~1 ≠ 0 ∧ pred1.r.recr.state = 0) :=
  ⟨⟨runs_of_able _ _ (by decide +kernel), rfl⟩, ⟨runs_of_able _ _ (by decide +kernel), rfl, by decide +kernel⟩, ⟨runs_of_able _ _ (by decide +kernel), by decide +kernel⟩,
   runs_of_able _ _ (by decide +kernel), ⟨runs_of_able _ _ (by decide +kernel), _, rfl⟩, ⟨runs_of_able _ _ (by decide +kernel), rfl, rfl, by decide +kernel, by decide +kernel, rfl⟩⟩

/-- A JOIN that reads a poisoned entry back from the spill area. -/
def deepW : Warp := { tW with r := { tW.r with stack := List.replicate 33 ⟨1, 0x10010, 0x10000, 0⟩ } }
def deepS : State := { put deepW with eccVault := [(put deepW).spillSlot probeKey deepW 0 / 8 + 1] }
theorem wit_PopsAndExits_spilled : can deepS .join ∧ deepS.spillBad probeKey deepW (32 - 32) (33 - 32) = true ∧ (put deepW).spillBad probeKey deepW (32 - 32) (33 - 32) = false :=
  ⟨runs_of_able _ _ (by decide +kernel), by decide +kernel, by decide +kernel⟩

/-- A store that is not acknowledged yet. -/
def storeW : Warp := { tW with outs := [{ tOut with kind := .store, acks := [(7, false)] }] }
def partBar : Instr := .barsyncX { Ext.fixed with g := 1 }
/-- The placed warp and another of its team. -/
def pairS : State := { tS with warps := [(probeKey, tW), ({ probeKey with warp := 1 }, tW)] }
/-- Warps that may arrive, a barrier that the one warp completes, a scope that the launch has not, a write outstanding, one of two live
threads, none, and another warp of the team still to come. -/
theorem wit_BarrierSynchronises :
    (∀ w ∈ [tW, pred1, { tW with sheller := true }, storeW], able (put w) .barsync = true ∧ (sees (put w) .barsync).m = w.r.live ∧ w.r.live ≠ 0 ∧ w.sprout = Option.none ∧
      w.settled = true ∧ w.acquiring = false ∧ w.wait = .none) ∧
    tS.fenceHolds tW 0 = true ∧ tS.fenceHolds storeW 0 = false ∧ probeKey.team ∈ tS.barTeams probeKey 0 ∧ (∀ p ∈ tS.warps, p.1 = probeKey) ∧
    (∀ i ∈ [Instr.barsync, .barsyncX { Ext.fixed with mod := 1 }, .barsyncX { Ext.fixed with mod := 2 }], can tS i) ∧ (tS.grid? 1).any (fun g : Grid => g.coop) = false ∧ tS.gangOf ⟨1, 0⟩ = 1 ∧
    (∀ i ∈ [partBar], can (put pred1) i ∧ can (put tW) i) ∧ (sees (put pred1) partBar).m ≠ pred1.r.live ∧ (sees (put pred1) partBar).m ≠ 0 ∧ (sees (put tW) partBar).m = 0 ∧
    can pairS .barsync ∧ pairS.barMember probeKey 0 ({ probeKey with warp := 1 }, tW) = true ∧ tW.atBarrier 0 = false :=
  ⟨by decide +kernel, by decide +kernel, by decide +kernel, by decide +kernel, by decide +kernel, all_can _ _ (by decide +kernel), by decide +kernel, by decide +kernel,
   fun i hi => ⟨all_can _ [partBar] (by decide +kernel) i hi, all_can _ [partBar] (by decide +kernel) i hi⟩, by decide +kernel, by decide +kernel, by decide +kernel,
   runs_of_able _ _ (by decide +kernel), by decide +kernel, by decide +kernel⟩

def waitK : Instr := .waitk { Ext.fixed with a := .imm 0 }
def busyW : Warp := { tW with outs := [tOut] }
def waitM : Instr := .waitm { Ext.fixed with d := .s 20, a := .s 4, b := .imm 1, c := .imm 0, e := .p 1 }
def waitW : Warp := { mW with r := { mW.r with s := [(4, 0x10000)] } }
/-- Its address is the first one outside the address space. -/
def highW : Warp := { mW with r := { mW.r with s := [(5, 0x01000000)] } }

theorem wit_WaitingInstructions :
    (∀ i ∈ [waitK, .nop, .yield, .sleep 2, .brkpt], can tS i) ∧ tW.counter .kg = 0 ∧ can (put busyW) waitK ∧ busyW.counter .kg = 1 ∧ busyW.outs.findSome? (·.stop) = Option.none ∧
    can (mem waitW) waitM ∧ waitW.sprout = Option.none ∧ waitW.wait = .none ∧ waitW.settled = true ∧ (sees (mem waitW) waitM).i64 0 (.s 4) = 0x10000 ∧
    (∃ s', (mem waitW).translate 0 0 0 kLoad 0x10000 = (s', .ok 0x10000) ∧ s'.canSend probeKey waitW 1 = true) ∧
    can (mem highW) waitM ∧ (sees (mem highW) waitM).i64 0 (.s 4) = 2 ^ 56 ∧
    can (mem { waitW with wait := .waitmGot 0 0x10000 5 0 0 }) waitM ∧ lineNat (0 : Line) 0 4 ≠ ((sees (mem waitW) waitM).i32 0 (.imm 1)).toNat :=
  ⟨all_can _ _ (by decide +kernel), rfl, runs_of_able _ _ (by decide +kernel), rfl, rfl, runs_of_able _ _ (by decide +kernel), rfl, rfl, rfl, by decide +kernel,
   ⟨_, rfl, by decide +kernel⟩, runs_of_able _ _ (by decide +kernel), by decide +kernel, runs_of_able _ _ (by decide +kernel), by decide +kernel⟩

/-! ### Memory -/

def mx (x : Ext) : Ext := { x with c := .imm 0, a := .reg 2 }
def loads : List Instr := [.ld 2 4, .ldX { mx Ext.fixed with d := .reg 4, mod := 3 }, .ldf 2 4, .ldfX { mx Ext.fixed with d := .reg 4, mod := 8 },
  .sld { Ext.fixed with d := .s 20, a := .s 4, c := .imm 0 }]
def stores : List Instr := [.st 4 2, .stX { mx Ext.fixed with b := .reg 4 }, .stf 4 2, .stfX { mx Ext.fixed with b := .reg 4 }, .sst { Ext.fixed with b := .s 20, a := .s 4, c := .imm 0 }]
def atoms : List Instr := [.atom 4 2 6, .atomX { mx Ext.fixed with d := .reg 6, b := .reg 4 }, .atomf 4 2 6, .atomfX { mx Ext.fixed with d := .reg 6, b := .reg 4 }, .red 4 2, .redX { mx Ext.fixed with b := .reg 4 },
  .cas 4 2 6, .casX { mx Ext.fixed with d := .reg 6, b := .reg 4 }]
/-- The same in the team's scratch. -/
def inScratch : List Instr :=
  let x : Ext := { Ext.fixed with a := .reg 4, c := .imm 0 }
  [.ldX { x with d := .reg 6, mod := 8 }, .ldfX { x with d := .reg 6, mod := 16 }, .sld { Ext.fixed with d := .s 20, a := .s 8, c := .imm 0, mod := 4 }, .stX { x with b := .reg 6, mod := 8 },
   .stfX { x with b := .reg 6, mod := 16 }, .sst { Ext.fixed with b := .s 20, a := .s 8, c := .imm 0, mod := 4 }, .atomX { x with d := .reg 6, b := .reg 7, mod := 4 }, .atomfX { x with d := .reg 6, b := .reg 7, mod := 4 },
   .redX { x with b := .reg 7, mod := 4 }, .casX { x with d := .reg 6, b := .reg 7, mod := 4 }]

/-- An address past the range, one that is not aligned, and one that scratch does not hold. -/
theorem wit_AccessChecksTrap :
    (∀ i ∈ loads ++ stores ++ atoms ++ inScratch, can (mem mW) i) ∧
    (let far : Warp := { mW with r := { mW.r with v := [(384, 0x01000000)] } }
     can (mem far) (.ld 2 4) ∧ 2 ^ 56 ≤ (sees (mem far) (.ld 2 4)).accByte 0 ∧ 0 ∈ (sees (mem far) (.ld 2 4)).accLanes) ∧
    (let odd : Warp := { mW with r := { mW.r with v := [(256, 0x10001)] } }
     can (mem odd) (.st 4 2) ∧ (sees (mem odd) (.st 4 2)).accByte 0 % 4 ≠ 0 ∧ (sees (mem odd) (.st 4 2)).mayStart .kg false = true) ∧
    ∃ cause detail, (mem mW).scratchLoc probeKey mW 1 0x7ffffff0 4 = .bad cause detail :=
  ⟨all_can _ _ (by decide +kernel), ⟨runs_of_able _ _ (by decide +kernel), by decide +kernel, by decide +kernel⟩,
   ⟨runs_of_able _ _ (by decide +kernel), by decide +kernel, by decide +kernel⟩, _, _, rfl⟩

/-- The checks of the access pass in this state, and its requests fit. -/
def goesOn (c : Cx) : Bool :=
  match c.checks c.access c.accLanes c.accAddr with
  | .go s' spots => !spots.isEmpty && s'.canSend c.k c.w (max spots.length (linesOf spots).length) &&
      spots.all fun p => decide (c.access.size ≤ p.pb + 1 + (128 - p.pa % 128) ∧
        ∀ j < c.access.size, lineOf (p.place c.access.size j) = lineOf (if j < 128 - p.pa % 128 then p.pa else p.pb))
  | .stop _ => false
theorem goesOn_spec (c : Cx) (h : goesOn c = true) : ∃ s' spots, Passes c s' spots ∧ spots ≠ [] ∧ (∀ p ∈ spots, p.Placed c.access.size) ∧
    s'.canSend c.k c.w (max spots.length (linesOf spots).length) = true := by
  unfold goesOn at h
  split at h
  · next s' spots hc =>
    simp only [Bool.and_eq_true, List.all_eq_true, decide_eq_true_eq] at h
    exact ⟨s', spots, hc, by intro e; simp [e] at h, h.2, h.1.2⟩
  · cases h
/-- They may issue, and their accesses go on. -/
def runsIn (w : Warp) (l : List Instr) : Prop :=
  ∀ i ∈ l, can (mem w) i ∧ ∃ s' spots, Passes (sees (mem w) i) s' spots ∧ spots ≠ [] ∧ (∀ p ∈ spots, p.Placed (sees (mem w) i).access.size) ∧
    s'.canSend (sees (mem w) i).k (sees (mem w) i).w (max spots.length (linesOf spots).length) = true
theorem runsIn_spec (w : Warp) (l : List Instr) (h : l.all (fun i => able (mem w) i && goesOn (sees (mem w) i)) = true) : runsIn w l := by
  intro i hi
  have := List.all_eq_true.1 h i hi
  simp only [Bool.and_eq_true] at this
  exact ⟨runs_of_able _ _ this.1, goesOn_spec _ this.2⟩

def sW : Warp := { mW with r := { mW.r with s := [(4, 0x10000)] } }
/-- A line of the L1 that holds what they read, and none. -/
theorem wit_GlobalLoads : runsIn sW loads ∧ sW.outs = [] ∧ sW.r.floorMax 1 = 0 ∧
    (∀ i ∈ loads, (sees (mem sW) i).access.sp = 0 ∧ (sees (mem sW) i).m = 1) ∧ (∀ n fl, (mem sW).l1Hit 0 0 n fl = none) ∧
    { mem sW with l1 := [⟨0, 0, 512, 0, 100, 0, 0⟩] }.l1Hit 0 0 512 0 = some ⟨0, 0, 512, 0, 100, 0, 0⟩ :=
  ⟨runsIn_spec _ _ (by decide +kernel), rfl, by decide +kernel, by decide +kernel, fun _ _ => rfl, by decide +kernel⟩

theorem wit_ScratchAccessesIssue : runsIn mW inScratch ∧ ∀ i ∈ inScratch, (sees (mem mW) i).access.sp = 1 ∧ (sees (mem mW) i).m = 1 ∧
    (sees (mem mW) i).mayStart .ks false = true ∧ (sees (mem mW) i).ordOf = 0 ∨ (sees (mem mW) i).op ∈ [Op.ld, .ldf, .sld, .atom, .atomf, .red, .cas] :=
  ⟨runsIn_spec _ _ (by decide +kernel), by decide +kernel⟩

theorem wit_StoresSendTheirBytes : runsIn sW stores ∧ ∀ i ∈ stores, (sees (mem sW) i).op ∈ [Op.st, .stf, .sst] ∧ (sees (mem sW) i).access.sp = 0 ∧ (sees (mem sW) i).m ≠ 0 ∧
    (sees (mem sW) i).mayStart .kg false = true ∧ (sees (mem sW) i).ordOf = 0 :=
  ⟨runsIn_spec _ _ (by decide +kernel), by decide +kernel⟩

theorem wit_AtomicsSendRequests : runsIn sW atoms ∧ ∀ i ∈ atoms, (sees (mem sW) i).op ∈ [Op.atom, .atomf, .red, .cas] ∧ (sees (mem sW) i).access.sp = 0 ∧
    (sees (mem sW) i).x.m 8 1 = 0 ∧ (sees (mem sW) i).m ≠ 0 ∧ (sees (mem sW) i).mayStart .kg false = true :=
  ⟨runsIn_spec _ _ (by decide +kernel), by decide +kernel⟩

def cacheOps : List Instr := [.fence, .fenceX { Ext.fixed with mod := 1 }, .pref 2, .prefX (mx Ext.fixed), .cctl, .cctlX { mx Ext.fixed with mod := 1 }, .cctlX { mx Ext.fixed with mod := 2 }]
theorem wit_FencesAndCacheControl : (∀ i ∈ cacheOps, can (mem mW) i) ∧ (mem mW).fenceHolds mW 3 = true ∧ (mem mW).fenceHolds mW 0 = true ∧
    (mem { mW with gwct := 5 }).fenceHolds { mW with gwct := 5 } 3 = false ∧ (∀ i ∈ cacheOps, (sees (mem mW) i).m = 1) ∧
    (∃ s', (sees (mem mW) (.prefX (mx Ext.fixed))).quietPas (mem mW) [0] [] [] = (s', .ok ([(512, 0)], [])) ∧ s'.canSend probeKey mW 1 = true) ∧ mW.acquiring = false ∧
    (sees (mem mW) (.cctlX { mx Ext.fixed with mod := 2 })).mayStart .kg false = true :=
  ⟨all_can _ _ (by decide +kernel), by decide +kernel, by decide +kernel, by decide +kernel, by decide +kernel, ⟨_, rfl, by decide +kernel⟩, by decide +kernel, by decide +kernel⟩

/-! ### Maps, copies and barrier registers -/

/-- A team with the first 128 bytes of its scratch mapped, writable, one word of them dirty, and barrier register 0 set up. -/
def mapTeam : Team := { probeTeam with maps := [⟨0, 0, 128, 0x10000, true, 0, false⟩], bars := [(0, ⟨false, false, false, 0, 1, 0⟩)] }
def mapS (bits : Store (BitVec 3)) : State := { mem mW with teams := [(⟨1, 0⟩, mapTeam)], mapBits := bits }
def mapOps : List Instr :=
  let x : Ext := { Ext.fixed with a := .lit, b := .lit, lit := some 128 }
  [.smap { x with c := .imm 0 }, .smap { x with c := .imm 64 }, .sqry (ext (.s 20) (.imm 0) .absent), .sflush { ext .absent (.imm 0) .lit with lit := some 128 }, .sunmap { ext .absent (.imm 0) .lit with lit := some 128 }]

theorem wit_MapsAndFlushes : (∀ i ∈ mapOps, can (mapS [(0, 7)]) i) ∧ (mapS []).team? ⟨1, 0⟩ = some mapTeam ∧ (mapS []).grid? 1 = some probeGrid ∧ mapTeam.freeMap = 1 ∧
    (∀ m ∈ mapTeam.maps, 128 + 128 ≤ m.soff ∨ m.soff + m.slen ≤ 128) ∧ 128 + 128 ≤ probeGrid.scratch ∧ (mapS []).mapsOnCore 0 0 = 1 ∧
    mapTeam.maps.find? (fun m => m.soff ≤ 0 && 0 + 128 ≤ m.soff + m.slen) = some ⟨0, 0, 128, 0x10000, true, 0, false⟩ ∧
    (mapS []).dirtyLines mapTeam ⟨0, 0, 128, 0x10000, true, 0, false⟩ 0 128 = [] ∧
    (mapS [(0, 7)]).dirtyLines mapTeam ⟨0, 0, 128, 0x10000, true, 0, false⟩ 0 128 = [(0, 0x10000)] ∧
    (∃ s' pas, (sees (mapS [(0, 7)]) .nop).flushPas 0 (mapS [(0, 7)]) [(0, 0x10000)] [] = .ok (s', pas) ∧ s'.canSend probeKey mW pas.length = true) :=
  ⟨all_can _ _ (by decide +kernel), rfl, rfl, by decide +kernel, by decide +kernel, by decide +kernel, by decide +kernel, by decide +kernel, by decide +kernel, by decide +kernel, _, _, rfl, by decide +kernel⟩

def barOps : List Instr := [.binit (ext .absent (.b 2) (.imm 3)), .binit (ext .absent (.b 2) (.imm 0)), .barr (ext .absent (.b 0) (.imm 1)), .barr (ext .absent (.b 0) (.imm 2)),
  .bwait { ext .absent (.b 0) .absent with imm := 0 }, .bwait { ext .absent (.b 0) .absent with imm := 1 }, .bwait { ext .absent (.b 1) .absent with imm := 1 }, .btest (ext (.s 20) (.b 0) .absent)]
theorem wit_BarrierRegisters : (∀ i ∈ barOps, can (mapS []) i) ∧ (mapS []).bar ⟨1, 0⟩ 0 = ⟨false, false, false, 0, 1, 0⟩ ∧ (mapS []).bar ⟨1, 0⟩ 1 = ⟨false, false, false, 0, 0, 0⟩ ∧
    (sees (mapS []) .nop).w.settled = true ∧ (mapS []).fenceHolds mW 0 = true :=
  ⟨all_can _ _ (by decide +kernel), by decide +kernel, by decide +kernel, rfl, by decide +kernel⟩

theorem wit_BarrierArrival : let b : BarReg := ⟨false, false, false, 0, 2, 1⟩; b.arrived < b.expected ∧ 1 ≤ b.expected := by decide

/-- A copy that one warp's arrival starts, a full queue, and a copy that another warp still has to arrive at. -/
def copyX : Ext := { ext .absent (.imm 0) (.imm 0) with c := .imm 0 }
def fullS : State := { mapS [] with copies := List.replicate 16 { Copy.fresh 9 ⟨2, 0⟩ none 0 0 0 0 false with order := 1 } }
def otherS : State := { mapS [] with warps := (mapS []).warps ++ [({ probeKey with warp := 1 }, mW)] }
def goes : Start → Bool
  | .go _ => true
  | _ => false
theorem goes_spec (x : Start) (h : goes x = true) : ∃ s, x = .go s := by
  cases x with
  | go s => exact ⟨s, rfl⟩
  | _ => cases h

theorem wit_CopyArrivals : (∀ i ∈ [Instr.cpy copyX, .cpyg copyX, .cpya { copyX with e := .p 1, mod := 1 }, .cpyq (ext (.s 20) .absent (.imm 0))], can (mapS []) i ∧ can fullS i) ∧
    (mapS []).waitingCopy ⟨1, 0⟩ none 0 = Option.none ∧ (mapS []).entriesOf 0 0 0 = 0 ∧ fullS.entriesOf 0 0 0 = 16 ∧
    (let cp := Copy.fresh 1 ⟨1, 0⟩ none 0 0 0 0 false
     let a : Arrival := ⟨probeKey, 0, 0, 0, 0, 1⟩
     (mapS []).lastArrival cp probeKey = true ∧ otherS.lastArrival cp probeKey = false ∧
       ∃ s', ({ mapS [] with nextId := 2 }.setCopy { cp with arrivals := [a] }).startCopy { cp with arrivals := [a] } probeHeader 0 0 = .go s') :=
  ⟨fun i hi => ⟨all_can _ [Instr.cpy copyX, .cpyg copyX, .cpya { copyX with e := .p 1, mod := 1 }, .cpyq (ext (.s 20) .absent (.imm 0))] (by decide +kernel) i hi,
     all_can _ [Instr.cpy copyX, .cpyg copyX, .cpya { copyX with e := .p 1, mod := 1 }, .cpyq (ext (.s 20) .absent (.imm 0))] (by decide +kernel) i hi⟩,
   by decide +kernel, by decide +kernel, by decide +kernel, by decide +kernel, by decide +kernel, goes_spec _ (by decide +kernel)⟩

/-! ### Traps and system instructions -/

def aTrap : Trap := ⟨5, 0, 0, 0, 0, 0x10000, false, false, false⟩
def inTrap (w : Warp) : Warp := { w with r := { w.r with tstat := 1, imask := w.r.mask, lpc := 0x10004 } }
def mySprout : Sprout := ⟨probeKey, none, 1, none⟩
def sproutW : Warp := { tW with sprout := some mySprout }
def recruiter : Warp := { tW with r := { tW.r with recr := { Recr.none with state := 1, g := 1 } } }
/-- The placed warp as a recruiter, and a sprout of its. -/
def sproutKey : WarpKey := { probeKey with ctx := 1 }
def sproutS : State := { put recruiter with warps := [(probeKey, recruiter), (sproutKey, sproutW)] }

theorem wit_EntersHandler :
    (tS.grid? 1 = some probeGrid ∧ probeHeader.hasTrap = true ∧ tW.sprout = Option.none ∧ tW.r.tmode = false ∧ tW.outs = [] ∧ aTrap.cause < 256) ∧
    (inTrap tW).r.tmode = true ∧ (inTrap tW).sprout = Option.none ∧
    (sproutW.sprout = some mySprout ∧ sproutKey ≠ mySprout.owner ∧ sproutS.warp? mySprout.owner = some recruiter ∧ aTrap.detail < 256 ∧ recruiter.r.recr.fault = 0 ∧ recruiter.r.recr.state = 1) :=
  ⟨⟨rfl, rfl, rfl, by decide +kernel, rfl, by decide +kernel⟩, by decide +kernel, rfl, ⟨rfl, by decide +kernel, rfl, by decide +kernel, rfl, rfl⟩⟩

def imgX : Ext := { ext .absent (.s 4) (.imm 0) with c := .imm 1 }
noncomputable def sysOps : List Instr := [.trap 2, .trapX { Ext.fixed with a := .imm 3 }, .rte, .rteX, .csave imgX, .cload imgX, .rgnclr (ext (.s 20) (.s 4) (.imm 1)), .tlbinv (ext .absent (.s 4) (.imm 0))]
theorem wit_TrapInstructions : (∀ i ∈ sysOps, can (put sW) i ∧ can (put (inTrap sW)) i ∧ can (put { sW with sprout := some mySprout }) i) ∧
    sW.r.tmode = false ∧ sW.settled = true ∧ (sees (put sW) (.trap 2)).m ≠ 0 ∧
    ((inTrap sW).r.tmode = true ∧ (inTrap sW).r.fcause.toNat % 256 ≠ 14 ∧ (inTrap sW).r.tstat.getLsbD 8 = false ∧ (inTrap sW).r.mrecs = [] ∧ 4 ∣ (inTrap sW).r.lpc.toNat ∧
      (inTrap sW).r.imask &&& (inTrap sW).r.live ≠ 0) ∧ (put sW).fenceHolds sW 4 = true ∧
    (let w : Warp := inTrap { sW with r := { sW.r with fcause := 14 } }
     w.r.tmode = true ∧ w.r.fcause.toNat % 256 = 14 ∧ w.quiet = true ∧ (put w).fenceHolds w 3 = true) ∧ ({ inTrap sW with outs := [tOut] } : Warp).quiet = false :=
  ⟨fun i hi => ⟨all_can _ sysOps (by decide +kernel) i hi, all_can _ sysOps (by decide +kernel) i hi, all_can _ sysOps (by decide +kernel) i hi⟩,
   by decide +kernel, rfl, by decide +kernel, ⟨by decide +kernel, by decide +kernel, by decide +kernel, rfl, by decide +kernel, by decide +kernel⟩, by decide +kernel,
   by decide +kernel, rfl⟩

noncomputable def regOps : List Instr := [.srd (ext (.reg 4) (.sr .tid) .absent), .srd { ext (.reg 4) (.sr .tc) .absent with mod := 1 }, .time 4, .timeX (ext (.reg 4) .absent .absent), .topo 2 6, .perf (ext (.reg 4) (.imm 4) .absent),
  .swr (ext (.sr .mrp) (.imm 0) .absent), .swr (ext (.sr .tstat) (.imm 0) .absent), .swr (ext (.sr .lpc) (.imm 0) .absent), .swr { ext (.sr .lpc) (.reg 2) .absent with mod := 1 }, .swr (ext (.sr .lpchi) (.imm 0) .absent), .swr (ext (.sr .lane) (.imm 0) .absent)]
theorem wit_SystemRegisters : (∀ i ∈ regOps, can (put sW) i ∧ can (put (inTrap sW)) i) ∧ (sees (put sW) (.swr (ext (.sr .mrp) (.imm 0) .absent))).m ≠ 0 :=
  ⟨fun i hi => ⟨all_can _ regOps (by decide +kernel) i hi, all_can _ regOps (by decide +kernel) i hi⟩, by decide +kernel⟩

/-! ### Homes and messages -/

/-- An entry of the line at 0x10000, whose home is memory site 16, and a message about it to its home. -/
def rg : Region := ⟨144, 512, 0, 0, 0, 0, 0, 0, 0, 0, 0, 0, .invalid, false, 0⟩
def msg (ty : MType) (agent : Nat) : Msg := { id := 1, ty := ty, src := 0, dst := 144, addr := 0x10000, tag := 7, agent := agent }
def hS (m : Msg) (r : Region) : State := { State.reset with now := 100, net := [m], regions := [r], arg := { n := 1 } }
def engine : Nat := 2 ^ 28
def held : Region := { rg with st := .excl, agent := engine, xexp := 100000 }
/-- The holder has renewed nothing for 90 µs. -/
def silentS (m : Msg) : State := { hS m held with now := 90000, renewals := [(144, engine, 0, 0)] }

theorem wit_HomesServeRequests :
    (∀ m ∈ [{ msg .readReq 0 with once := true }, msg .readReq 0, msg .storeReq 0, msg .atomReq 0, msg .exclReq engine, msg .watchSet 0, { msg .watchSet 0 with t1 := 5 }, msg .lostClear 0],
      ∀ r ∈ [rg, { rg with wmax := 3 }, { rg with lost := true }],
      Arrives (hS m r) m ∧ Served (hS m r) m ∧ (hS m r).regionOf m.dst (lineOf m.addr) = some r) ∧
    mayLease 0 = true ∧ mayExcl engine = true ∧ mayWatch 0 = true ∧
    (hS (msg .exclReq engine) rg).lineState 144 512 ≠ .lost ∧ max rg.lmax ((hS (msg .exclReq engine) rg).takenOver 512) + (hS (msg .exclReq engine) rg).eAt 144 ≤ (hS (msg .exclReq engine) rg).tcAt 144 ∧
    (∀ r ∈ [held, rg], Arrives (hS (msg .writeback engine) r) (msg .writeback engine) ∧ (hS (msg .writeback engine) r).homeUp 144 = true ∧
      (hS (msg .writeback engine) r).regionOf 144 512 = some r ∧ (hS (msg .writeback engine) r).isDead 144 engine 0 = false ∧
      (hS (msg .writeback engine) r).deadDue 144 engine 0 = false ∧ (hS (msg .writeback engine) r).xexpDue 144 r = false) ∧
    (silentS (msg .writeback engine)).deadDue 144 engine 0 = true ∧ ({ hS (msg .writeback engine) held with now := 100000 } : State).xexpDue 144 held = true ∧
    ((hS (msg .writeback engine) held).queueOf 512).q = [] := by
  refine ⟨?_, by decide +kernel, by decide +kernel, by decide +kernel, by decide +kernel, by decide +kernel, ?_, by decide +kernel, by decide +kernel, by decide +kernel⟩
  · intro m hm r hr
    refine ⟨⟨?_, ?_, ?_⟩, ⟨?_, ?_, ?_, ?_, ?_, ?_, ?_⟩, ?_⟩ <;> revert r <;> revert m <;> decide +kernel
  · intro r hr
    refine ⟨⟨?_, ?_, ?_⟩, ?_, ?_, ?_, ?_, ?_⟩ <;> revert r <;> decide +kernel

/-- A store, an atomic and a RED whose time has come. -/
def queued (m : Msg) : State := { hS m rg with lineq := [⟨512, [], [⟨m, 100⟩], false⟩] }
theorem wit_WritesPerform : (∀ m ∈ [{ msg .storeReq 0 with mask := 1 }, msg .atomReq 0, { msg .atomReq 0 with noret := true }, { msg .atomReq 0 with noret := true, mask := 15 }],
    (queued m).lineq.find? (fun q => q.held.head?.any fun h => h.msg.id = (queued m).arg.n) = some ⟨512, [], [⟨m, 100⟩], false⟩ ∧ (queued m).homeUp ((queued m).homeOf (lineAddr 512)) = true ∧
    100 ≤ (queued m).tcAt ((queued m).homeOf (lineAddr 512)) ∧ (queued m).hbmFree ((queued m).homeOf (lineAddr 512)) 512 = true ∧ m.addr % atomSize m.op = 0 ∧ m.op % 256 < 8) := by decide +kernel

/-- The line of an entry, with what each event finds. -/
def inTime (r : Region) (a : EvArg) (now : Nat) : State := { State.reset with now := now, regions := [r], arg := a }
def buddy : Region := { rg with base := 513 }
theorem wit_HomesInTime :
    (inTime rg {} 0).homeOf (lineAddr 512) = 144 ∧ (inTime rg {} 0).homeUp 144 = true ∧ (inTime rg {} 0).regionOf 144 512 = some rg ∧
    (∀ b ∈ [true, false], ({ inTime rg { n := 512 } 100 with lineq := [⟨512, [msg .exclReq engine], [], b⟩] } : State).queueOf 512 = ⟨512, [msg .exclReq engine], [], b⟩ ∧ rg.busy = false ∧
      (inTime rg { n := 512 } 100).hbmFree 144 512 = true ∧ isCompanion (msg .exclReq engine).addr = false ∧ (inTime rg { n := 512 } 100).eAt 144 ≤ (inTime rg { n := 512 } 100).tcAt 144) ∧
    (let r : Region := { rg with st := .shared }; r.lmax + (inTime r { n := 512 } 100).eAt 144 ≤ (inTime r { n := 512 } 100).tcAt 144 ∧ (inTime r { n := 512 } 100).regionOf 144 512 = some r) ∧
    (held.xexp ≤ (inTime held { n := 512 } 100000).tcAt 144 ∧ (inTime held { n := 512 } 100000).endingHeld 512 = false ∧ ((inTime held { n := 512 } 100000).queueOf 512).q = []) ∧
    (let s : State := { inTime held { n := engine, m := 512 } 90000 with renewals := [(144, engine, 0, 0)] }
     s.renewals.find? (fun x => x.2.1 = s.arg.n && s.deadDue 144 s.arg.n x.2.2.1) = some (144, engine, 0, 0)) ∧
    (let s : State := { inTime rg { n := 0x10000 } 1000000 with regions := [rg, buddy] }
     lineOf s.arg.n = 512 ∧ s.homeOf s.arg.n = 144 ∧ rg.lastwait + 1000000 ≤ s.tcAt 144 ∧ rg.quiet + 1000000 ≤ s.tcAt 144 ∧
       s.regions.find? (fun b => siblings rg b && (!rg.busy && rg.quiet + 1000000 ≤ s.tcAt 144) && (!b.busy && b.quiet + 1000000 ≤ s.tcAt 144)) = some buddy) ∧
    (Arrives (hS (msg .renew engine) held) (msg .renew engine) ∧ (hS (msg .renew engine) held).isDead 144 engine 0 = false ∧ (hS (msg .renew engine) held).deadDue 144 engine 0 = false ∧
      ∀ o ∈ (hS (msg .renew engine) held).regions, (hS (msg .renew engine) held).xexpDue 144 o = false) ∧
    (let s : State := { inTime rg { n := 5 } 1000000 with watches := [⟨5, 144, 512, 1, 0, msg .watchSet 0⟩] }
     s.watches.find? (·.id = 5) = some ⟨5, 144, 512, 1, 0, msg .watchSet 0⟩ ∧ 1000000 ≤ s.tcAt 144) ∧
    ({ inTime rg { n := 1 } 0 with kelvia := [msg .storeAck 0] } : State).kelvia.find? (·.id = 1) = some (msg .storeAck 0) :=
  ⟨by decide +kernel, by decide +kernel, by decide +kernel, by decide +kernel, by decide +kernel, by decide +kernel, by decide +kernel, by decide +kernel,
   ⟨⟨by decide +kernel, by decide +kernel, by decide +kernel⟩, by decide +kernel, by decide +kernel, by decide +kernel⟩, by decide +kernel, by decide +kernel⟩

/-! ### Agents -/

def ask (users : List User) : Req := ⟨7, 0, 0, 0, 512, 0, false, users, true, 0, none, none⟩
def answer (ty : MType) : Msg := { id := 1, ty := ty, src := 144, dst := 0, addr := 0x10000, tag := 7, t1 := 5, t2 := 1000 }
def aS (w : Warp) (m : Msg) (q : Req) : State := { put w with net := [m], reqs := [q], arg := { n := 1, w := probeKey } }
def laneAcc (data : Nat) : LaneAcc := ⟨0, 0x10000, 0x10003, 0x10000, 4, data, 0, false, 0, false, false, 7⟩
def loading : Warp := { tW with outs := [{ tOut with lanes := [laneAcc 0], x := { Ext.fixed with d := .reg 4, a := .reg 2, c := .imm 0, mod := 2 } }] }
def storing : Warp := { tW with outs := [{ tOut with kind := .store, op := .st, acks := [(7, false)] }] }
def atomic : Warp := { tW with wait := .acks, outs := [{ tOut with kind := .atom, op := .atom, lanes := [laneAcc 1], acks := [(7, false)], x := { Ext.fixed with d := .reg 4 } }] }
def reading : Warp := { tW with wait := .waitmRead 0 0x10000 }

theorem working (w : Warp) (m : Msg) (q : Req) (hl : w.r.live ≠ 0) (hp : w.parked = false) : Working (aS w m q) probeKey w :=
  ⟨rfl, rfl, hl, hp, fun tm h => by cases h; exact ⟨rfl, rfl⟩⟩

/-- A grant before and after the holder's data, the data first and last, and acknowledgements. -/
theorem wit_AgentsTakeAnswers :
    (∀ ty ∈ [MType.readGrant, .fwdData, .storeAck, .atomAck], Arrives (aS tW (answer ty) (ask [.prefetch])) (answer ty) ∧
      (aS tW (answer ty) (ask [.prefetch])).reqs.find? (·.tag = (answer ty).tag) = some (ask [.prefetch])) ∧
    ((aS reading (answer .readGrant) (ask [.waitm probeKey])).warp? probeKey = some reading ∧ ∀ p ∈ (aS reading (answer .readGrant) (ask [.waitm probeKey])).warps, p.2.settled = true) ∧
    (Working (aS loading (answer .readGrant) (ask [.out probeKey 1])) probeKey loading ∧ (aS loading (answer .readGrant) (ask [.out probeKey 1])).tcAt 0 < (answer .readGrant).t2 ∧
      max (loading.r.floorOf 0) 5 ≤ 1000 ∧ ∀ j < 4, lineOf ((laneAcc 0).place j) = 512) ∧
    (∀ p ∈ (aS loading (answer .readGrant) (ask [.out probeKey 1])).warps, p.1 = probeKey) ∧
    (let m : Msg := { answer .readGrant with fwd := true }; Arrives (aS tW m (ask [.prefetch])) m ∧ (ask [.prefetch]).fwdData = none ∧ (ask [.prefetch]).grant = none) ∧
    (let q : Req := { ask [.waitm probeKey] with grant := some (5, 1000, true) }
     Arrives (aS reading (answer .fwdData) q) (answer .fwdData) ∧ (aS reading (answer .fwdData) q).reqs.find? (·.tag = 7) = some q) ∧
    Working (aS storing (answer .storeAck) (ask [.out probeKey 1])) probeKey storing ∧ Working (aS atomic (answer .atomAck) (ask [.out probeKey 1])) probeKey atomic := by
  refine ⟨?_, ⟨rfl, by decide +kernel⟩, ⟨working _ _ _ (by decide +kernel) rfl, by decide +kernel, by decide +kernel, by decide +kernel⟩, by decide +kernel,
    ⟨⟨by decide +kernel, by decide +kernel, by decide +kernel⟩, rfl, rfl⟩, ⟨⟨by decide +kernel, by decide +kernel, by decide +kernel⟩, by decide +kernel⟩,
    working _ _ _ (by decide +kernel) rfl, working _ _ _ (by decide +kernel) rfl⟩
  intro ty hty
  refine ⟨⟨?_, ?_, ?_⟩, ?_⟩ <;> revert ty <;> decide +kernel

def lease (agent : Nat) (st : Nat) : Hold := ⟨agent, 0, 0, 512, st, 1000, 0, 0, 1, 0, 0, { msg .forward 0 with tag := 7 }, 9⟩
def leaseS (m : Msg) (h : Hold) (now : Nat) : State := { State.reset with now := now, net := [m], holds := [h], arg := { n := 1 } }
def op7 : Incoming := { id := 9, port := 0, module := 1, asid := 0, kind := 0, addr := 0x10000, len := 4, op := 0, data := [1, 2, 3, 4], cmp := 0, st := 1, pages := [(1, 0x10000)], left := [7], w := 0, reply := [], refused := false }
/-- A Forward and a Recall that come in time and too late; renewals and bounds; grants to an engine and to a span port. -/
theorem wit_HoldersAnswer :
    (∀ ty ∈ [MType.forward, .recall], let m : Msg := { msg ty engine with dst := 0, t1 := 3, t2 := engine }
      Arrives (leaseS m (lease engine 1) 0) m ∧ (leaseS m (lease engine 1) 0).holds.find? (fun h => h.unit = m.dst && h.line = lineOf m.addr && h.st = 1) = some (lease engine 1) ∧
      (leaseS m (lease engine 1) 0).holdLive (lease engine 1) = true ∧ (leaseS m (lease engine 1) 1000).holdLive (lease engine 1) = false ∧ (leaseS m (lease engine 1) 0).resting 9) ∧
    (let s : State := { leaseS (msg .forward 0) (lease engine 1) 30000 with arg := { n := engine, m := 512 } }
     s.holds.find? (fun h => !s.dieDown h.unit && h.agent = s.arg.n && h.st = 1 && h.renewed + 25000 ≤ s.tcAt h.unit) = some (lease engine 1) ∧
       s.holds.find? (fun h => h.agent = s.arg.n && h.line = s.arg.m && h.st = 1) = some (lease engine 1) ∧ (lease engine 1).till ≤ s.tcAt 0) ∧
    (let s : State := leaseS (msg .forward 0) { lease engine 1 with till := 100000 } 80000
     s.tcAt 0 < 100000 ∧ (lease engine 1).renewed + 75000 ≤ s.tcAt 0) ∧
    (∀ a ∈ [engine, 7 * 2 ^ 28], let m : Msg := { msg .exclGrant a with dst := 0, t2 := 5000 }
      let s : State := { leaseS m (lease a 0) 0 with incoming := [op7] }
      Arrives s m ∧ s.holds.find? (fun h => h.st = 0 && h.reader.tag = m.tag) = some (lease a 0) ∧ s.tcAt 0 < m.t2 - s.eAt 0 ∧ (∀ c ∈ s.copies, c.id = (lease a 0).user → s.copyNeeds c 512 = true) ∧
        (∀ o ∈ s.holds, o = lease a 0) ∧ s.incoming.find? (·.id = (lease a 0).user) = some op7 ∧ s.resting 9) ∧ agentKind engine = 1 ∧ agentKind (7 * 2 ^ 28) = 7 := by
  refine ⟨?_, by decide +kernel, by decide +kernel, ?_, by decide +kernel, by decide +kernel⟩
  · intro ty hty
    refine ⟨⟨?_, ?_, ?_⟩, ?_, ?_, ?_, fun c hc => (by cases hc)⟩ <;> revert ty <;> decide +kernel
  · intro a ha
    refine ⟨⟨?_, ?_, ?_⟩, ?_, ?_, fun c hc => (by cases hc), ?_, ?_, fun c hc => (by cases hc)⟩ <;> revert a <;> decide +kernel

def note (ty : MType) (dst : Nat) : Msg := { id := 1, ty := ty, src := 144, dst := dst, addr := 0x10000, tag := 7 }
def atS (w : Warp) (m : Msg) : State := { put w with net := [m], arg := { n := 1, w := probeKey }, now := 100 }
def asking : Warp := { tW with wait := .waitm 0 7 0 }
def clearing : Warp := { tW with wait := .rgnclr [7] 0 }
def flushing : Warp := { tW with wait := .inval 7 }
def podG : Grid := { probeGrid with pool := true, l := { Launch.none with dies := [some 0], next := [1] } }
def pod (core : Nat) (items : List PodItem) : Pod := ⟨0, core, 1, 0, 64, items, 0⟩
/-- An item that OUTSTANDING counts. -/
def anItem : PodItem := ⟨0, 0, some 0⟩
def stealS (m : Msg) : State := { atS tW m with grids := [(1, podG)], pods := [pod 0 [anItem, anItem], pod 1 []], steals := [⟨0, 1, 1, 0, true, 1, 0⟩] }

theorem arrives {s : State} {m : Msg} (h : (decide (s.net.find? (fun o => o.id = s.arg.n) = some m) && !s.overtaken m && !s.dieDown m.dst) = true) : Arrives s m := by
  simp only [Bool.and_eq_true, decide_eq_true_eq, Bool.not_eq_true'] at h
  exact ⟨h.1.1, h.1.2, h.2⟩

/-- The answer to the store of a notice; a LostNotice to a copy engine that holds the line; requests to a die with Pods and to one without. -/
def noteAck : State := { atS tW (note .storeAck 257) with reqs := [{ ask [.notice 3] with kind := 9, read := false }] }
def lostS : State := { atS tW { note .lostNotice 0 with agent := engine } with holds := [lease engine 1] }
theorem wit_OtherMessages :
    (Arrives (atS asking (note .watchFire 0)) (note .watchFire 0) ∧ (note .watchFire 0).dst ≠ bn1Unit ∧ (atS asking (note .watchFire 0)).warp? probeKey = some asking ∧ asking.die = 0) ∧
    (Arrives (atS tW (note .lostNotice 257)) (note .lostNotice 257) ∧ (note .lostNotice 257).op / 256 ≠ 6 ∧ (atS tW (note .lostNotice 257)).notices = [] ∧
      ({ atS tW (note .lostNotice 257) with service := [(rNrLog, 6)] } : State).ringFree rNrTail rNrHead rNrLog = true) ∧
    (Arrives noteAck (note .storeAck 257) ∧ noteAck.reqs.find? (·.tag = 7) = some { ask [.notice 3] with kind := 9, read := false }) ∧
    (Arrives lostS { note .lostNotice 0 with agent := engine } ∧ lostS.holder engine 512 0 (lease engine 1) ∧ lostS.resting 9) ∧
    Arrives (atS tW (note (.unknown 40) 0)) (note (.unknown 40) 0) ∧ Arrives (atS clearing (note .lostAnswer 0)) (note .lostAnswer 0) ∧
    (∀ once ∈ [true, false], Arrives (atS tW { note .tlbInv 0 with once := once }) { note .tlbInv 0 with once := once } ∧ (atS tW { note .tlbInv 0 with once := once }).olderAccess 0 0 = false) ∧
    (let v : Inval := ⟨7, some probeKey, [144], 0, 0, 0, 0⟩
     Arrives { atS flushing (note .tlbAck 0) with invals := [v] } (note .tlbAck 0) ∧ ({ atS flushing (note .tlbAck 0) with invals := [v] } : State).invals.find? (·.id = 7) = some v) ∧
    (let m := { note .stealReq 0 with t1 := 1, op := 1 }
     Arrives (stealS m) m ∧ (stealS m).grid? 1 = some podG ∧ (stealS m).panel.gating.get 0 0 < 2 ∧ ((stealS m).overOf 1 0).queued = 0 ∧
       (stealS m).fullestPod 0 1 = some (pod 0 [anItem, anItem]) ∧ (stealS m).podPoisoned (pod 0 [anItem, anItem]) = false ∧ ({ stealS m with pods := [] } : State).fullestPod 0 1 = none) ∧
    (let m := { note .stealReply 0 with t1 := 1, t2 := 1, items := [0] }
     Arrives (stealS m) m ∧ (stealS m).steals.find? (fun t => t.die = 0 && t.core = 1 && t.grid = 1) = some ⟨0, 1, 1, 0, true, 1, 0⟩ ∧ (stealS m).podOf 0 1 1 = some (pod 1 [])) := by
  refine ⟨⟨arrives (by decide +kernel), by decide +kernel, rfl, rfl⟩, ⟨arrives (by decide +kernel), by decide +kernel, rfl, by decide +kernel⟩, ⟨arrives (by decide +kernel), by decide +kernel⟩,
    ⟨arrives (by decide +kernel), by unfold State.holder; decide +kernel, fun c hc => (by cases hc)⟩, arrives (by decide +kernel), arrives (by decide +kernel), ?_,
    ⟨arrives (by decide +kernel), by decide +kernel⟩, ⟨arrives (by decide +kernel), rfl, by decide +kernel, by decide +kernel, by decide +kernel, by decide +kernel, by decide +kernel⟩,
    arrives (by decide +kernel), by decide +kernel, by decide +kernel⟩
  intro once ho
  refine ⟨arrives ?_, ?_⟩ <;> revert once <;> decide +kernel

/-! ### Warps and units -/

def evS (w : Warp) (now : Nat) : State := { put w with arg := { n := 1, w := probeKey, t := ⟨1, 0⟩ }, now := now }
theorem evWorking (w : Warp) (now : Nat) (hl : w.r.live ≠ 0) (hp : w.parked = false) : Working (evS w now) probeKey w :=
  ⟨rfl, rfl, hl, hp, fun tm h => by cases h; exact ⟨rfl, rfl⟩⟩
def vaultW (k : OKind) (op : Op) : Warp :=
  { tW with outs := [{ tOut with kind := k, op := op, ctr := some .ks, lanes := [⟨0, 0, 3, 0, 4, 5, 0, false, 0, false, false, 0⟩], x := { Ext.fixed with d := .reg 4, mod := 2 } }] }

theorem wit_WarpsGoOn :
    (let w : Warp := { tW with trapping := some aTrap }
     (evS w 0).warp? probeKey = some w ∧ (evS w 0).dieDown w.die = false ∧ (evS w 0).entryReady w aTrap = true ∧ aTrap.cause ≠ cResume ∧ (evS w 0).grid? 1 = some probeGrid) ∧
    (let w : Warp := { tW with pending := ⟨false, true, false⟩ }
     (evS w 0).warp? probeKey = some w ∧ w.r.tmode = false ∧ w.r.live ≠ 0 ∧ w.r.recr.state ≠ 1) ∧
    (let w : Warp := { tW with wait := .fence 3 }
     (evS w 0).fenceHolds w 3 = true) ∧
    (evS { tW with wait := .sleep 5 4 } 5).tcAt 0 = 5 ∧ 0 + 5 ≤ (evS { tW with wait := .waitm 0 7 5 } 5).tcAt 0 ∧
    ((evS { tW with active := false } 0).activeCount 0 0 < 8 ∧ tW.outs = [] ∧ tW.wait.ready = true) ∧
    (let w : Warp := { tW with sprout := some { mySprout with first := some 0 } }
     let s : State := { evS recruiter 10 with warps := [(probeKey, recruiter), (sproutKey, w)], arg := { w := sproutKey } }
     s.warp? sproutKey = some w ∧ s.overBudget sproutKey w = true ∧ s.warp? probeKey = some recruiter) ∧
    (Working (evS { recruiter with release := 1 } 0) probeKey { recruiter with release := 1 } ∧ (evS { recruiter with release := 1 } 0).releaseHolds probeKey = true) :=
  ⟨by decide +kernel, by decide +kernel, by decide +kernel, by decide +kernel, by decide +kernel, by decide +kernel, by decide +kernel, evWorking _ _ (by decide +kernel) rfl, by decide +kernel⟩

/-- A halt is pending in a handler. -/
theorem wit_WarpsGoOn_halt : let w : Warp := { inTrap tW with pending := ⟨true, true, false⟩ }
    (evS w 0).warp? probeKey = some w ∧ (evS w 0).dieDown w.die = false ∧ w.r.live ≠ 0 ∧ w.outs = [] ∧ w.wait = .none ∧ w.r.recr.state ≠ 1 ∧ w.r.tmode = true := by decide +kernel

theorem wit_ScratchAccessesPerform :
    (let s : State := { evS tW 0 with teams := [(⟨1, 0⟩, { probeTeam with cleared := 0 })] }
     s.team? ⟨1, 0⟩ = some { probeTeam with cleared := 0 } ∧ 0 < roundUpTo 1024 probeGrid.scratch) ∧
    (∀ k ∈ [(OKind.vload, Op.ld), (.vstore, .st), (.vatom, .atom)], (evS (vaultW k.1 k.2) 0).scratchReady 0 4 = true ∧ (evS (vaultW k.1 k.2) 0).eccVault = []) ∧
    (∀ n, (evS tW 0).inflight.get 0 n = 0) ∧ (∀ a, (evS tW 0).mapAt a = none) ∧ Working (evS (vaultW .vload .ld) 0) probeKey (vaultW .vload .ld) := by
  refine ⟨⟨rfl, by decide +kernel⟩, by decide +kernel, fun n => rfl, fun a => ?_, evWorking _ _ (by decide +kernel) rfl⟩
  unfold State.mapAt
  cases h : (evS tW 0).ownerOf a with
  | none => rfl
  | some p =>
    have hp : p ∈ (evS tW 0).teams := by
      unfold State.ownerOf at h
      exact List.mem_of_find?_eq_some h
    have : p = (⟨1, 0⟩, probeTeam) := by simpa using (show p ∈ [(⟨1, 0⟩, probeTeam)] from hp)
    subst this; rfl

theorem calm (s : State) (ht : s.teams = [(⟨1, 0⟩, probeTeam)]) (w : Warp) (hw : s.warps = [(probeKey, w)]) (hl : w.r.live ≠ 0) (hk : w.parked = false) (hx : w.streaming = false) (hd : s.dieDown 0 = false)
    (hp : s.pods = []) (ho : s.overs = []) (hc : s.copies = []) (hm : s.mats = []) (hq : s.queues = []) : s.Calm :=
  ⟨by rw [ht, hw]; exact fun p h => (by cases List.mem_singleton.1 h; exact ⟨rfl, rfl, hd, _, List.mem_singleton.2 rfl, rfl, rfl, hl, hk⟩), hp, by rw [ho]; exact fun q h => (by cases h),
   by rw [hw]; exact fun q h => (by cases List.mem_singleton.1 h; exact hx), by rw [hc]; exact fun c h => (by cases h), hm, by rw [hq]; exact fun q h => (by cases h)⟩

theorem isLeaf (x : State × Step') (h : (match x.2 with | .found (.leaf ..) => true | _ => false) = true) : ∃ s' bits pa wr x' pin g, x = (s', .found (.leaf bits pa wr x' pin g)) := by
  obtain ⟨s, f⟩ := x
  cases f with
  | read _ => cases h
  | found f => cases f with
    | leaf bits pa wr y pin g => exact ⟨_, _, _, _, _, _, _, rfl⟩
    | _ => cases h
theorem isBad (x : State × Step') (b : Nat) (h : x.2 = .found (.bad 0 false b)) : ∃ s' bits, x = (s', .found (.bad 0 false bits)) := ⟨x.1, b, by rw [← h]⟩
theorem isRead (x : State × Step') (l : Nat) (h : x.2 = .read l) : ∃ s' l, x = (s', .read l) := ⟨x.1, l, by rw [← h]⟩

/-- A walk that has read the line of the table at 0x20000, one that must read it, one that finds nothing; a fault record. -/
def aWalk : Walk := ⟨1, 0, 0, 0x10000, [kLoad], false, 1, [⟨1024, 0, 0, 0, false, BitVec.ofNat 1024 (0x10013 * 2 ^ 64)⟩], 0⟩
def walkS (w : Walk) : State := { evS tW 0 with walks := [w], tables := [⟨0, 0, 3, levelPrefix 3 0x10000, 0x20000⟩], boundary := 2 ^ 30 }
def aFault : FaultRec := ⟨1, 0, 0, 0x10000, 16, kLoad, 0, 0, 7, 0, false, false⟩
def faultS (f : FaultRec) : State :=
  { evS { tW with wait := .page 1 1 0x10000 } 0 with
    faults := [f], service := [(rFqLog, 6)], arg := { n := 1, v := 2 ^ 32 + 7 }, net := [msg .storeAck 0]
    reqs := [⟨7, 144, 0, 5, 1, 0, false, [.fault 1], false, 0, none, none⟩], grids := [(1, { probeGrid with header := { probeHeader with hasTrap := true } })] }
theorem wit_TranslationGoesOn :
    (∀ w ∈ [aWalk, { aWalk with rd := [] }], let s := walkS w
      s.walks.find? (·.id = s.arg.n) = some w ∧ s.walkerFree w = true ∧ s.dieDown w.die = false ∧ w.tag = 0 ∧ s.Calm ∧ ∀ w ∈ s.warps, w.2.outs = []) ∧
    (∃ s' line, (walkS { aWalk with rd := [] }).walkPage { aWalk with rd := [] } = (s', .read line)) ∧ (∃ s' bits pa wr x pin g, (walkS aWalk).walkPage aWalk = (s', .found (.leaf bits pa wr x pin g))) ∧
    (∃ s' bits, { walkS aWalk with tables := [] }.walkPage aWalk = (s', .found (.bad 0 false bits))) ∧
    (let s := faultS aFault
     s.faults.find? (·.id = s.arg.n) = some aFault ∧ (∀ o ∈ s.faults, o.tag ≠ 0 → o.written = true) ∧ s.ringFree rFqTail rFqHead rFqLog = true ∧ (s.reg rFqBase + 32 * (s.reg rFqTail % 2 ^ s.reg rFqLog)) % 32 = 0) ∧
    (let s := faultS { aFault with tag := 7 }
     Arrives s (msg .storeAck 0) ∧ ∃ q, s.reqs.find? (·.tag = (msg .storeAck 0).tag) = some q ∧ q.kind ≠ 0 ∧ q.users = [.fault 1]) ∧
    (let s := faultS { aFault with written := true }
     s.faults.find? (fun f => f.written && !f.declined && f.token % 2 ^ 32 = s.arg.v.toNat % 2 ^ 32) = some { aFault with written := true } ∧ s.dieDown 0 = false ∧ s.Calm ∧ s.arg.v.getLsbD 32 = true ∧ s.unitWaits = [] ∧
       s.warp? probeKey = some { tW with wait := .page 1 1 0x10000 } ∧ tW.outs = [] ∧ tW.sprout = none ∧ tW.r.tmode = false ∧ tW.r.live ≠ 0 ∧ tW.parked = false ∧ (∀ q ∈ s.warps, q.1 = probeKey) ∧
       s.grid? probeKey.grid = some { probeGrid with header := { probeHeader with hasTrap := true } }) := by
  refine ⟨?_, isRead _ 1024 (by decide +kernel), isLeaf _ (by decide +kernel), isBad _ 16 (by decide +kernel), by decide +kernel, ⟨⟨by decide +kernel, by decide +kernel, by decide +kernel⟩, by decide +kernel⟩, ?_⟩
  · intro w hw
    refine ⟨?_, ?_, ?_, ?_, calm _ rfl tW rfl (by decide +kernel) rfl (by decide +kernel) rfl rfl rfl rfl rfl rfl, fun w h => (by cases List.mem_singleton.1 h; rfl)⟩ <;> revert w <;> decide +kernel
  · exact ⟨by decide +kernel, by decide +kernel, calm _ rfl { tW with wait := .page 1 1 0x10000 } rfl (by decide +kernel) rfl (by decide +kernel) rfl rfl rfl rfl rfl rfl, by decide +kernel, by decide +kernel, by decide +kernel,
      by decide +kernel, by decide +kernel, by decide +kernel, by decide +kernel, by decide +kernel, fun q h => (by cases List.mem_singleton.1 h; rfl), by decide +kernel⟩

/-- A copy that its engine serves, one that is over, matrix jobs in the team's scratch, and a stream that reads ahead. -/
def aCopy : Copy := { Copy.fresh 1 ⟨1, 0⟩ none 0 0 0 0 false with order := 1, desc := { Desc.ofNat 0 with rows := 1, rowBytes := 64 }, rows := [(0, 1)] }
def copyS : State := { evS tW 0 with copies := [aCopy], engines := [⟨0, 0, [0, 0, 0, 0], 0, true, [0, 0, 0, 0]⟩], arg := {} }
def doneS : State := { evS tW 100 with copies := [{ aCopy with rows := [] }] }
def matW : Warp := { mW with r := { mW.r with s := [(11, 1), (15, 1)] } }
def mmaX : Instr := .mma { Ext.fixed with d := .reg 16, a := .s 8, b := .s 12 }
def aJob : MatJob := (sees (put matW) mmaX).job 0xc0
def anEntry (granted : Bool) : MatEntry := ⟨1, probeKey, 0, 0, 0, aJob.bits, granted, 1, none, 0, false, 0⟩
def matS (granted : Bool) : State := { evS matW 0 with mats := [anEntry granted], arg := { w := probeKey } }
def xCsr : XReg := { XReg.ofBits 0 with st := 1, info := 4, endx := 4, arr1 := 0x10000 }
def streamW : Warp := { tW with r := { tW.r with x := [(2, xCsr.bits)] } }
def lookS : State := { evS streamW 0 with tlbs := [{ probeTlb with level := 1 }], arg := { n := 2, w := probeKey } }

theorem isVal (x : Got) (h : (match x with | .val _ => true | _ => false) = true) : ∃ n, x = .val n := by
  cases x with
  | val n => exact ⟨n, rfl⟩
  | _ => cases h
theorem isOk (x : State × Xl) (pa : Nat) (h : x.2 = .ok pa) : ∃ s' pa, x = (s', .ok pa) := ⟨x.1, pa, by rw [← h]⟩

theorem wit_UnitsGoOn :
    (copyS.served 0 0 0 = some aCopy ∧ (copyS.engineOf 0 0).turn < (copyS.engineOf 0 0).deficit.length ∧ aCopy.paused = none ∧ partsSize aCopy.nextChunk.1 ≤ 0 + 1024 * 2 ^ 0 ∧ copyS.faults = [] ∧
      (∀ o ∈ copyS.copies, o.id = aCopy.id → o = aCopy) ∧ aCopy.mode = 0) ∧
    (doneS.copies.find? (·.id = doneS.arg.n) = some { aCopy with rows := [] } ∧ doneS.copyOver { aCopy with rows := [] } = true ∧ doneS.passed 0 0 = true ∧ Working doneS probeKey tW ∧
      (doneS.team? aCopy.team).isSome = true ∧ ∀ o ∈ doneS.copies, o.team = aCopy.team → o.order ≠ 0) ∧
    ((matS false).matStarted 0 0 = [] ∧ pickEntry ((matS false).mats.filter fun e => !e.granted && e.parked.isNone) = some (anEntry false)) ∧
    ((matS true).matRuns matW.die (matW.core / 4) = some (anEntry true) ∧ (anEntry true).matJob = aJob ∧ aJob.nextGroup matW.width = some 0 ∧
      ∀ x ∈ aJob.reads (maskOf (aJob.groupLanes 0)), ∃ n, (matS true).pipeRead ((anEntry true).pipe matW) x.1 x.2.1 x.2.2 = .val n) ∧
    (let p := streamW.streamPipe probeKey 2
     (streamW.r.getX 2).st = 1 ∧ (streamW.r.getX 2).ahead = [(0x10000, 16)] ∧ (streamW.r.getX 2).space = 0 ∧ lookS.pipeRead p 0 0x10000 16 = .need ∧
      lookS.lookAt p.reader 512 = none ∧ ∃ s' pa, lookS.translateUnit 0 p.unit (p.asid lookS) p.kind 0x10000 = (s', .ok pa)) := by
  refine ⟨by decide +kernel, ⟨by decide +kernel, by decide +kernel, by decide +kernel, ⟨rfl, rfl, by decide +kernel, rfl, fun tm h => (by cases h; exact ⟨rfl, rfl⟩)⟩, by decide +kernel, by decide +kernel⟩, by decide +kernel,
    ⟨by decide +kernel, by decide +kernel, by decide +kernel, fun x hx => isVal _ ?_⟩, by decide +kernel, by decide +kernel, by decide +kernel, by decide +kernel, by decide +kernel, isOk _ 0x10000 (by decide +kernel)⟩
  revert x; decide +kernel

/-! ### The distributor, the dispatchers and the Shellers -/

/-- Fields of a record or a header at their offsets. -/
def fields (l : List (Nat × Nat)) : Nat := l.foldl (fun n p => n + p.2 * 256 ^ p.1) 0
def aHeader : Nat := fields ([(0, 0x4b5a), (2, 1), (4, 8), (5, 8), (6, 32)] ++ (List.range 18).map fun i => (0x10 + i, 0xff))
def aRecord : Line := BitVec.ofNat 1024 (fields [(0, 0x10000), (8, 64), (0x10, 1), (0x14, 1), (0x18, 1), (0x1c, 32 + 2 ^ 10 + 2 ^ 20), (0x20, 1), (0x21, 1), (0x30, 0x10000), (0x38, 0x10000)])
def bnTlb : Tlb := ⟨2, bn1, 0, 0, 16, 1, 0x10000, true, false, false, false⟩
def aQueue : Queue := ⟨3, 0x10000, 0x10080, 4, 1, 0, true, false, true, 0, 0, some aRecord, some 0, some 0, [], false, 0, [], none⟩
/-- The distributor with lines that have come for queue 3. -/
def qS (n : Nat) (looks : List Look) : State :=
  { State.reset with
    now := 1000000, tlbs := [bnTlb], queues := [aQueue], arg := { n := n }, looks := looks, boundary := 2 ^ 30, panel := { Panel.reset with stage := 5, joined := [0], reduced := false } }
def tailLook (v : Nat) : Look := ⟨.unit (.ring 3), 513, 513, 5, some ⟨513, 0, 0, 0, false, BitVec.ofNat 1024 v⟩⟩
def headLook : Look := ⟨.unit (.header 3), 512, 512, 5, some ⟨512, 0, 0, 0, false, BitVec.ofNat 1024 aHeader⟩⟩
/-- A launch of two teams of one warp, bound to die 0, of which none is placed. -/
def launched (l : Launch) : Grid := { probeGrid with nteam := 2, scratch := 1024, header := { probeHeader with scratch := 1024, nV := 8, nF := 8, nS := 32 }, l := { l with inSet := true, dies := [some 0], next := [0] } }

def okHead (q : Queue) : HeadCheck → Bool
  | .ok s g => !g.coop && !g.pool && decide ((s.ctlReach q kStore).2 = .at 0x10080)
  | _ => false
theorem isAt (x : State × Reach) (pa : Nat) (h : x.2 = .at pa) : ∃ s' pa, x = (s', .at pa) := ⟨x.1, pa, by rw [← h]⟩
theorem isAt' (x : State × Reach) (pa : Nat) (h : x.2 = .at pa) : ∃ s', x = (s', .at pa) := ⟨x.1, by rw [← h]⟩
theorem okHead_spec (q : Queue) (x : HeadCheck) (h : okHead q x = true) : ∃ s g, x = .ok s g ∧ g.coop = false ∧ g.pool = false ∧ ∃ s' pa, s.ctlReach q kStore = (s', .at pa) := by
  cases x with
  | ok s g =>
    simp only [okHead, Bool.and_eq_true, Bool.not_eq_true', decide_eq_true_eq] at h
    exact ⟨s, g, rfl, h.1.1, h.1.2, isAt _ 0x10080 h.2⟩
  | _ => cases h
def okRead (tail : Nat) : Pooled UnitRead → Bool
  | .ok _ d => imageField d.val 0 8 == tail
  | _ => false
theorem okRead_spec (x : Pooled UnitRead) (tail : Nat) (h : okRead tail x = true) : ∃ s d, x = .ok s d ∧ imageField d.val 0 8 = tail := by
  cases x with
  | ok s d => exact ⟨s, d, rfl, by simpa [okRead] using h⟩
  | _ => cases h

def endingG (signal : Nat) : Grid := { probeGrid with ending := some 0, l := { Launch.none with signal := BitVec.ofNat 64 signal } }
def endS (signal : Nat) : State := { State.reset with now := 100, grids := [(1, endingG signal)], tlbs := [bnTlb], arg := { n := 1 } }
def poolG : Grid := { launched Launch.none with pool := true, l := { Launch.none with dies := [some 0], next := [2], overflow := 0x10000 } }
def overS (owed : Nat) (a : EvArg) (ts : List (TeamKey × Team)) : State :=
  { State.reset with grids := [(1, poolG)], tlbs := [{ probeTlb with level := 2, w := true }], pods := [{ pod 0 [] with owed := owed }], arg := a, teams := ts }
theorem wit_DistributorSteps :
    (let img := Queue.image { aQueue with num := 4 }
     (qS 4 []).queue? 4 = none ∧ entryClear img = true ∧ entryOk img = true ∧ img < 2 ^ 256) ∧ (qS 3 []).queue? 3 = some aQueue ∧ Queue.image { aQueue with enable := false } < 2 ^ 256 ∧
    aQueue.live = true ∧ aQueue.fresh = false ∧
    (∀ v ∈ [0, 17], ∃ s' pa, (qS 3 [tailLook v]).ctlReach aQueue kLoad = (s', .at pa)) ∧
    (∀ v ∈ [0, 17], ∃ s'' d, ((qS 3 [tailLook v]).ctlReach aQueue kLoad).1.distBytes 0 0x10080 128 (.ring 3) = .ok s'' d ∧ imageField d.val 0 8 = v) ∧
    ((qS 3 []).rotated + 50000 ≤ (qS 3 []).tcDist ∧ ∀ q ∈ (qS 3 []).queues, q.mapped = true) ∧
    (let s := qS 3 [headLook]
     4 ≤ s.panel.stage ∧ s.panel.stage ≠ 15 ∧ s.panel.sitesOut = [] ∧ s.badHead.isNone = true ∧ s.setSize < 16 ∧ s.serviceDies ≠ [] ∧ s.firstHead = some aQueue ∧
      ∃ s' g, s.headCheck aQueue aRecord = .ok s' g ∧ g.coop = false ∧ g.pool = false ∧ ∃ s'' pa, s'.ctlReach aQueue kStore = (s'', .at pa)) ∧
    (∀ x ∈ [(0 : Nat), 0x10000], (endS x).teams = [] ∧ (endS x).grid? 1 = some (endingG x) ∧ (endS x).gridBusy 1 = false ∧ (endS x).unitBusy (.unit (.ring 0)) = false ∧
      (endS x).passed bn1Unit 0 = true) ∧
    (let s := endS 0x10000
     let u : State := { s.endQuiet 1 with grids := (s.endQuiet 1).grids.modify 1 fun g => { g with l := { g.l with inSet := false } } }
     ∃ s' pa, u.unitReach bn1 0 kAtomic 0x10000 (.signal 1) = (s', .at pa)) ∧
    (let s := overS 0 { n := 1 } []
     s.grid? 1 = some poolG ∧ poolG.allPlaced = true ∧ (s.pods.any fun p => p.grid = 1 && (p.owed ≠ 0 || p.items.any (·.tag.isNone))) = false ∧ s.steals = [] ∧ s.net = [] ∧ s.warps = [] ∧
       (((poolG.l.dies.head?).bind id).getD 0) = 0 ∧ (s.overflowPage 0 1 poolG kLoad).1.poisoned 0x10000 128 = false ∧ readBytes (s.overflowPage 0 1 poolG kLoad).1.mem 0x10000 8 = 0) ∧
    (let s := overS 0 { n := 1 } []; ∃ s', s.overflowPage 0 1 poolG kLoad = (s', .at 0x10000)) ∧
    (let s := overS 2 { n := 0, m := 0, k := 1 } [(⟨1, 0⟩, probeTeam)]
     s.grid? 1 = some poolG ∧ s.podOf 0 0 1 = some { pod 0 [] with owed := 2 } ∧ (∃ s', s.overflowPage 0 1 poolG kAtomic = (s', .at 0x10000)) ∧ ∀ p ∈ s.pods, s.gridOn p.die p.core p.grid = true) := by
  refine ⟨by decide +kernel, by decide +kernel, by decide +kernel, rfl, rfl, fun v hv => isAt _ 0x10080 ?_, fun v hv => okRead_spec _ v ?_, ⟨by decide +kernel, by decide +kernel⟩,
    ⟨by decide +kernel, by decide +kernel, by decide +kernel, by decide +kernel, by decide +kernel, by decide +kernel, by decide +kernel, okHead_spec _ _ (by decide +kernel)⟩, by decide +kernel,
    isAt _ 0x10000 (by decide +kernel), by decide +kernel, isAt' _ 0x10000 (by decide +kernel), ⟨by decide +kernel, by decide +kernel, isAt' _ 0x10000 (by decide +kernel), by decide +kernel⟩⟩
  · revert v; decide +kernel
  · revert v; decide +kernel

/-- A team of grid 1 on core 0 of die 0, and launch 2 whose teams wait for the die; a team of grid 1 that has left. -/
def two : Grid := launched { Launch.none with cls := 2, watchdog := 7, counted := 7000, passed := some 0 }
/-- It where no core can take it. -/
def big : Grid := { two with scratch := 2 ^ 30 }
def one : Grid := { probeGrid with l := { Launch.none with cls := 1, dies := [some 0], next := [1] } }
def dispS (g : Grid) (a : EvArg) : State :=
  { evS tW 1000000000 with
    grids := [(1, one), (2, g)], arg := a, panel := { Panel.reset with stage := 5, joined := [0], reduced := false } }
def away : Team := { probeTeam with resident := false }
def outS (a : EvArg) : State := { dispS two a with teams := [(⟨1, 0⟩, away)], warps := [(probeKey, { tW with parked := true })] }

theorem isSeat (x : Option (State × Nat)) (h : x.map (·.2) = some 1) (tk : TeamKey) (core : Nat) (ht : (x.bind fun p => (p.1.team? tk).map (·.core)) = some core) :
    ∃ u tm, x = some (u, 1) ∧ u.team? tk = some tm ∧ tm.core = core := by
  cases x with
  | none => cases h
  | some q =>
    obtain ⟨u, n⟩ := q
    simp only [Option.map_some, Option.some.injEq, Option.bind_some, Option.map_eq_some_iff] at h ht
    obtain ⟨tm, h1, h2⟩ := ht
    exact ⟨u, tm, by rw [h], h1, h2⟩
theorem isBack (x : Option State) (tk : TeamKey) (h : (x.bind fun u => u.team? tk).isSome = true) : ∃ u tm, x = some u ∧ u.team? tk = some tm := by
  cases x with
  | none => cases h
  | some u => obtain ⟨tm, ht⟩ := Option.isSome_iff_exists.1 h; exact ⟨u, tm, rfl, ht⟩

theorem wit_DispatcherSteps :
    (let s := dispS two { n := 2 }
     s.grid? 2 = some two ∧ two.l.inSet = true ∧ two.l.passed.isSome = true ∧ two.l.since + 1000000 ≤ s.tcDist) ∧
    (let s := dispS big { n := 2 }
     let u : State := { s with grids := s.grids.modify 2 fun g => { g with l := { g.l with preempting := true } } }
     s.grid? 2 = some big ∧ big.l.inSet = true ∧ big.ending = none ∧ max big.l.since (big.l.eligible + (4 - big.l.cls) * 200000) + 1000000 ≤ s.tcDist ∧ big.ndie = 1 ∧ big.dieOf 0 = some 0 ∧ big.left 0 = true ∧
       (u.gangSeats 2 big 0 0 (big.nextOf 0)).isNone = true ∧ u.anyLeaving 0 = false ∧ u.victim 0 big.l.cls = some ⟨1, 0⟩) ∧
    (let s := dispS two { n := 2, m := 0, k := 0 }
     s.rebind.unblockEnded = s ∧ s.panel.inService 0 = true ∧ s.dieDown 0 = false ∧ s.panel.sitesOut = [] ∧ s.heldUp 2 two 0 = false ∧ (two.groupsOn 0).find? two.left = some 0 ∧ s.panel.gating.get 0 0 = 0 ∧
       ∃ u tm, s.gangSeats 2 two 0 0 (two.nextOf 0) = some (u, 1) ∧ u.team? ⟨2, two.nextOf 0⟩ = some tm ∧ tm.core = s.arg.k) ∧
    (let s := dispS two { t := ⟨1, 0⟩ }
     s.company ⟨1, 0⟩ = [(⟨1, 0⟩, probeTeam)] ∧ s.team? ⟨1, 0⟩ = some probeTeam ∧ s.dieDown 0 = false ∧ s.liveWarps ⟨1, 0⟩ ≠ [] ∧ ∃ p ∈ s.ownWarps ⟨1, 0⟩, p.2.r.live ≠ 0 ∧ p.2.parked = false) ∧
    (let s := outS { t := ⟨1, 0⟩ }
     s.rebind.unblockEnded = s ∧ (s.outWaiting 0).find? (·.t = ⟨1, 0⟩) = some ⟨⟨1, 0⟩, 1, 0, true⟩ ∧ s.grid? 1 = some one ∧ s.company ⟨1, 0⟩ = [(⟨1, 0⟩, away)] ∧ s.panel.inService 0 = true ∧ s.dieDown 0 = false ∧
       s.panel.sitesOut = [] ∧ s.keptFrom 1 0 = false ∧ (s.outWaiting 0).any (fun v => s.waitsBefore v ⟨⟨1, 0⟩, 1, 0, true⟩ && (s.grid? v.t.grid).any fun h => s.resumeFits h 0 (s.company v.t)) = false ∧
       s.panel.gating.get 0 0 = 0 ∧ (∃ u tm', s.resumeSeats one 0 [(⟨1, 0⟩, away)] 0 = some u ∧ u.team? ⟨1, 0⟩ = some tm') ∧ (s.warps.map (·.1)).Nodup) ∧
    (let s := dispS two {}
     s.coreIdle 0 0 = true ∧ s.coreLeaving 0 0 = false ∧ s.longestSilent 0 0 = some ⟨1, 0⟩ ∧ s.longestHere 0 0 = some ⟨1, 0⟩ ∧ s.company ⟨1, 0⟩ = [(⟨1, 0⟩, probeTeam)] ∧
      s.firstWaiting (s.takers 0 0 [⟨1, 0⟩]) = some ⟨⟨2, 0⟩, 1, 0, false⟩ ∧ (s.takers 0 0 [⟨1, 0⟩]).any (fun v => v.since + s.cyclesNs 0 (16 * s.swapCycles 0) ≤ s.now) = true) ∧
    (let s : State := { dispS two { n := 1 } with grids := [(1, { one with coop := true }), (2, two)] }
     s.groupTeams 1 0 = [(⟨1, 0⟩, probeTeam)] ∧ s.teamHalted ⟨1, 0⟩ = false ∧ s.leaving ⟨1, 0⟩ = false ∧ s.coreIdle 0 0 = true ∧ (s.takers 0 0 [⟨1, 0⟩]).filter (fun v => v.t.grid ≠ 1) ≠ []) ∧
    (two.l.watchdog ≠ 0 ∧ two.l.second = false ∧ two.l.watchdog * 1000 ≤ two.l.counted) ∧
    (let g : Grid := { two with l := { two.l with second := true, counted := 100000 } }
     (dispS g { n := 2 }).grid? 2 = some g ∧ max (g.l.watchdog * 1000 / 16) 100000 ≤ g.l.counted) := by
  refine ⟨by decide +kernel, by decide +kernel, ⟨by decide +kernel, by decide +kernel, by decide +kernel, by decide +kernel, by decide +kernel, by decide +kernel, by decide +kernel, isSeat _ (by decide +kernel) _ _ (by decide +kernel)⟩,
    by decide +kernel, ⟨by decide +kernel, by decide +kernel, by decide +kernel, by decide +kernel, by decide +kernel, by decide +kernel, by decide +kernel, by decide +kernel, by decide +kernel, by decide +kernel,
      isBack _ _ (by decide +kernel), by decide +kernel⟩, by decide +kernel, by decide +kernel, by decide +kernel, by decide +kernel⟩

/-- A core of a pool grid with items, and an idle one beside it. -/
def some' (n : Nat) : Pod := pod 0 (List.replicate n anItem)
def shellS (core : Nat) : State :=
  { evS tW 1000000 with
    grids := [(1, podG)], pods := [some' 40, pod 1 []], warps := [(probeKey, { tW with r := { tW.r with live := 0 } }), ({ probeKey with team := 1 }, { tW with core := 1, r := { tW.r with live := 0 } })]
    teams := [(⟨1, 0⟩, probeTeam), (⟨1, 1⟩, { probeTeam with core := 1 })], arg := { m := core, k := 1 } }
theorem wit_ShellerSteps :
    (shellS 0).dieDown 0 = false ∧ (shellS 0).grid? 1 = some podG ∧ podG.pool = true ∧ podG.ending = none ∧ (shellS 0).podOf 0 0 1 = some (some' 40) ∧ (shellS 1).podOf 0 1 1 = some (pod 1 []) ∧
    ((shellS 0).freeWarp 0 0 1).isSome = true ∧ ((shellS 1).freeWarp 0 1 1).isSome = true ∧ 0 < podG.header.width ∧
    (shellS 0).ripe (some' 40) 32 true = some 0 ∧ (shellS 0).ripe (some' 3) 32 false = some 0 ∧ (shellS 0).podPoisoned (some' 40) = false ∧
    ((sameStart (some' 40).items 0).take 32).all PodItem.counted = true ∧ (shellS 1).opSlots (pod 1 []) = 0 ∧ (shellS 1).steals = [] ∧
    ((List.range 4).map (1 / 4 * 4 + ·)).findSome? (fun c => if c = 1 then none else ((shellS 1).podOf 0 c 1).filter fun q => q.items ≠ []) = some (some' 40) ∧
    (some' 40).free.take (min (((some' 40).items.length + 1) / 2) ((shellS 1).podRoom (pod 1 []))) ≠ [] := by
  refine ⟨by decide +kernel, by decide +kernel, rfl, rfl, by decide +kernel, by decide +kernel, by decide +kernel, by decide +kernel, by decide +kernel, by decide +kernel, by decide +kernel, by decide +kernel, by decide +kernel, by decide +kernel, by decide +kernel,
    by decide +kernel, by decide +kernel⟩

/-! ### The part -/

def inPanel (n : Nat) (p : Panel) : State := { State.reset with now := 86400000000000, arg := { n := n, z := 1 }, panel := { p with stage := 5 } }
def up : Panel := { Panel.reset with joined := [0] }
theorem wit_PanelSteps :
    ((inPanel 5 up).panel.replicaIn 5 = false ∧ (inPanel 5 up).dieDown 5 = false ∧ (inPanel 0 up).dieDown 0 = false ∧ (inPanel 0 up).panel.replicaIn 0 = true ∧ (inPanel 0 up).panel.calibrated.get 0 0 + 64 ≤ (inPanel 0 up).now ∧
      (inPanel 0 up).panel.calibrated.get 0 0 + 100000 ≤ (inPanel 0 up).now ∧ (inPanel 0 up).nearAll 0 1 (inPanel 0 up).skewBound = true ∧ ((1 : Int) - (inPanel 0 up).replica.get 0 0).natAbs = 1 ∧
      (inPanel 0 up).replica.get 0 0 - 1 = -1) ∧
    (inPanel 0 up).within 4 = true ∧ ({ inPanel 0 up with replica := [(0, 5)] } : State).within 4 = false ∧ (linkOk 0 = true ∧ linkOk 527 = true ∧ linkOk 528 = false ∧ linkOk 30 = false) ∧
    (4 < { up with lanes := [(0, 4)] }.lanes.get 0 0 + 1 ∧ up.half = [] ∧ up.linksOut = [] ∧ up.widthAt.get 0 0 = 0) ∧
    ({ up with widthAt := [(1, 5)] }.widthAt.get 0 1 ≠ 0 ∧ (inPanel 1 { up with widthAt := [(1, 5)] }).widthWaits 1 = false) ∧ (inPanel 257 up).halfOut = [] ∧
    (inPanel 0 { up with clockTo := [(0, 1400)], clockAt := [(0, 1)] }).clockMoves 0 = true ∧ up.powerAt + 10000 ≤ (inPanel 0 up).now ∧ up.windowAt + 1000 ≤ (inPanel 0 up).now ∧ (inPanel 0 up).lineq = [] ∧
    (up.sitesOut = [] ∧ up.selfRefresh = [] ∧ up.hbmAt.get 0 128 + 20000 ≤ (inPanel 0 up).now ∧ up.scrubAt.get 0 0 + 86400000000000 ≤ (inPanel 0 up).now ∧ (inPanel 0 up).homeOf (lineAddr 0) = 128) ∧
    ((inPanel 0 up).dieIdle 0 = true ∧ (inPanel 0 up).panel.gating.get 0 0 = 0 ∧ (dispS two {}).dieIdle 0 = false ∧ up.inService 0 = true ∧ 0 ∈ up.joined ∧ up.idleSince.get 0 0 = 0 ∧
      { up with idleSince := [(0, 7)] }.idleSince.get 0 0 = 6 + 1 ∧ { up with gating := [(0, 1)] }.gating.get 0 0 = 1 ∧ (inPanel 0 { up with gating := [(0, 1)] }).dieIdle 0 = true) ∧
    (let x : Notice := ⟨0, 1, 0, 1, 0, 0, 0, 0, 0⟩
     let s : State := { inPanel 0 up with notices := [x], service := [(rNrLog, 6)] }
     s.notices.find? (·.id = 0) = some x ∧ s.ringFree rNrTail rNrHead rNrLog = true ∧ (∀ y ∈ s.notices, y.tag = 0) ∧ (s.reg rNrBase + 32 * (s.reg rNrTail % 2 ^ s.reg rNrLog)) % 32 = 0) := by
  refine ⟨by decide +kernel, by decide +kernel, by decide +kernel, by decide +kernel, by decide +kernel, by decide +kernel, by decide +kernel, by decide +kernel, by decide +kernel, by decide +kernel, by decide +kernel, by decide +kernel,
    by decide +kernel, by decide +kernel⟩

/-- The debugger's selection, a service address of each kind, and bring-up. -/
def selS : State := { dispS two {} with service := [(dieBlock 0 + 0x200, 2 ^ 32)], warps := [(probeKey, { tW with halted := true })] }
theorem wit_ServiceSpace :
    ((dispS two {}).dbgTeam 0 (2 ^ 32) = some ⟨1, 0⟩ ∧ selS.svcReg (dieBlock 0 + 0x210) = some (.dbgData 0) ∧ (selS.dbgSelected 0).map (·.kind) = some 0) ∧
    (let s := State.reset
     s.svcReg 0x30008 = some (.root 1) ∧ (∃ k, s.svcReg 0x20 = some (.spanRoute k)) ∧ s.svcReg 0x39000 = some .fqBase ∧ s.svcReg 0x39040 = some .nrBase ∧ s.svcReg 0x39100 = some (.cmBase 0) ∧
       s.svcReg 0x39108 = some (.cmLimit 0) ∧ s.svcReg 0x39018 = some .fqHead ∧ s.svcReg 0x39058 = some .nrHead ∧ s.svcReg 0 = some .status ∧ s.svcReg (dieBlock 0 + 0x40000) = some .count ∧ s.svcReg (dieBlock 0 + 0x40008) = some .control ∧
       s.svcAt 0x30800 = none ∧ 5 < s.incUnits 0 ∧ s.panel.modLocked = false ∧ s.clears = [] ∧ s.panel.stage ≠ 15) ∧
    (let s : State := { State.reset with clears := [⟨0, 512, 4⟩] }
     s.clears.find? (·.site = 0) = some ⟨0, 512, 4⟩ ∧ s.lineq = [] ∧ 0 ∉ s.panel.sitesOut) ∧
    (State.reset.panel.stage = 0 ∧ Panel.reset.sitesOut = [] ∧ (inPanel 0 Panel.reset).within 4 = true ∧
      (3 ≤ (inPanel 0 Panel.reset).panel.stage ∧ (inPanel 0 Panel.reset).panel.stage ≠ 15 ∧ 0 ∉ (inPanel 0 Panel.reset).panel.joined ∧ 0 ∉ Panel.reset.retired ∧ 0 ∉ Panel.reset.outUnits ∧
        (inPanel 0 Panel.reset).dieDown 0 = false ∧ (inPanel 0 Panel.reset).nearAll 0 0 (inPanel 0 Panel.reset).skewBound = true) ∧ ({ State.reset with service := [(rAttGo, 1)] } : State).reg rAttGo ≠ 0) := by
  refine ⟨by decide +kernel, ⟨by decide +kernel, ⟨_, rfl⟩, by decide +kernel, by decide +kernel, by decide +kernel, by decide +kernel, by decide +kernel, by decide +kernel, by decide +kernel, by decide +kernel, by decide +kernel, by decide +kernel, by decide +kernel, by decide +kernel, by decide +kernel, by decide +kernel⟩,
    by decide +kernel, by decide +kernel⟩

/-- Operations of another module whose page is at hand, is not yet, and which its map does not give; an operation of a warp of this one. -/
def aSpan : SpanOp := ⟨1, 0, some (probeKey, 1), 0, 2 ^ 56, 0, 0, 5, 0, 0, 0⟩
def spanW : Warp := { tW with outs := [{ tOut with kind := .span, op := .st, lanes := [laneAcc 0] }] }
def inOp (asid : Nat) : Incoming := { op7 with id := 1, st := 0, asid := asid, pages := [], left := [] }
def inS (o : Incoming) (ts : List Tlb) : State := { evS tW 0 with incoming := [o], service := [(0x31000 + 2 * 256, 2 ^ 15)], tlbs := ts }
def reach : Pooled (List (Nat × Nat)) → Nat
  | .ok .. => 0
  | .wait _ => 1
  | .dead _ => 2
theorem reach_spec (x : Pooled (List (Nat × Nat))) :
    (reach x = 0 → ∃ s' pas, x = .ok s' pas) ∧ (reach x = 1 → ∃ s', x = .wait s') ∧ (reach x = 2 → ∃ s', x = .dead s') := by
  cases x <;> simp [reach]

theorem wit_SpanSteps :
    (∀ o ∈ [inOp 0, inOp 1], ∀ ts ∈ [[bnTlb], []], (inS o ts).incoming.find? (·.id = (inS o ts).arg.n) = some o ∧ o.st = 0 ∧ o.kind < 4) ∧
    (∃ s' pas, (inS (inOp 0) [bnTlb]).spanReach (inOp 0) = .ok s' pas) ∧ (∃ s', (inS (inOp 0) []).spanReach (inOp 0) = .wait s') ∧ (∃ s', (inS (inOp 1) [bnTlb]).spanReach (inOp 1) = .dead s') ∧
    (let s : State := { evS spanW 0 with spans := [aSpan] }
     s.spans.find? (·.id = s.arg.n) = some aSpan ∧ s.warp? probeKey = some spanW ∧ aSpan.lane = (laneAcc 0).lane ∧ aSpan.sentAt + 1000000 ≤ ({ s with now := 1000000 } : State).now) := by
  refine ⟨by decide +kernel, (reach_spec _).1 (by decide +kernel), (reach_spec _).2.1 (by decide +kernel), (reach_spec _).2.2 (by decide +kernel), by decide +kernel⟩

/-! ### Pods, sprouts, the matrix unit, streams and images -/

def podS (w : Warp) : State := { put w with grids := [(1, podG)], pods := [pod 0 []], tlbs := [{ probeTlb with level := 2, w := true }], arg := {} }
def podG' : Grid := { podG with l := { podG.l with overflow := 0x10000, nbatch := 2 } }
def podS' : State := { podS mW with grids := [(1, podG')] }
def spawnX (g : BitVec 4) : Instr := .spawn { Ext.fixed with g := g, e := .p 1, lit := some 4 }
def splitX (g : BitVec 4) : Instr := .split { Ext.fixed with g := g, d := .reg 4, a := .const 52, e := .p 1, lit := some 4 }
/-- A constant that holds a single point, whose half is empty. -/
def pointX : Instr := .split { Ext.fixed with d := .reg 4, a := .const 17, e := .p 1, lit := some 4 }
def podOps : List Instr := [spawnX 15, splitX 15, pointX, .poolq 2 4, .poolqX (ext (.reg 4) (.imm 2) .absent)]
/-- No slot of the Pod is free, and its queue is full, or is being written. -/
def packedS (tail : Nat) (op : Option OverOp) : State := { podS' with pods := [{ pod 0 [] with slots := 0 }], overs := [⟨1, 0, 0, tail, op⟩] }

theorem wit_PodInstructions :
    (∀ i ∈ podOps, can podS' i ∧ can (mem mW) i ∧ can (podS sproutW) i ∧ can (packedS 2 Option.none) i ∧ can (packedS 0 (some ⟨1, 0, Option.none, [], [], [], 0⟩)) i ∧ can { podS' with pods := [] } i) ∧
    (∀ i ∈ [spawnX 1, splitX 1], can podS' i ∧ (sees podS' i).m = 0) ∧ (podS').grid? 1 = some podG' ∧ podG'.pool = true ∧ (mem mW).grid? 1 = some probeGrid ∧ probeGrid.pool = false ∧
    mW.sprout = Option.none ∧ (sees podS' (spawnX 15)).m = 1 ∧ mW.settled = true ∧ mW.acquiring = false ∧ mW.wait = .none ∧
    podS'.podOf 0 0 1 = some (pod 0 []) ∧ 1 ≤ podS'.podRoom (pod 0 []) ∧ podS'.overflowPage 0 1 podG' kAtomic = (podS', .at 0x10000) ∧ podG'.ending = Option.none ∧ podG'.header.carryF.length ≤ 6 ∧
    4 * podG'.header.carryV.length + 8 * podG'.header.carryF.length ≤ 96 ∧ (packedS 2 Option.none).podRoom { pod 0 [] with slots := 0 } = 0 ∧ podG'.l.nbatch ≤ ((packedS 2 Option.none).overOf 1 (podG'.groupOn 0)).queued ∧
    ((packedS 0 (some ⟨1, 0, Option.none, [], [], [], 0⟩)).overOf 1 (podG'.groupOn 0)).queued < podG'.l.nbatch ∧ ((packedS 0 (some ⟨1, 0, Option.none, [], [], [], 0⟩)).overOf 1 (podG'.groupOn 0)).op.isSome = true ∧
    (Iv.bisect .fp32 true ((sees podS' (splitX 15)).iv 0 (.const 52))).2 = true ∧ (Iv.bisect .fp32 true ((sees podS' pointX).iv 0 (.const 17))).2 = false ∧
    (sees podS' (.poolqX (ext (.reg 4) (.imm 2) .absent))).i32 0 (.imm 2) = 2 := by
  refine ⟨fun i hi => ⟨all_can _ podOps (by decide +kernel) i hi, all_can _ podOps (by decide +kernel) i hi, all_can _ podOps (by decide +kernel) i hi, all_can _ podOps (by decide +kernel) i hi,
    all_can _ podOps (by decide +kernel) i hi, all_can _ podOps (by decide +kernel) i hi⟩, fun i hi => ⟨all_can _ [spawnX 1, splitX 1] (by decide +kernel) i hi, ?_⟩, rfl, rfl, rfl, rfl, rfl, by decide +kernel, rfl, rfl, rfl,
    by decide +kernel, by decide +kernel, rfl, rfl, by decide +kernel, by decide +kernel, by decide +kernel, by decide +kernel, by decide +kernel, by decide +kernel, by decide +kernel, by decide +kernel, by decide +kernel⟩
  revert i; decide +kernel

/-- A register that items carry is poisoned. -/
theorem wit_PodInstructions_ecc : let w : Warp := { mW with r := { mW.r with bad := [⟨.v, 6, 0⟩] } }
    can { put w with grids := [(1, podG')] } (spawnX 15) ∧ carryBad { podG'.header with carryV := [6] } w.r 0 = true ∧ ∀ l ∈ [0], carryBad podG'.header mW.r l = false :=
  ⟨runs_of_able _ _ (by decide +kernel), by decide +kernel, by decide +kernel⟩

/-- A recruiter with exited threads beside it, refused and taken; a sprout that ends; a recruitment that has finished. -/
def recG : Grid := { probeGrid with helpers := true, header := { probeHeader with hlimit := 4, hbudget := 100, lendV := [(2, 2)] } }
def recS (w : Warp) : State := { put w with grids := [(1, recG)] }
def recruitX (g : BitVec 4) (n : BitVec 7) : Instr := .recruit { Ext.fixed with g := g, d := .s 40, a := .imm n, b := .imm 1, e := .p 2, lit := some 4 }
def endX (g : BitVec 4) (m : BitVec 16) : Instr := .hend { Ext.fixed with g := g, mod := m }
def joinX' (g : BitVec 4) : Instr := .hjoin { Ext.fixed with g := g, d := .reg 0, a := .s 48, e := .p 3 }
/-- The sprout ends with these modifiers. -/
def hendC (m : BitVec 16) : Cx := cx { sproutS with cur := some sproutKey } sproutKey sproutW .hend { Ext.fixed with mod := m }
def doneW : Warp := { mW with r := { mW.r with recr := { Recr.none with state := 2, g := 1, done := 1 } } }
/-- A register that it lends is empty. -/
def owingW : Warp := { mW with outs := [{ tOut with dests := [⟨.v, 2, 0⟩] }] }

theorem wit_SproutInstructions :
    (∀ i ∈ [recruitX 15 3, recruitX 15 0, endX 15 0, joinX' 15], can (recS mW) i) ∧ (∀ i ∈ [recruitX 1 3, endX 1 0, joinX' 1], can (recS mW) i ∧ (sees (recS mW) i).m = 0) ∧ (recS mW).grid? 1 = some recG ∧
    (can (recS owingW) (recruitX 15 3) ∧ lendEmpty recG.header owingW 0 = true) ∧ lendEmpty recG.header mW 0 = false ∧ (sees (recS mW) (recruitX 15 3)).m = bitMask 0 ∧ ((sees (recS mW) (recruitX 15 0)).i32 0 (.imm 0)).toNat = 0 ∧
    (let ds := (recS mW).donors probeKey mW
     donorCount ds ≠ 0 ∧ max 1 (min 1 3) ≤ donorCount ds ∧ (∀ d ∈ ds, ∀ j ∈ d.2, j < 128) ∧ (recS mW).boundaryPending ⟨1, 0⟩ = false ∧ (recS mW).fenceHolds mW 0 = true) ∧
    ((∀ m ∈ [(0 : BitVec 16), 1], Executes (endX 15 m) (hendC m) 12) ∧ (hendC 0).s.warp? probeKey = some recruiter ∧ (hendC 0).s.grid? 1 = some probeGrid ∧ (hendC 1).x.m 0 3 ≠ 0 ∧ (hendC 1).x.m 0 3 ≠ recruiter.r.recr.rop ∧
      sproutW.settled = true ∧ (hendC 0).x.m 0 3 = 0 ∧ (hendC 0).m &&& sproutW.r.live ≠ 0 ∧ sproutW.r.live &&& ~~~(hendC 0).m = 0) ∧
    (can (recS sproutW) (joinX' 15) ∧ (sees (recS sproutW) (joinX' 15)).m ≠ 0) ∧ mW.r.recr.state = 0 ∧
    (can (recS doneW) (joinX' 15) ∧ (sees (recS doneW) (joinX' 15)).m.getLsbD doneW.r.recr.lane = true ∧ doneW.r.recr.fl = false ∧ doneW.r.recr.rop = 0 ∧ doneW.release = 0 ∧ doneW.r.recr.fault = 0 ∧
      (recS doneW).sproutsOf probeKey = []) ∧
    (can (recS recruiter) (joinX' 15) ∧ (sees (recS recruiter) (joinX' 15)).m.getLsbD recruiter.r.recr.lane = true ∧ recruiter.r.recr.state = 1) := by
  refine ⟨all_can _ _ (by decide +kernel), fun i hi => ⟨all_can _ [recruitX 1 3, endX 1 0, joinX' 1] (by decide +kernel) i hi, ?_⟩, rfl, ⟨runs_of_able _ _ (by decide +kernel), by decide +kernel⟩, by decide +kernel, by decide +kernel, by decide +kernel, by decide +kernel,
    ⟨fun m hm => ⟨rfl, ⟨rfl, ?_, ?_, ?_⟩, ?_, ?_⟩, rfl, rfl, by decide +kernel, by decide +kernel, rfl, by decide +kernel, by decide +kernel, by decide +kernel⟩, ⟨runs_of_able _ _ (by decide +kernel), by decide +kernel⟩, rfl,
    ⟨runs_of_able _ _ (by decide +kernel), by decide +kernel, rfl, rfl, rfl, rfl, by decide +kernel⟩, ⟨runs_of_able _ _ (by decide +kernel), by decide +kernel, rfl⟩⟩
  · revert i; decide +kernel
  all_goals revert hm; rw [show m ∈ [(0 : BitVec 16), 1] ↔ m = 0 ∨ m = 1 by simp]; rintro (rfl | rfl) <;> rfl

/-- A register that it lends is poisoned. -/
theorem wit_SproutInstructions_ecc : let w : Warp := { mW with r := { mW.r with bad := [⟨.v, 3, 0⟩] } }
    can (recS w) (recruitX 15 3) ∧ lendEmpty recG.header w 0 = false ∧ lendBad recG.header w 0 = true ∧ lendBad recG.header mW 0 = false :=
  ⟨runs_of_able _ _ (by decide +kernel), by decide +kernel, by decide +kernel, by decide +kernel⟩

noncomputable def matOps (g : BitVec 4) : List Instr :=
  let x : Ext := { Ext.fixed with g := g, d := .reg 16, a := .s 8, b := .s 12 }
  [.mma x, .mmaq x, .mmai x, .mtrn { x with a := .absent }, .mperm { x with a := .absent }, .mred { x with b := .absent }]
/-- Four entries of the warp's. -/
def busyS : State := { mem matW with mats := List.replicate 4 (anEntry false) }
theorem wit_MatrixInstructions :
    (∀ i ∈ matOps 15, can (mem matW) i ∧ can busyS i ∧ can (mem mW) i ∧ can (mem { sproutW with r := matW.r }) i) ∧ (∀ i ∈ matOps 1, can (mem matW) i) ∧ (sees (mem matW) (.mma { Ext.fixed with g := 1, d := .reg 16, a := .s 8, b := .s 12 })).m = 0 ∧
    (sees (mem matW) mmaX).m = 1 ∧ (sees (mem matW) mmaX).mayStart .km false = true ∧ (mem matW).matCheck probeKey matW aJob = Option.none ∧
    (mem matW).mats = [] ∧ busyS.mats.length = 4 ∧ busyS.matCheck probeKey matW aJob = Option.none ∧ (sees (mem { matW with outs := List.replicate 255 { tOut with ctr := some .km } }) mmaX).mayStart .km false = false ∧
    ((mem mW).matCheck probeKey mW { aJob with aq := 2 ^ 98 }).isSome = true :=
  ⟨fun i hi => ⟨all_can _ (matOps 15) (by decide +kernel) i hi, all_can _ (matOps 15) (by decide +kernel) i hi, all_can _ (matOps 15) (by decide +kernel) i hi, all_can _ (matOps 15) (by decide +kernel) i hi⟩,
   all_can _ _ (by decide +kernel), by decide +kernel, by decide +kernel, by decide +kernel, by decide +kernel, rfl, rfl, by decide +kernel, by decide +kernel, by decide +kernel⟩

theorem real_zero (e : Int) : (⟨0, e⟩ : Dy).real = 0 := by simp [Dy.real]

/-- Sums with a NaN, with an infinity and of plain terms; a sum of zero elements; zeros at an accumulator that holds zero. -/
theorem wit_MatrixSumsEnclose :
    (∃ t ∈ [[MEl.nan]], MEl.nan ∈ t) ∧ (∃ t ∈ [[MEl.inf]], MEl.inf ∈ t) ∧ (∀ t ∈ [[MEl.num false ⟨1, 0⟩]], MEl.nan ∉ t ∧ MEl.inf ∉ t) ∧
    (∃ lo hi nz, aJob.midSum ⟨fun _ => (0, 0), fun _ => (0, 0)⟩ 0 0 = .val lo hi nz) ∧
    (∀ m r, midElem false (0 / 2 ^ (32 * 0) % 2 ^ 32) = .mid m r → |(0 : ℝ) - m.real| ≤ r.real) ∧
    ((⟨0, 0⟩ : Dy).real ≤ 0 ∧ (0 : ℝ) ≤ (⟨0, 0⟩ : Dy).real ∧ ((⟨0, 0, Dec.com⟩ : Raw).read .fp32).Holds .fp32 0) := by
  refine ⟨by decide +kernel, by decide +kernel, by decide +kernel, ⟨_, _, _, rfl⟩, fun m r h => ?_, by simp [real_zero], by simp [real_zero], ⟨.fin false 0, .fin false 0, _, rfl, by simp [zero_ext], by simp [zero_ext]⟩⟩
  have e : midElem false (0 / 2 ^ (32 * 0) % 2 ^ 32) = .mid ⟨0, _⟩ ⟨0, _⟩ := rfl
  rw [e] at h
  cases h
  simp [real_zero]

/-- A dense level of four coordinates in the team's scratch, streams over it, and an intersection of two. -/
def denseX (st : Nat) : XReg := { XReg.ofBits 0 with st := st, endx := 4, size := 4, lastc := 0xffffffff }
def xW : Warp := { mW with r := { mW.r with x := [(1, (denseX 1).bits), (2, (denseX 1).bits), (3, { denseX 2 with info := 4 + 8 * 5, endx := 0, size := 0 }.bits), (4, (denseX 4).bits), (5, (denseX 4).bits)], s := [(20, 0x10000)] } }
def xS : State := { mem xW with vault := [(0, 1), (0x44, 4)] }
/-- It with a stream instruction under way, and in a sprout. -/
def busyX : Warp := { xW with outs := [{ tOut with kind := .stream, ctr := some .kx }] }
noncomputable def xopenX (g : BitVec 4) (d : BitVec 3) : Instr := .xopen { ext (.x d) (.s 8) (.imm 0) with g := g, mod := 1 }
noncomputable def streamOps (g : BitVec 4) : List Instr :=
  [xopenX g 6, xopenX g 4, .xisect { ext (.x 6) (.x 1) (.x 2) with g := g }, .xunion { ext (.x 6) (.x 1) (.x 2) with g := g }, .xisect { ext (.x 4) (.x 1) (.x 2) with g := g }, .xclose { ext (.x 3) .absent .absent with g := g },
    .xclose { ext (.x 4) .absent .absent with g := g }, .xpos { ext (.reg 4) (.x 3) .absent with g := g }]
theorem wit_StreamsOpenAndCombine :
    (∀ i ∈ streamOps 15, can xS i ∧ can (mem busyX) i ∧ can (mem { xW with sprout := some mySprout }) i) ∧ (∀ i ∈ streamOps 1, can xS i) ∧ (sees xS (xopenX 1 6)).m = 0 ∧
    xW.streaming = false ∧ busyX.streaming = true ∧ xW.sprout = Option.none ∧ xW.acquiring = false ∧ (sees xS .nop).m = 1 ∧
    ((xW.r.getX 6).st = 0 ∧ (xW.r.getX 1).st = 1 ∧ (xW.r.getX 2).st = 1 ∧ (xW.r.getX 4).st = 4 ∧ (xW.r.getX 3).comb = true) ∧
    (sees xS (xopenX 15 6)).spaceAddr 1 = 0 ∧ xS.streamRd probeKey xW 8 1 0 64 = .ok 1 ∧ headerBad 1 0 = Option.none ∧
    xS.streamRd probeKey xW 8 1 0x40 16 = .ok (4 * 2 ^ 32) ∧ levelBad (field (4 * 2 ^ 32) 0 16) = Option.none :=
  ⟨fun i hi => ⟨all_can _ (streamOps 15) (by decide +kernel) i hi, all_can _ (streamOps 15) (by decide +kernel) i hi, all_can _ (streamOps 15) (by decide +kernel) i hi⟩, all_can _ _ (by decide +kernel), by decide +kernel,
   rfl, rfl, rfl, rfl, by decide +kernel, by decide +kernel, by decide +kernel, by decide +kernel, rfl, by decide +kernel, by decide +kernel⟩

noncomputable def nextOps : List Instr := [.xnext { ext (.reg 4) (.x 1) .absent with e := .p 1 }, .xnext2 { ext (.reg 4) (.x 3) .absent with e := .p 1 }, .xskip { ext .absent (.x 1) (.imm 2) with e := .p 1 },
  .xsave (ext .absent (.s 20) (.x 1)), .xload (ext (.x 7) (.s 20) .absent), .xsave { ext .absent (.s 8) (.x 1) with mod := 1 }, .xload { ext (.x 7) (.s 8) .absent with mod := 1 }]
/-- Where an XSAVE or XLOAD stands: within a line, with room for its request, and as an L1 holds it. -/
noncomputable def spotOf (s : State) (i : Instr) (k : Nat) (ctr : Ctr) (hit : Bool) : Bool :=
  let c := sees s i
  match c.checks ⟨c.x.m 0 2, 64, 64, k, false⟩ [lowest c.m] fun _ => BitVec.ofNat 64 (c.spaceAddr (c.x.m 0 2)) with
  | .go s' [p] => decide (64 ≤ p.pb + 1 + (128 - p.pa % 128) ∧ ∀ j ∈ List.range 64, lineOf (p.place 64 j) = lineOf (if j < 128 - p.pa % 128 then p.pa else p.pb)) && decide (p.pa % 128 + 64 ≤ 128) && decide (p.pb = p.pa + 63) &&
      s'.canSend c.k c.w 1 && c.mayStart ctr (k = kLoad) && (s'.l1Hit c.w.die c.w.core (lineOf p.pa) 0).isSome = hit && c.w.r.floorMax c.m = 0
  | _ => false
def cachedS : State := { xS with l1 := [⟨0, 0, 512, 0, 1000000, 0, 0⟩] }
noncomputable def xsaveX : Instr := .xsave (ext .absent (.s 20) (.x 1))
noncomputable def xloadX : Instr := .xload (ext (.x 7) (.s 20) .absent)
theorem wit_StreamsDeliver :
    (∀ i ∈ nextOps, can xS i) ∧ (xW.r.getX 1).kind = 0 ∧ (xW.r.getX 1).endx ≤ (xW.r.getX 1).size ∧ (xW.r.getX 1).lastc = 0xffffffff ∧ xW.outs = [] ∧
    ((xW.r.getX 3).st = 2 ∧ (xW.r.getX 3).opa = 4 ∧ (xW.r.getX 3).opb = 5 ∧ (xW.r.getX 4).st = 4 ∧ (xW.r.getX 5).st = 4) ∧
    (spotOf xS xsaveX kStore .kg false && spotOf xS xloadX kLoad .kx false && spotOf cachedS xloadX kLoad .kx true && spotOf xS (.xsave { ext .absent (.s 8) (.x 1) with mod := 1 }) kStore .ks false &&
      spotOf xS (.xload { ext (.x 7) (.s 8) .absent with mod := 1 }) kLoad .kx false) = true :=
  ⟨all_can _ _ (by decide +kernel), by decide +kernel, by decide +kernel, by decide +kernel, rfl, by decide +kernel, by decide +kernel⟩

/-- The handler's warp with an image's address, and images that reach past it. -/
def cW : Warp := inTrap { sW with r := { sW.r with s := [(4, 0x10000), (6, 0x10008), (8, 0xffffff80), (9, 0x00ffffff)] } }
def cS : State := { mem cW with tlbs := [{ probeTlb with w := true }, { probeTlb with level := 2, w := true }] }
/-- It with lines of an image that have been read. -/
def readS (data : Nat) : State := { cS with looks := (List.range 34).map fun n => ⟨.stream probeKey 8, 512 + n, 512 + n, 0, some ⟨512 + n, 0, 0, 0, false, BitVec.ofNat 1024 data⟩⟩ }
theorem lookBytes_val (s : State) (r : Reader) (n : Nat) : ∀ va, (∀ i < n, ∃ b, s.lookByte r (va + i) = .val b) → ∃ v, s.lookBytes r va n = .val v := by
  induction n with
  | zero => exact fun va _ => ⟨0, rfl⟩
  | succ n ih =>
    intro va h
    obtain ⟨v, hv⟩ := ih (va + 1) fun i hi => by rw [show va + 1 + i = va + (i + 1) by omega]; exact h (i + 1) (by omega)
    obtain ⟨b, hb⟩ := h 0 (by omega)
    rw [Nat.add_zero] at hb
    exact ⟨v * 256 + b, by simp only [State.lookBytes, hv, hb]⟩
theorem readS_val (d n : Nat) (hn : n ≤ 34 * 128) : ∃ v, (readS d).lookBytes (.stream probeKey 8) 0x10000 n = .val v := by
  refine lookBytes_val _ _ _ _ fun i hi => ?_
  have hl : ∀ m < 34, (readS d).lookAt (.stream probeKey 8) (512 + m) = some ⟨.stream probeKey 8, 512 + m, 512 + m, 0, some ⟨512 + m, 0, 0, 0, false, BitVec.ofNat 1024 d⟩⟩ := by
    intro m hm; interval_cases m <;> rfl
  have := hl (i / 128) (by omega)
  rw [show 512 + i / 128 = (0x10000 + i) / 128 by omega] at this
  exact ⟨_, by simp [State.lookByte, this]; rfl⟩
def img (a : Fin 384) (b c : BitVec 7) : Ext := { Ext.fixed with a := .s a, b := .imm b, c := .imm c }
noncomputable def imgOps : List Instr := [.csave (img 4 0 1), .cload (img 4 0 1), .csave (img 6 0 1), .csave (img 8 0 2), .cload (img 4 0 0), .cload { Ext.fixed with a := .s 4, mod := 4 },
  .rgnclr (ext (.s 20) (.s 4) (.imm 1)), .rgnclr (ext (.s 20) (.s 6) (.imm 1)), .rgnclr (ext (.s 20) (.s 4) (.imm 0)), .rgnclr (ext (.s 20) (.s 8) (.imm 2)), .tlbinv (ext .absent (.s 4) (.imm 0))]
noncomputable def idleOps : List Instr := [.csave { img 4 0 1 with g := 1 }, .cload { img 4 0 1 with g := 1 }, .rgnclr { ext (.s 20) (.s 4) (.imm 1) with g := 1 }, .tlbinv { ext .absent (.s 4) (.imm 0) with g := 1 }]
noncomputable def clrX : Instr := .rgnclr (ext (.s 20) (.s 4) (.imm 1))
noncomputable def invX : Instr := .tlbinv (ext .absent (.s 4) (.imm 0))
theorem wit_ContextInstructions :
    (∀ x ∈ [img 4 100 100], ∃ len, instrForm (.csave x) = some (.csave, x, len) ∧ cS.running = some (probeKey, cW) ∧ x.check .csave = Option.none ∧ cW.r.takes x ≠ 0 ∧ x.m 0 3 ≤ 2 ∧
      rangeOk (cS.header probeKey) true 0 ((cx cS probeKey cW .csave x).i32 0 x.b).toNat ((cx cS probeKey cW .csave x).i32 0 x.c).toNat = false) ∧
    (∀ i ∈ imgOps, can cS i) ∧ (∀ i ∈ idleOps, can cS i ∧ (sees cS i).m = 0) ∧ (∀ i ∈ imgOps, can (mem sW) i) ∧ sW.r.tmode = false ∧ cW.r.tmode = true ∧ cW.sprout = Option.none ∧ (sees cS clrX).m = 1 ∧ rangeOk probeHeader true 0 0 1 = true ∧
    (∃ s' pas, (sees cS .nop).flushPas 0 cS ((lineParts 0x10000 (imageSize probeHeader 0 1)).map fun p => (0, p.1)) [] = .ok (s', pas)) ∧ cS.canSend probeKey cW (lineParts 0x10000 (imageSize probeHeader 0 1)).length = true ∧
    (sees cS (.csave (img 4 0 1))).mayStart .kg false = true ∧ cS.team? ⟨1, 0⟩ = some probeTeam ∧
    (cW.quiet = true ∧ imageSize probeHeader 4 0 ≤ 34 * 128 ∧ (∃ d, (readS 0).lookBytes (.stream probeKey 8) 0x10000 (imageSize probeHeader 0 1) = .val d) ∧ can (readS 0) (.cload (img 4 0 1)) ∧
      (∀ v, ∃ d, (readS v).lookBytes (.stream probeKey 8) 0x10000 (imageSize probeHeader 4 0) = .val d) ∧ can (readS 0) (.cload { Ext.fixed with a := .s 4, mod := 4 }) ∧ hwBad probeHeader 0 = false ∧ hwBad probeHeader (2 ^ 200 * 2 ^ 96) = true) ∧
    (∃ s' pas, cS.rgnPages probeKey cW (pagesOf 0x10000 128) [] = (s', some pas)) ∧ cS.writable 0 0 0x10000 = true ∧
    2 ^ 56 < 0x00ffffffffffff80 + imageSize probeHeader 0 2 ∧ 2 ^ 56 < 0x00ffffffffffff80 + 128 * 2 ∧ can (mem { cW with wait := .rgnclr [] 3 }) clrX ∧ can (mem { cW with wait := .inval 0 }) invX ∧ cW.wait = .none ∧ cW.settled = true ∧ cW.empties = [] := by
  refine ⟨fun x hx => ⟨12, ?_⟩, all_can _ _ (by decide +kernel), fun i hi => ⟨all_can _ idleOps (by decide +kernel) i hi, ?_⟩, all_can _ _ (by decide +kernel), rfl, by decide +kernel, rfl, by decide +kernel, by decide +kernel, ⟨_, _, rfl⟩, by decide +kernel,
    by decide +kernel, rfl, ⟨rfl, by decide +kernel, readS_val _ _ (by decide +kernel), runs_of_able _ _ (by decide +kernel), fun v => readS_val _ _ (by decide +kernel), runs_of_able _ _ (by decide +kernel), by decide +kernel, by decide +kernel⟩, ⟨_, _, rfl⟩, by decide +kernel, by decide +kernel,
    by decide +kernel, runs_of_able _ _ (by decide +kernel), runs_of_able _ _ (by decide +kernel), rfl, rfl, rfl⟩
  · cases List.mem_singleton.1 hx; decide +kernel
  · revert i; decide +kernel

/-- A range with a poisoned register. -/
theorem wit_ContextInstructions_ecc : let w : Warp := { cW with r := { cW.r with bad := [⟨.v, 0, 5⟩] } }
    can (mem w) (.csave (img 4 0 1)) ∧ (mem w).imageBad probeKey w 0 0 1 = true ∧ cS.imageBad probeKey cW 0 0 1 = false :=
  ⟨runs_of_able _ _ (by decide +kernel), by decide +kernel, by decide +kernel⟩

theorem wit_StepKeepsInv : State.reset.Inv ∧ ∃ t, step State.reset = .next t := ⟨(by decide +kernel : Memory.wf State.reset.mem = true), _, rfl⟩

/-! ### Results: the chapters' own examples -/

/-- A warp of one thread with these values in V2, V3 and V1, F2 and F3. -/
def vals (a b d : Word) (x y : FReg) : State := put { tW with r := (((({ tW.r with live := 1, mask := 1 }.setV 2 0 a).setV 3 0 b).setV 1 0 d).setF 2 0 x).setF 3 0 y }
def after (i : Instr) (s : State) : Regs :=
  match exec i s with
  | .next t => ((t.warp? probeKey).getD tW).r
  | _ => tW.r
def ival (i : Instr) (a b d : Word) : Word := (after i (vals a b d FReg.zero FReg.zero)).getV 1 0
def com (lo hi : Word) : FReg := ⟨hi ++ lo, Dec.com⟩
def fval (i : Instr) (x y : FReg) : FReg := (after i (vals 0 0 0 x y)).getF 1 0
def x2 (m : BitVec 16) : Ext := { ext (.reg 1) (.reg 2) (.reg 3) with mod := m }
def x1 (m : BitVec 16) : Ext := { ext (.reg 1) (.reg 2) .absent with mod := m }

/-- The corner values of the integer chapter. -/
theorem test_integer_corners :
    ival (.idivX (x2 0)) 0x80000000 0xffffffff 5 = 0x80000000 ∧ ival (.idivX (x2 0x10)) 0x80000000 0xffffffff 5 = 0x7fffffff ∧
    ival (.iremX (x2 0)) 0xfffffff9 2 5 = 0xffffffff ∧ ival (.idivX (x2 0x21)) 9 0 5 = 0 ∧ ival (.iremX (x2 0x21)) 9 0 5 = 9 ∧
    ival (.isubX (x2 0x11)) 3 5 5 = 0 ∧ ival (.sarX (x2 0)) 0x80000010 40 5 = 0xffffffff ∧ ival (.bfxX (x2 0)) 0xf00 0x408 5 = 0xffffffff := by decide +kernel

theorem test_conversions_and_sums :
    ival (.cvtiX (x1 6)) 300 0 5 = 44 ∧ ival (.cvtiX (x1 0x16)) 300 0 5 = 127 ∧ ival (.idot4X (x2 0x20)) 0xff020304 0x01010101 10 = 18 := by decide +kernel

/-- A sum rounded outward, with `.pt`, and a product with a bound that overflows. -/
theorem test_interval_arithmetic :
    fval (.faddX (x2 0)) (com 0x3f800000 0x3f800000) (com 0x30800000 0x30800000) = com 0x3f800000 0x3f800001 ∧
    fval (.faddX (x2 1)) (com 0x3f800000 0x3f800000) (com 0x30800000 0x30800000) = ⟨0x3f8000003f800000, Dec.trv⟩ ∧
    fval (.fmulX (x2 0)) (com 0xc0000000 0x40400000) (com 0xbf800000 0x40800000) = com 0xc1000000 0x41400000 ∧
    fval (.fmulX (x2 0)) (com 0xc0000000 0xc0000000) FReg.zero = com 0 0 ∧
    fval (.fmulX (x2 0)) (com 0x7f000000 0x7f000000) (com 0x40800000 0x40800000) = ⟨0x7f8000007f7fffff, Dec.dfn⟩ ∧
    fval (.fsqrtX (x1 0)) (com 0xbf800000 0x40800000) FReg.zero = ⟨0x4000000000000000, Dec.trv⟩ := by decide +kernel

/-- The four bisections of R272's table. -/
theorem test_bisections :
    fval (.fbis { x1 0 with e := .p 1 }) (com 0x3f800000 0x40000000) FReg.zero = com 0x3f800000 0x3fc00000 ∧
    fval (.fbis { x1 1 with e := .p 1 }) (com 0x3f800000 0x40000000) FReg.zero = com 0x3fc00000 0x40000000 ∧
    fval (.fbis { x1 0 with e := .p 1 }) (com 0x3f800000 0x3f800001) FReg.zero = com 0x3f800000 0x3f800001 ∧
    fval (.fbis { x1 0 with e := .p 1 }) ⟨0xbf800000ff800000, Dec.dfn⟩ FReg.zero = ⟨0xff7fffffff800000, Dec.dfn⟩ ∧
    fval (.fbis { x1 1 with e := .p 1 }) ⟨0x7f80000040400000, Dec.dfn⟩ FReg.zero = ⟨0x7f8000007f7fffff, Dec.dfn⟩ := by decide +kernel

/-- Formats: the encodings of the numbers chapter, an interval packed to E4M3, and one through both midpoint formats. -/
theorem test_formats :
    [Fmt.fp32, .bf16, .f16, .e5m2, .e4m3].map (fun f => f.encode (roundNear f (Dy.cut ⟨-5, -1⟩))) = [0xc0200000, 0xc020, 0xc100, 0xc1, 0xc2] ∧
    Iv.pack .fp32 .e4m3 false (Iv.load .fp32 0xc0533333 0x3f8ccccd) = (0xc6, 0x39) ∧
    Iv.pack .fp32 .e4m3 false (Iv.load .fp32 0xc3e60000 0x3f8ccccd) = (0xff, 0x39) ∧
    Iv.pack .fp32 .e4m3 true (Iv.load .fp32 0xc3e60000 0x3f8ccccd) = (0xfe, 0x39) ∧
    Iv.toMid .fp32 .fp32 (Iv.load .fp32 0x40400000 0x40430000) = (0x40418000, 0x6600) ∧ Iv.toMid .fp32 .bf16 (Iv.load .fp32 0x40400000 0x40430000) = (0x4042, 0x6800) ∧
    Iv.ofMid .bf16 .fp32 0x4042 0x6800 = Iv.load .fp32 0x40400000 0x40440000 := by decide +kernel

/-- Where die 77 and site 77 stand, and the home of a striped block. -/
theorem test_places : dieAt 77 = (5, 9) ∧ siteAt 77 = (4, 9) ∧ stripeSite 0x12345 = 7 ∧ localAddr 0x12345000 = 0x246000 := by decide +kernel

/-- SHA3-256 of 64 bytes of 0 (worked out with another program of FIPS 202's function): 07 0f a1 ab … 81 e0. -/
theorem test_digest : sha3 0 0 = 0xe0815ed7fb7a050a8d2a04b91e5548306967191f94424dd17e55cc6faba10f07 := by decide +kernel

/-- Two eight-bit values, and a width of 64. -/
theorem wit_AtomicResults : (0 < 8 ∧ 8 ≤ 64) ∧ BitVec.ofNat 8 (atomInt 1 true 8 0x80 0x7f) = 0x80 ∧ BitVec.ofNat 8 (atomInt 0 false 8 0xff 1) = 0 ∧
    BitVec.ofNat 64 (atomInt 7 false 64 5 4) = 0 ∧ BitVec.ofNat 64 (atomInt 7 false 64 5 5) = 0 := by decide +kernel

/-- A width, a last group of S registers, and a predicate that is not the reserved value. -/
theorem wit_ImagesRestoreRegisters : (128 ≤ 128 ∧ 372 + 4 ≤ 376 ∧ 3 < 4 ∧ 127 < 128) ∧ tW.r.getP 14 127 ≠ 3 := by decide +kernel

/-- The fewest S registers a header may declare. -/
theorem wit_ResetValues : 24 ≤ probeHeader.nS := by decide +kernel

end Sys2Proof.Tests
end

section
/-! SUPPORT. What the steps of the panel do: the state each one leaves, as one equation or a few facts. -/

namespace Sys2Proof.Machine

/-! ### Steps that write no byte -/

/-- A step that leaves the store of memory as it is goes on with the same bytes. -/
theorem goes_sameMemory {e : Instr} {s u t : State} {p : State → Prop} (h : exec e s = .next u) (hu : u = t)
    (hm : t.mem = s.mem) (hp : p t) : Goes e s fun t => SameMemory s t ∧ p t :=
  ⟨t, hu ▸ h, fun a => by rw [State.byteAt, State.byteAt, hm], hp⟩

/-- Counting an event changes registers of service space alone. -/
theorem State.count_eq (s : State) (base n code amount : Nat) : ∃ sv, s.count base n code amount = { s with service := sv } := by
  refine List.foldlRecOn (motive := fun t : State => ∃ sv, t = { s with service := sv }) _ _ ⟨s.service, rfl⟩ ?_
  rintro _ ⟨sv, rfl⟩ i -
  dsimp only
  split
  · exact ⟨_, rfl⟩
  · exact ⟨sv, rfl⟩

theorem State.countDie_eq (s : State) (die code n : Nat) : ∃ sv, s.countDie die code n = { s with service := sv } := by
  unfold State.countDie
  split
  · exact s.count_eq ..
  · exact ⟨s.service, rfl⟩

/-- Sending a notice changes the notices, the mesh and the requests alone. -/
theorem State.sendNotice_eq (s : State) (id : Nat) :
    ∃ ns i net rq, s.sendNotice id = { s with notices := ns, nextId := i, net := net, reqs := rq } := by
  unfold State.sendNotice
  split
  · exact ⟨s.notices, s.nextId, s.net, s.reqs, rfl⟩
  · split
    · exact ⟨s.notices, s.nextId, s.net, s.reqs, rfl⟩
    · exact ⟨_, _, _, _, rfl⟩

/-- Reporting an event may count a dropped notice too. -/
theorem State.notice_eq (s : State) (type cause source agent addr detail : Nat) :
    ∃ sv ns i net rq, s.notice type cause source agent addr detail = { s with service := sv, notices := ns, nextId := i, net := net, reqs := rq } := by
  unfold State.notice
  split
  · exact ⟨_, s.notices, s.nextId, s.net, s.reqs, rfl⟩
  · obtain ⟨ns, i, net, rq, h⟩ := State.sendNotice_eq { s with
      notices := s.notices ++ [⟨s.nextId, type, cause, source, agent, addr, s.tcAt 257, detail, 0⟩], nextId := s.nextId + 1 } s.nextId
    exact ⟨s.service, ns, i, net, rq, h⟩

@[simp] theorem State.rebind_panel (s : State) : s.rebind.panel = s.panel := rfl
@[simp] theorem State.dropTarget_panel (s : State) (die : Nat) : (s.dropTarget die).panel = s.panel := rfl

/-- No line with waiting requests: the home has nothing to look at again. -/
theorem State.pumpHome_idle {s : State} (home : Nat) (h : ∀ q ∈ s.lineq, q.q = []) : s.pumpHome home = s := by
  have hl : s.lineq.filter (fun q => q.q ≠ [] && s.homeOf (lineAddr q.line) = home) = [] := by
    rw [List.filter_eq_nil_iff]; intro q hq; simp [h q hq]
  have hw : s.wantEntry.filter ([] : List Nat).contains = [] := List.filter_eq_nil_iff.mpr fun _ _ => by simp
  unfold State.pumpHome
  rw [hl]
  simp [hw]

/-! ### Dead incarnations (R25, R79) -/

theorem State.isDead_of_mem {s : State} {agent inc : Nat} (home : Nat) (h : (0, agent, inc) ∈ s.dead) : s.isDead home agent inc = true := by
  simp [State.isDead, h]

/-- An incarnation that is declared dead is refused at every home. -/
theorem State.isDead_declareDead (s : State) (agent inc home : Nat) : (s.declareDead agent inc).isDead home agent inc = true := by
  refine isDead_of_mem home ?_
  unfold State.declareDead
  split
  · rename_i h; simpa using h
  · simp

@[simp] theorem State.declareDead_mem (s : State) (agent inc : Nat) : (s.declareDead agent inc).mem = s.mem := by
  unfold State.declareDead; split <;> rfl
@[simp] theorem State.declareDead_panel (s : State) (agent inc : Nat) : (s.declareDead agent inc).panel = s.panel := by
  unfold State.declareDead; split <;> rfl

/-- So is every agent of a die that is. -/
theorem State.mem_dead_declareDie {s : State} {die a : Nat} (h : a ∈ s.dieAgents die) : (0, a, s.incOf a) ∈ (s.declareDie die).dead :=
  List.mem_append_right _ (List.mem_map_of_mem h)

/-! ### Replicas and E (R24 to R26) -/

section
variable {s : State} {n : Nat}

/-- What an accepted calibration message leaves. -/
def State.calibrated (s : State) (n : Nat) (z : Int) : State :=
  { s with replica := s.replica.put 0 n z, panel := { s.panel with calibrated := s.panel.calibrated.put 0 n s.now } }

@[simp] theorem State.calibrated_replica (z : Int) : (s.calibrated n z).replica.get 0 n = z := Store.get_put_eq ..
@[simp] theorem State.calibrated_time (z : Int) : (s.calibrated n z).panel.calibrated.get 0 n = s.now := Store.get_put_eq ..

/-- A replica that is not in service takes any offset. -/
theorem State.calibrate_outside {z : Int} (h257 : n ≠ 257) (hn : n < 264) (hd : s.dieDown n = false) (hr : s.panel.replicaIn n = false) :
    s.calibrate n z = s.calibrated n z := by
  simp [State.calibrate, State.calibrated, h257, hd, hr, Nat.not_le.mpr hn]

/-- One in service moves by one tick in 64, not backwards, and stays near the others. -/
theorem State.calibrate_step {z : Int} (h257 : n ≠ 257) (hn : n < 264) (hd : s.dieDown n = false) (h1 : (z - s.replica.get 0 n).natAbs = 1)
    (hc : s.panel.calibrated.get 0 n + 64 ≤ s.now) (he : s.replica.get 0 n - z ≤ (Config.elapsed (s.steps - 1) : Int))
    (hs : s.nearAll n z s.skewBound = true) : s.calibrate n z = s.calibrated n z := by
  simp [State.calibrate, State.calibrated, h257, hd, Nat.not_le.mpr hn, h1, hc, he, hs]

theorem State.raiseE_eq (hn : n < 264) : s.raiseE n = { s with
    ebound := s.ebound.put 16 n 16
    panel := { s.panel with stage := if s.panel.stage = 5 then 4 else s.panel.stage, reduced := true } } := by
  simp [State.raiseE, Nat.not_le.mpr hn]

/-! ### Leaving service (R18, R25, R27, R79, R88) -/

@[simp] theorem State.loseDie_mem : (s.loseDie n).mem = s.mem := rfl

theorem State.loseDie_down : (s.loseDie n).dieDown n = true := by
  simp only [State.dieDown, State.loseDie, State.rebind_panel, State.dropTarget_panel, State.declareDie]
  split <;> simp_all

theorem State.loseDie_inService : (s.loseDie n).panel.inService n = false := by
  simp [Panel.inService, State.loseDie, State.declareDie]

theorem State.loseDie_isDead {a : Nat} (ha : a ∈ s.dieAgents n) (home : Nat) : (s.loseDie n).isDead home a (s.incOf a) = true :=
  isDead_of_mem home (mem_dead_declareDie (s := { s with panel := _ }) ha)

/-- A die's replica that is out of touch or too far off takes the die with it. -/
theorem State.replicaOut_die (hn : n < 128) (hst : 3 ≤ s.panel.stage) (hr : s.panel.replicaIn n = true)
    (h : s.panel.calibrated.get 0 n + 100000 ≤ s.now ∨ s.eAt n ≤ (s.replica.get 0 n).natAbs) : s.replicaOut n = s.loseDie n := by
  have hg : ¬ (s.now < s.panel.calibrated.get 0 n + 100000 ∧ (s.replica.get 0 n).natAbs < s.eAt n) := by omega
  have h257 : n ≠ 257 := by omega
  simp [State.replicaOut, Nat.not_lt.mpr hst, h257, hr, hg, hn]

theorem State.retire_facts (h : s.panel.inService n = true) :
    (s.retire n).mem = s.mem ∧ (s.retire n).panel.inService n = false ∧ n ∈ (s.retire n).panel.retired ∧
      ∀ a ∈ s.dieAgents n, ∀ home, (s.retire n).isDead home a (s.incOf a) = true := by
  obtain ⟨sv, ns, i, net, rq, hq⟩ := ({ s with panel := { s.panel with retired := s.panel.retired ++ [n] } } : State).declareDie n |>.notice_eq 8 0 n 0 0 0
  have he : s.retire n = State.rebind { ({ s with panel := { s.panel with retired := s.panel.retired ++ [n] } } : State).declareDie n with
      service := sv, notices := ns, nextId := i, net := net, reqs := rq } := by
    rw [← hq]; simp [State.retire, h]
  rw [he]
  refine ⟨rfl, ?_, ?_, fun a ha home => isDead_of_mem home (mem_dead_declareDie (s := { s with panel := _ }) ha)⟩
  · simp [Panel.inService, State.declareDie]
  · simp [State.declareDie]

/-- A site that leaves service does nothing more, and its agent is dead. -/
theorem State.loseSite_facts (hn : n < 128) (h : n ∉ s.panel.sitesOut) :
    (s.loseSite n).mem = s.mem ∧ n ∈ (s.loseSite n).panel.sitesOut ∧ (s.loseSite n).homeUp (128 + n) = false ∧
      ∀ home, (s.loseSite n).isDead home (homeAgent (128 + n)) (s.incOf (homeAgent (128 + n))) = true := by
  have he : s.loseSite n =
      { s with panel := { s.panel with sitesOut := s.panel.sitesOut ++ [n] } }.declareDead (homeAgent (128 + n)) (s.incOf (homeAgent (128 + n))) := by
    simp [State.loseSite, Nat.not_le.mpr hn, h]
  rw [he]
  exact ⟨by simp, by simp, by simp [State.homeUp]; omega, fun home => isDead_declareDead ..⟩

/-- A message that has been sent another way touches the failed half no more. -/
theorem Msg.reroute_ne (m : Msg) (h : n = 257 ∨ n = 261) : (m.reroute n).src ≠ n ∧ (m.reroute n).dst ≠ n := by
  unfold Msg.reroute
  constructor <;> dsimp only <;> split <;> omega

theorem State.loseHalf_facts (h0 : s.halfOut = []) (h : n = 257 ∨ n = 261) :
    (s.loseHalf n).mem = s.mem ∧ (s.loseHalf n).halfOut = [n] ∧ (s.loseHalf n).regions = s.regions.filter (·.home ≠ n) ∧
      (s.loseHalf n).panel.tookOver = s.tcAt (518 - n) + 16384 ∧ (s.loseHalf n).net = s.net.map (·.reroute n) ∧
      (s.loseHalf n).kelvia = s.kelvia.map (·.reroute n) := by
  have hg : ¬ (((n ≠ 257 && n ≠ 261) || s.halfOut ≠ []) = true) := by rcases h with rfl | rfl <;> simp [h0]
  unfold State.loseHalf
  rw [if_neg hg]
  exact ⟨rfl, rfl, rfl, rfl, rfl, rfl⟩

/-! ### Links and clocks (R19, R21, R422, R489) -/

theorem State.laneFail_eq (h : linkOk n = true) : s.laneFail n =
    let k := s.panel.lanes.get 0 n + 1
    let start : Bool := 4 < k && !s.panel.half.contains n && s.panel.widthAt.get 0 n = 0
    { s with panel := { s.panel with
        lanes := s.panel.lanes.put 0 n k
        widthAt := if start then s.panel.widthAt.put 0 n (s.now + 1) else s.panel.widthAt } } := by
  simp [State.laneFail, h]

/-- Past four lanes a link at full width starts a change of width. -/
theorem State.laneFail_starts (h : linkOk n = true) (h4 : 4 < s.panel.lanes.get 0 n + 1) (hh : s.panel.half.contains n = false)
    (hw : s.panel.widthAt.get 0 n = 0) : (s.laneFail n).panel.widthAt.get 0 n = s.now + 1 := by
  have hs : (decide (4 < s.panel.lanes.get 0 n + 1) && !s.panel.half.contains n && decide (s.panel.widthAt.get 0 n = 0)) = true := by
    rw [decide_eq_true h4, hh, decide_eq_true hw]; rfl
  rw [laneFail_eq h]
  simp only [hs, if_true]
  exact Store.get_put_eq ..

theorem State.widthDone_eq (h : s.panel.widthAt.get 0 n ≠ 0) (hw : s.widthWaits n = false) : s.widthDone n =
    { s with panel := { s.panel with half := s.panel.half ++ [n], widthAt := s.panel.widthAt.put 0 n 0 } } := by
  simp [State.widthDone, h, hw]

theorem State.cutLink_eq (h : linkOk n = true) (ho : n ∉ s.panel.linksOut) : s.cutLink n =
    { s with panel := { s.panel with linksOut := s.panel.linksOut ++ [n], linkCut := s.panel.linkCut.put 0 n (s.nextId + 1) } } := by
  simp [State.cutLink, h, ho]

theorem State.clockDone_eq (h : s.clockMoves n = true) : s.clockDone n = { s with panel := { s.panel with
    clock := s.panel.clock.put 1700 n (s.panel.clockTo.get 0 n), clockTo := s.panel.clockTo.put 0 n 0, clockAt := s.panel.clockAt.put 0 n 0 } } := by
  simp [State.clockDone, h]

/-! ### Power (R29 to R32, R39, R488) -/

/-- A sample takes its time and counts. -/
theorem State.powerSample_eq (h : s.panel.powerAt + 10000 ≤ s.now) :
    ∃ sv, s.powerSample = { s with panel := { s.panel with powerAt := s.now }, service := sv } := by
  rw [State.powerSample, if_neg (Nat.not_lt.mpr h)]
  refine List.foldlRecOn (motive := fun t : State => ∃ sv, t = { s with panel := { s.panel with powerAt := s.now }, service := sv }) _ _ ⟨s.service, rfl⟩ ?_
  rintro _ ⟨sv, rfl⟩ d -
  dsimp only
  split
  · obtain ⟨sv', h'⟩ := State.countDie_eq { s with panel := { s.panel with powerAt := s.now }, service := sv } d 6 (Config.counted s.steps d 6)
    exact ⟨sv', h'⟩
  · exact ⟨sv, rfl⟩

/-- With no request waiting at any line a window ends with the limit started again alone. -/
theorem State.hbmWindow_idle (h : s.panel.windowAt + 1000 ≤ s.now) (hq : ∀ q ∈ s.lineq, q.q = []) : s.hbmWindow = { s with panel := { s.panel with
    windowAt := s.now, hbmBytes := [], siteBound := (List.range 128).any fun d => s.panel.inService d && s.panel.power.get 0 d = 1 } } := by
  have hl : s.lineq.filter (·.q ≠ []) = [] := List.filter_eq_nil_iff.mpr fun q hm => by simp [hq q hm]
  rw [State.hbmWindow, if_neg (Nat.not_lt.mpr h), hl]
  rfl

theorem State.selfRefresh_eq (hn : n < 128) (ho : n ∉ s.panel.sitesOut) (hr : 128 + n ∉ s.panel.selfRefresh)
    (h : s.panel.hbmAt.get 0 (128 + n) + 20000 ≤ s.now) :
    s.selfRefresh n = { s with panel := { s.panel with selfRefresh := s.panel.selfRefresh ++ [128 + n] } } := by
  simp [State.selfRefresh, Nat.not_le.mpr hn, ho, hr, Nat.not_lt.mpr h]

/-- What counting and reporting events leave alone: memory, its poison and homes, and the panel. -/
structure State.Reported (s t : State) : Prop where
  mem : t.mem = s.mem
  panel : t.panel = s.panel
  halfOut : t.halfOut = s.halfOut
  eccLines : t.eccLines = s.eccLines

theorem State.Reported.trans {s t u : State} (a : s.Reported t) (b : t.Reported u) : s.Reported u :=
  ⟨b.mem.trans a.mem, b.panel.trans a.panel, b.halfOut.trans a.halfOut, b.eccLines.trans a.eccLines⟩

theorem State.count_reported (s : State) (base n code amount : Nat) : s.Reported (s.count base n code amount) := by
  obtain ⟨sv, h⟩ := s.count_eq base n code amount
  rw [h]
  exact ⟨rfl, rfl, rfl, rfl⟩

theorem State.notice_reported (s : State) (type cause source agent addr detail : Nat) : s.Reported (s.notice type cause source agent addr detail) := by
  obtain ⟨sv, ns, i, net, rq, h⟩ := s.notice_eq type cause source agent addr detail
  rw [h]
  exact ⟨rfl, rfl, rfl, rfl⟩

/-- Where a line is homed depends on the halves of the Kelvia Link that are out alone. -/
theorem State.homeOf_congr {s t : State} (h : t.halfOut = s.halfOut) (pa : Nat) : t.homeOf pa = s.homeOf pa := by
  simp [State.homeOf, State.halfOf, h]

/-- A site's patrol scrub has begun, with an access to its HBM. -/
def State.scrubbed (s : State) (n : Nat) : State :=
  { s with panel := { s.panel with scrubAt := s.panel.scrubAt.put 0 n s.now } }.hbm (128 + n)

theorem State.scrubbed_at : (s.scrubbed n).panel.scrubAt.get 0 n = s.now := Store.get_put_eq ..

/-- A scrub reports what it corrects; a line that it finds uncorrectable is poisoned from then on, and reported. -/
theorem State.scrub_bad_eq {line : Nat} (hn : n < 128) (ho : n ∉ s.panel.sitesOut) (h : s.panel.scrubAt.get 0 n + 86400000000000 ≤ s.now) :
    ∃ u, (s.scrubbed n).Reported u ∧ s.scrub n (some line) =
      if u.homeOf (lineAddr line) ≠ 128 + n || u.eccLines.contains line then u
      else { u with eccLines := u.eccLines ++ [line] }.notice 7 1 n 0 (lineAddr line) 0 := by
  have hg : ¬ (128 ≤ n || s.panel.sitesOut.contains n || s.now < s.panel.scrubAt.get 0 n + 86400000000000) = true := by
    simp [Nat.not_le.mpr hn, ho, h]
  refine ⟨_, ?_, by rw [State.scrub, if_neg hg]⟩
  have hc := (s.scrubbed n).count_reported (siteBlock n + 0x100) 8 8 (Config.counted s.steps (128 + n) 8)
  split
  · exact hc.trans (State.notice_reported ..)
  · exact hc

theorem State.scrub_bad {line : Nat} (hn : n < 128) (ho : n ∉ s.panel.sitesOut) (h : s.panel.scrubAt.get 0 n + 86400000000000 ≤ s.now)
    (hh : s.homeOf (lineAddr line) = 128 + n) :
    (s.scrub n (some line)).mem = s.mem ∧ (s.scrub n (some line)).panel.scrubAt.get 0 n = s.now ∧ line ∈ (s.scrub n (some line)).eccLines := by
  obtain ⟨u, hu, he⟩ := scrub_bad_eq (line := line) hn ho h
  have hm : u.mem = s.mem := hu.mem
  have hp : u.panel.scrubAt.get 0 n = s.now := hu.panel ▸ scrubbed_at
  have hh' : u.homeOf (lineAddr line) = 128 + n := (homeOf_congr hu.halfOut _).trans hh
  rw [he]
  split
  · rename_i hc
    exact ⟨hm, hp, by simpa [hh'] using hc⟩
  · have hr := ({ u with eccLines := u.eccLines ++ [line] } : State).notice_reported 7 1 n 0 (lineAddr line) 0
    exact ⟨hr.mem.trans hm, by rw [hr.panel]; exact hp, by rw [hr.eccLines]; simp⟩

/-! ### Power gating (R29, R30) -/

@[simp] theorem State.setGating_gating (g since : Nat) : (s.setGating n g since).panel.gating.get 0 n = g := Store.get_put_eq ..
@[simp] theorem State.setGating_idleSince (g since : Nat) : (s.setGating n g since).panel.idleSince.get 0 n = since := Store.get_put_eq ..

/-- A powered die that is not idle counts nothing. -/
theorem State.gatingDelayed_busy (hn : n < 128) (hj : n ∈ s.panel.joined) (hd : s.dieDown n = false) (hg : s.panel.gating.get 0 n = 0)
    (hi : s.dieIdle n = false) : s.gatingDelayed n = s.setGating n 0 0 := by
  simp [State.gatingDelayed, Nat.not_le.mpr hn, hj, hd, hg, hi]

/-- An idle one starts to count. -/
theorem State.gatingDelayed_starts (hn : n < 128) (hj : n ∈ s.panel.joined) (hd : s.dieDown n = false) (hg : s.panel.gating.get 0 n = 0)
    (hi : s.dieIdle n = true) (h : s.panel.idleSince.get 0 n = 0) : s.gatingDelayed n = s.setGating n 0 (s.now + 1) := by
  simp [State.gatingDelayed, Nat.not_le.mpr hn, hj, hd, hg, hi, h]

/-- After the gating delay the gating sequence starts. -/
theorem State.gatingDelayed_expires {since : Nat} (hn : n < 128) (hj : n ∈ s.panel.joined) (hd : s.dieDown n = false) (hg : s.panel.gating.get 0 n = 0)
    (hi : s.dieIdle n = true) (h : s.panel.idleSince.get 0 n = since + 1) (ht : since + s.panel.gatingDelay ≤ s.now) :
    s.gatingDelayed n = s.setGating n 1 (since + 1) := by
  simp [State.gatingDelayed, Nat.not_le.mpr hn, hj, hd, hg, hi, h, ht]

/-- Keys that a filter drops read the default. -/
theorem Store.get_filter_drop {α : Type} (d : α) (m : Store α) (p : Nat → Bool) (a : Nat) (h : p a = false) :
    Store.get d (m.filter fun x => p x.1) a = d := by
  induction m with
  | nil => rfl
  | cons x r ih =>
    by_cases hx : p x.1 = true
    · have : a ≠ x.1 := fun e => by rw [e, hx] at h; cases h
      simp [hx, Store.get, this, ih]
    · simp [hx, ih]

/-- Keys that a filter keeps read what they did. -/
theorem Store.get_filter_keep {α : Type} (d : α) (m : Store α) (p : Nat → Bool) (a : Nat) (h : p a = true) :
    Store.get d (m.filter fun x => p x.1) a = Store.get d m a := by
  induction m with
  | nil => rfl
  | cons x r ih =>
    by_cases hx : p x.1 = true
    · simp [hx, Store.get, ih]
    · have : a ≠ x.1 := fun e => hx (e ▸ h)
      simp [hx, Store.get, this, ih]

/-- What a die that is switched off loses. -/
theorem State.powerOff_idle (hg : s.panel.gating.get 0 n = 1) (hd : s.dieDown n = false) (hi : s.dieIdle n = true) :
    (s.powerOff n).mem = s.mem ∧ (s.powerOff n).panel.gating.get 0 n = 2 ∧ (∀ l ∈ (s.powerOff n).l1, l.die ≠ n) ∧
      (∀ x ∈ (s.powerOff n).tlbs, x.die ≠ n) ∧
      ∀ a, n * (1280 * 2 ^ 19) ≤ a → a < (n + 1) * (1280 * 2 ^ 19) → (s.powerOff n).vault.get 0 a = 0 := by
  have h0 : ¬ (s.panel.gating.get 0 n ≠ 1 || s.dieDown n) = true := by simp [hg, hd]
  have h1 : ¬ (!s.dieIdle n) = true := by simp [hi]
  rw [State.powerOff, if_neg h0, if_neg h1]
  refine ⟨rfl, Store.get_put_eq .., fun l hl => ?_, fun x hx => ?_, fun a hlo hhi => ?_⟩
  · simpa using List.of_mem_filter hl
  · simpa using List.of_mem_filter hx
  · refine Store.get_filter_drop 0 s.vault (fun k => !(n * (1280 * 2 ^ 19) ≤ k && k < n * (1280 * 2 ^ 19) + 1280 * 2 ^ 19)) a ?_
    simp only [Bool.not_eq_false', Bool.and_eq_true, decide_eq_true_eq]
    omega

theorem State.powerOff_busy (hg : s.panel.gating.get 0 n = 1) (hd : s.dieDown n = false) (hi : s.dieIdle n = false) :
    s.powerOff n = s.setGating n 0 0 := by
  simp [State.powerOff, hg, hd, hi]

theorem State.wake_gated (h : s.panel.gating.get 0 n = 2) :
    s.wake n = { s with panel := { s.panel with gating := s.panel.gating.put 0 n 3 } } := by
  simp [State.wake, h]

theorem State.wake_gating (h : s.panel.gating.get 0 n = 1) : s.wake n = s.setGating n 0 0 := by
  simp [State.wake, h]

/-- A die that is powered again counts the time that it was gated. -/
theorem State.wakeDone_eq (h : s.panel.gating.get 0 n = 3) : ∃ sv, s.wakeDone n = State.setGating { s with service := sv } n 0 0 := by
  obtain ⟨sv, hc⟩ := s.countDie_eq n 5 ((s.now - s.panel.idleSince.get 0 n) / 1000)
  exact ⟨sv, by simp [State.wakeDone, h, hc]⟩

/-! ### Notices (R482) -/

/-- A low part cut off above does not change the digits below the cut. -/
theorem digit_mod_pow (v : Nat) {b n : Nat} (h : b < n) : v % 256 ^ n / 256 ^ b % 256 = v / 256 ^ b % 256 := by
  obtain ⟨k, rfl⟩ := Nat.exists_eq_add_of_lt h
  rw [show b + k + 1 = b + (k + 1) by omega, pow_add, Nat.mod_mul_right_div_self, Nat.mod_mod_of_dvd _ (dvd_pow_self 256 (by omega))]

/-- A byte of a number's line is its digit. -/
theorem Line.byte_ofNat {i : Nat} (h : i < 128) (x : Nat) : Line.byte (BitVec.ofNat 1024 x) i = BitVec.ofNat 8 (x / 256 ^ i) := by
  apply BitVec.eq_of_getLsbD_eq
  intro j hj
  have hi : 8 * i + j < 1024 := by omega
  rw [Line.byte, BitVec.getLsbD_extractLsb', BitVec.getLsbD_ofNat, BitVec.getLsbD_ofNat, show (256 : Nat) ^ i = 2 ^ (8 * i) by rw [pow_mul]; rfl,
    Nat.testBit_div_two_pow]
  simp [hi, add_comm j]

/-- Each byte of the data of a store inside one line. -/
theorem storeMsg_byte {pa n b : Nat} (v : Nat) (h : pa % 128 + n ≤ 128) (hb : b < n) :
    Line.byte (storeMsg pa n v).data (pa % 128 + b) = BitVec.ofNat 8 (v / 256 ^ b) := by
  apply BitVec.eq_of_toNat_eq
  rw [storeMsg, Line.byte_ofNat (by omega), pow_add, ← Nat.div_div_eq_div_mul, Nat.mul_div_cancel _ (by positivity), BitVec.toNat_ofNat, BitVec.toNat_ofNat]
  exact digit_mod_pow v hb

/-- A notice that is waiting leaves as a store of bridge BN1 at the ring's tail. -/
theorem State.sendNotice_sends {x : Notice} (hf : s.notices.find? (·.id = n) = some x) (hr : s.ringFree rNrTail rNrHead rNrLog = true)
    (ht : ∀ y ∈ s.notices, y.tag = 0) :
    s.sendNotice n = State.sendAs { s with notices := s.notices.map fun o => if o.id = n then { o with tag := s.nextId } else o }
      (agentId 9 1 0) bn1 0 (.notice n) (storeMsg (s.reg rNrBase + 32 * (s.reg rNrTail % 2 ^ s.reg rNrLog)) 32 x.bytes) := by
  have hg : ¬ ((s.notices.any (·.tag ≠ 0)) || !s.ringFree rNrTail rNrHead rNrLog) = true := by simpa [hr] using ht
  simp only [State.sendNotice, hf]
  rw [if_neg hg]

end
end Sys2Proof.Machine
end

section
/-! SUPPORT. The panel: one statement settled. -/

namespace Sys2Proof.Machine

/-- Settles O47, clause by clause from the equations and facts above. Readings of the model that it rests on: vaults of a gated die read 0
(log 20), notices go to their ring one at a time (log 25), and the agents of a lost die are dead at every home at once (log 59). -/
theorem panelSteps : Obligations.PanelSteps := by
  intro s n p goes
  refine ⟨?calOut, ?calIn, ?raise, ?lower, ?replica, ?lane, ?width, ?cut, ?half, ?clock, ?power, ?window, ?refresh, ?scrub, ?delay, ?switch,
    ?wake, ?abort, ?woken, ?retire, ?fail, ?site, ?notice⟩
  case calOut =>
    intro h257 hn hd hr
    exact goes_sameMemory rfl (State.calibrate_outside h257 hn hd hr) rfl ⟨State.calibrated_replica _, State.calibrated_time _⟩
  case calIn =>
    intro h257 hn hd _ h1 hc he hs
    exact goes_sameMemory rfl (State.calibrate_step h257 hn hd h1 hc he hs) rfl ⟨State.calibrated_replica _, State.calibrated_time _⟩
  case raise =>
    intro hn
    exact goes_sameMemory rfl (State.raiseE_eq hn) rfl ⟨Store.get_put_eq .., rfl, rfl⟩
  case lower =>
    intro hn
    refine ⟨fun h => ?_, fun h => ?_⟩
    · exact goes_sameMemory rfl (if_pos (by simp [n, hn, h])) rfl (Store.get_put_eq ..)
    · exact goes_sameMemory rfl (if_neg (by simp [h])) rfl rfl
  case replica =>
    rintro die rfl hn hst hr h
    exact goes_sameMemory rfl (State.replicaOut_die hn hst hr h) State.loseDie_mem
      ⟨State.loseDie_down, State.loseDie_inService, fun a ha home => State.loseDie_isDead ha home⟩
  case lane =>
    intro h
    exact goes_sameMemory rfl (State.laneFail_eq h) rfl ⟨Store.get_put_eq .., fun h4 hh hw => State.laneFail_eq h ▸ State.laneFail_starts h h4 hh hw⟩
  case width =>
    intro h hw
    exact goes_sameMemory rfl (State.widthDone_eq h hw) rfl ⟨by simp [n], Store.get_put_eq ..⟩
  case cut =>
    intro h ho
    exact goes_sameMemory rfl (State.cutLink_eq h ho) rfl ⟨rfl, Store.get_put_eq .., rfl⟩
  case half =>
    intro h0 hn
    obtain ⟨hm, hh, hreg, ht, hnet, hk⟩ := State.loseHalf_facts h0 hn
    refine goes_sameMemory rfl rfl hm ⟨hh, fun r hr => ?_, ht, hnet, hk, fun m hm => ?_⟩
    · rw [hreg] at hr
      simpa using List.of_mem_filter hr
    · rw [hnet] at hm
      obtain ⟨o, -, rfl⟩ := List.mem_map.mp hm
      exact o.reroute_ne hn
  case clock =>
    intro h
    exact goes_sameMemory rfl (State.clockDone_eq h) rfl ⟨Store.get_put_eq .., Store.get_put_eq ..⟩
  case power =>
    intro h
    obtain ⟨sv, he⟩ := State.powerSample_eq h
    exact goes_sameMemory rfl he rfl ⟨rfl, rfl, rfl⟩
  case window =>
    intro h hq
    exact goes_sameMemory rfl (State.hbmWindow_idle h hq) rfl ⟨rfl, fun _ => rfl, by simp [p]⟩
  case refresh =>
    intro hn ho hr h
    exact goes_sameMemory rfl (State.selfRefresh_eq hn ho hr h) rfl (by simp [n])
  case scrub =>
    intro hn ho h hf hh
    obtain ⟨hm, ht, he⟩ := State.scrub_bad hn ho h hh
    exact goes_sameMemory rfl (by rw [if_pos hf]) hm ⟨ht, he⟩
  case delay =>
    intro hn hj hd hg
    refine ⟨fun hi h => ?_, fun since hi h ht => ?_, fun hi => ?_⟩
    · exact goes_sameMemory rfl (State.gatingDelayed_starts hn hj hd hg hi h) rfl ⟨State.setGating_idleSince .., State.setGating_gating ..⟩
    · exact goes_sameMemory rfl (State.gatingDelayed_expires hn hj hd hg hi h ht) rfl (State.setGating_gating ..)
    · exact goes_sameMemory rfl (State.gatingDelayed_busy hn hj hd hg hi) rfl ⟨State.setGating_gating .., State.setGating_idleSince ..⟩
  case switch =>
    intro hg hd
    refine ⟨fun hi => ?_, fun hi => ?_⟩
    · obtain ⟨hm, hp⟩ := State.powerOff_idle hg hd hi
      exact goes_sameMemory rfl rfl hm hp
    · exact goes_sameMemory rfl (State.powerOff_busy hg hd hi) rfl ⟨State.setGating_gating .., rfl⟩
  case wake =>
    intro h
    exact goes_sameMemory rfl (State.wake_gated h) rfl (Store.get_put_eq ..)
  case abort =>
    intro h
    exact goes_sameMemory rfl (State.wake_gating h) rfl (State.setGating_gating ..)
  case woken =>
    intro h
    obtain ⟨sv, he⟩ := State.wakeDone_eq h
    exact goes_sameMemory rfl he rfl (State.setGating_gating ..)
  case retire =>
    intro h
    obtain ⟨hm, hp⟩ := State.retire_facts h
    exact goes_sameMemory rfl rfl hm hp
  case fail =>
    intro hj hd
    have hg : (s.panel.joined.contains s.arg.n && !s.dieDown s.arg.n) = true := by simpa [n, p] using ⟨hj, hd⟩
    exact goes_sameMemory rfl (if_pos hg) rfl ⟨by simp [State.dieDown, n], rfl⟩
  case site =>
    intro hn ho
    obtain ⟨hm, hp⟩ := State.loseSite_facts hn ho
    exact goes_sameMemory rfl rfl hm hp
  case notice =>
    intro x hf hr ht a ha
    have hid : x.id = n := by simpa using List.find?_some hf
    refine goes_sameMemory rfl (State.sendNotice_sends hf hr ht) rfl ⟨rfl, _, rfl, rfl, rfl, rfl, rfl, rfl, fun b hb => ?_, ?_⟩
    · exact storeMsg_byte x.bytes (by omega) hb
    · exact ⟨{ x with tag := s.nextId }, List.mem_map.mpr ⟨x, List.mem_of_find?_eq_some hf, if_pos hid⟩, hid, rfl⟩

end Sys2Proof.Machine
end

section
/-! SUPPORT. Service space, the debugger, bring-up and reset: what each step leaves. -/

namespace Sys2Proof.Machine

/-! ### Stores and associations written at many keys -/

/-- A key that is written, or already reads the value, reads it after writes that agree on it. -/
theorem Store.get_foldl_put {α β : Type} [DecidableEq α] (d : α) (key : β → Nat) (val : β → α) (a : Nat) (v : α) (l : List β) (m : Store α)
    (hv : ∀ b ∈ l, key b = a → val b = v) (h : (∃ b ∈ l, key b = a) ∨ m.get d a = v) :
    Store.get d (l.foldl (fun m b => m.put d (key b) (val b)) m) a = v := by
  induction l generalizing m with
  | nil => simpa using h
  | cons b l ih =>
    refine ih _ (fun c hc => hv c (List.mem_cons_of_mem _ hc)) ?_
    by_cases hb : key b = a
    · exact .inr (by rw [← hv b (by simp) hb, ← hb]; exact Store.get_put_eq ..)
    · rcases h with ⟨c, hc, hca⟩ | h
      · rcases List.mem_cons.mp hc with rfl | hc
        · exact absurd hca hb
        · exact .inl ⟨c, hc, hca⟩
      · exact .inr ((Store.get_put_ne d m _ _ _ (Ne.symm hb)).trans h)

/-- A map that keeps the keys changes what stands under each. -/
theorem Assoc.find_map_of_fst {κ α : Type} [DecidableEq κ] (m : Assoc κ α) (f : κ × α → κ × α) (hf : ∀ p, (f p).1 = p.1) (k : κ) :
    Assoc.find (m.map f) k = (m.find k).map fun v => (f (k, v)).2 := by
  induction m with
  | nil => rfl
  | cons p r ih =>
    obtain ⟨j, v⟩ := p
    have hk : (f (j, v)).1 = j := hf (j, v)
    rw [List.map_cons, show f (j, v) = (j, (f (j, v)).2) from Prod.ext hk rfl, Assoc.find, Assoc.find]
    split
    · subst_vars; rfl
    · exact ih

/-! ### Registers of service space -/

@[simp] theorem State.reg_setReg (s : State) (o v : Nat) : (s.setReg o v).reg o = v := Store.get_put_eq ..

theorem State.reg_setReg_ne (s : State) {o a : Nat} (v : Nat) (h : a ≠ o) : (s.setReg o v).reg a = s.reg a := Store.get_put_ne _ _ _ _ _ h

@[simp] theorem State.setReg_mem (s : State) (o v : Nat) : (s.setReg o v).mem = s.mem := rfl

@[simp] theorem State.svcErr_reg (s : State) : s.svcErr.reg rSvcErr = (s.reg rSvcErr + 1) % 2 ^ 32 := State.reg_setReg ..

/-- Registers written one after another change service space alone. -/
theorem State.foldl_setReg_eq (s : State) (key val : Nat → Nat) (l : List Nat) :
    l.foldl (fun s j => s.setReg (key j) (val j)) s = { s with service := l.foldl (fun m j => m.put 0 (key j) (val j)) s.service } := by
  induction l generalizing s with
  | nil => rfl
  | cons j l ih => exact ih _

/-- Words written at their offsets are read there. -/
theorem State.reg_foldl_setReg (s : State) (base : Nat) (val : Nat → Nat) {n i : Nat} (hi : i < n) :
    ((List.range n).foldl (fun s j => s.setReg (base + 8 * j) (val j)) s).reg (base + 8 * i) = val i := by
  rw [foldl_setReg_eq]
  exact Store.get_foldl_put 0 (fun j => base + 8 * j) val _ _ _ _ (fun b _ hb => by rw [show b = i by omega]) (.inl ⟨i, by simp [hi], rfl⟩)

section
variable {s : State} {n v : Nat}

/-- The size of a ring is written where it is one that R480 allows. -/
theorem State.writeLog_ok {r : Nat} (h : 6 ≤ v % 256) (h' : v % 256 ≤ 16) : s.writeLog r v = s.setReg r (v % 256) := by
  simp [State.writeLog, h, h']

theorem State.writeLog_discards {r : Nat} (h : v % 256 < 6 ∨ 16 < v % 256) : s.writeLog r v = s :=
  if_neg (by simp; omega)

theorem State.clearDropped_reg : (s.clearDropped v).reg rNrDropped = if v = 0 then 0 else s.reg rNrDropped := by
  unfold State.clearDropped
  split
  · exact reg_setReg ..
  · rfl

theorem State.clearDropped_mem : (s.clearDropped v).mem = s.mem := by
  unfold State.clearDropped; split <;> rfl

/-- A whole register written at its offset. -/
theorem State.serviceWrite_eq {o : Nat} {r : SvcReg} (ho : o % 8 = 0) (hr : s.svcReg o = some r) (hs : s.panel.stage ≠ 15) :
    s.serviceWrite o v 8 = s.svcWrite o r (v % 2 ^ 64) := by
  have ha : s.svcAt o = some r := by
    rw [State.svcAt, Nat.div_mul_cancel (Nat.dvd_of_mod_eq_zero ho), hr]
    simp [ho]
  simp [State.serviceWrite, ha, ho, hs, Nat.div_mul_cancel (Nat.dvd_of_mod_eq_zero ho)]

/-! ### Incarnations (R484) -/

/-- No die has more agents of a kind than the larger grade has cores. -/
theorem State.incUnits_le (s : State) (kind : Nat) : s.incUnits kind ≤ 1280 := by
  have hc : s.coresPerDie ≤ 1280 := by unfold State.coresPerDie; split <;> omega
  unfold State.incUnits
  split <;> omega

/-- The register of an agent's incarnation stands at its offset. -/
theorem State.dieReg_inc {die kind first : Nat} (hk : kind < 6) (hf : first < s.incUnits kind) :
    s.dieReg die (0x10000 + kind * 0x2000 + 2 * first) = some (.inc die kind first) := by
  have hle := s.incUnits_le kind
  have hr : (0x10000 + kind * 0x2000 + 2 * first - 0x10000) / 0x2000 = kind := by omega
  have hr' : (0x10000 + kind * 0x2000 + 2 * first - 0x10000) % 0x2000 / 2 = first := by omega
  rw [State.dieReg, if_neg (by omega), if_neg (by omega), if_neg (by omega), if_neg (by omega), if_pos (by simp; omega)]
  simp only [hr, hr', hf, if_true]

/-- A write of the register at its offset: firmware's alone is taken. -/
theorem State.incWrite_eq {die kind first size o : Nat} (ho : o = 0x10000000 + die * 0x100000 + 0x10000 + kind * 0x2000 + 2 * first)
    (hd : die < 128) (hk : kind < 6) (hf : first < s.incUnits kind) (fw : Bool) :
    s.incWrite o v size fw = if fw then s.writeIncs die kind first (size / 2) v else s.svcErr := by
  have hle := s.incUnits_le kind
  have h1 : (o - 0x10000000) / 0x100000 = die := by omega
  have h2 : o % 0x100000 = 0x10000 + kind * 0x2000 + 2 * first := by omega
  have h3 : 0x10000000 ≤ o := by omega
  simp only [State.incWrite, h1, h2, dieReg_inc hk hf, decide_eq_true hd, decide_eq_true h3, Bool.and_true]

/-- One incarnation written. -/
theorem State.writeIncs_one {die kind first : Nat} : (s.writeIncs die kind first 1 v).incOf (agentId kind die first) = v % 2 ^ 16 := by
  have h : v / 2 ^ (16 * 0) % 2 ^ 16 = v % 2 ^ 16 := by simp
  exact (Store.get_put_eq ..).trans h

/-! ### LOST clears over ranges (R81, R484) -/

theorem State.lclrStart_eq (hn : n < 128) (hv : 0 < v) (hv' : v ≤ 2 ^ 20) (hc : s.clears.any (·.site = n) = false) :
    s.lclrStart n v = { s with clears := s.clears ++ [(⟨n, lineOf (s.reg (siteBlock n + 0x200)), v⟩ : Clear)] }.setReg (siteBlock n + 0x210) (2 ^ 63) := by
  have hg : ¬ (128 ≤ n || v = 0 || 2 ^ 20 < v || s.clears.any (·.site = n)) = true := by
    simpa [hc, Nat.not_le.mpr hn, Nat.ne_of_gt hv] using hv'
  rw [State.lclrStart, if_neg hg]

/-- A line of the clear's range whose LOST flag it clears. -/
def Clear.hits (c : Clear) (n : Nat) (r : Region) : Bool := r.home = 128 + n && r.lost && r.size = 0 && c.line ≤ r.base && r.base < c.line + c.count

/-- The line's entry without its LOST flag. -/
def Region.unlost (r : Region) : Region := { r with lost := false, st := if r.st = .lost then .invalid else r.st }

theorem State.lclrDone_eq {c : Clear} (hc : s.clears.find? (·.site = n) = some c) (hq : ∀ q ∈ s.lineq, q.q = []) :
    s.lclrDone n = State.setReg { s with
      regions := s.regions.map fun r => if c.hits n r then r.unlost else r
      clears := s.clears.filter (·.site ≠ n) } (siteBlock n + 0x210) (s.regions.filter (c.hits n)).length := by
  simp only [State.lclrDone, hc]
  exact State.pumpHome_idle _ hq

/-- No line of the range keeps its flag. -/
theorem Clear.hits_cleared {c : Clear} {r : Region} {l : List Region} (hr : r ∈ l.map fun r => if c.hits n r then r.unlost else r)
    (hh : r.home = 128 + n) (hs : r.size = 0) (hlo : c.line ≤ r.base) (hhi : r.base < c.line + c.count) : r.lost = false := by
  obtain ⟨o, -, rfl⟩ := List.mem_map.mp hr
  by_cases ho : c.hits n o = true
  · rw [if_pos ho]; rfl
  · rw [if_neg ho] at *
    simpa [Clear.hits, hh, hs, hlo, hhi] using ho

/-! ### The debugger (R476, R495) -/

theorem State.dbgHalt_eq {tk : TeamKey} (h : s.dbgTeam n v = some tk) : s.dbgHalt n v =
    { s.setReg (dieBlock n + 0x200) (v % 2 ^ 64) with
      warps := s.warps.map fun p => if p.1.teamKey = tk && p.1.ctx = 0 && p.2.r.live ≠ 0 then (p.1, { p.2 with pending := { p.2.pending with halt := true } }) else p } := by
  simp only [State.dbgHalt, h]

/-- A live warp of the team has a halt pending. -/
theorem State.dbgHalt_warp {tk : TeamKey} {k : WarpKey} {w : Warp} (h : s.dbgTeam n v = some tk) (hw : s.warp? k = some w) (hk : k.teamKey = tk)
    (hx : k.ctx = 0) (hl : w.r.live ≠ 0) : (s.dbgHalt n v).warp? k = some { w with pending := { w.pending with halt := true } } := by
  have hw' : s.warps.find k = some w := hw
  rw [dbgHalt_eq h, State.warp?, Assoc.find_map_of_fst _ _ (fun p => by split <;> rfl), hw', Option.map_some,
    if_pos (by simpa [hk, hx] using hl)]

theorem State.dbgResume_eq {tk : TeamKey} (h : s.dbgTeam n v = some tk) : s.dbgResume n v = { s with
    warps := s.warps.map fun p => if p.1.teamKey = tk && p.1.ctx = 0 then (p.1, { p.2 with halted := false, pending := { p.2.pending with halt := false } }) else p } := by
  simp only [State.dbgResume, h]

/-- A warp of the team goes on. -/
theorem State.dbgResume_warp {tk : TeamKey} {k : WarpKey} {w : Warp} (h : s.dbgTeam n v = some tk) (hw : s.warp? k = some w) (hk : k.teamKey = tk)
    (hx : k.ctx = 0) : (s.dbgResume n v).warp? k = some { w with halted := false, pending := { w.pending with halt := false } } := by
  have hw' : s.warps.find k = some w := hw
  rw [dbgResume_eq h, State.warp?, Assoc.find_map_of_fst _ _ (fun p => by split <;> rfl), hw', Option.map_some, if_pos (by simp [hk, hx])]

/-- Eight bytes of an image of V registers are written. -/
theorem State.dbgWrite_v {d : DbgSel} (h : s.dbgSelected n = some d) (h0 : d.kind = 0) : s.dbgWrite n v =
    let hd := s.header d.k
    let img := d.w.image hd d.team 0 0 d.count
    s.setWarp d.k { d.w with r := d.w.r.loadImage hd 0 0 d.count (img - imageField img d.off 8 * 256 ^ d.off + v % 2 ^ 64 * 256 ^ d.off) } := by
  simp [State.dbgWrite, h, h0]

/-! ### Bring-up, attestation and reset (R25, R490, R494) -/

/-- A number's lowest digits, put together again. -/
theorem foldr_digits (base n m : Nat) : (List.range n).foldr (fun j x => m / base ^ j % base + x * base) 0 = m % base ^ n := by
  induction n generalizing m with
  | zero => simp [Nat.mod_one]
  | succ n ih =>
    have hd (j : Nat) : m / base ^ (j + 1) = m / base / base ^ j := by rw [Nat.div_div_eq_div_mul, pow_succ']
    rw [List.range_succ_eq_map, List.foldr_cons, List.foldr_map, pow_succ', Nat.mod_mul, ← ih (m / base)]
    simp [hd, mul_comm]

/-- Words of eight bytes, put together again. -/
theorem foldr_words (n m : Nat) : (List.range n).foldr (fun j x => imageField m (8 * j) 8 + x * 2 ^ 64) 0 = m % 2 ^ (64 * n) := by
  have hb : (2 : Nat) ^ 64 = 256 ^ 8 := rfl
  rw [pow_mul, hb, ← foldr_digits]
  simp only [imageField, pow_mul]

/-- A word of a measurement register that has taken a digest. -/
theorem State.measure_reg {i j : Nat} (d : BitVec 256) (hj : j < 4) : (s.measure i d).reg (0x40000 + 32 * (i % 8) + 8 * j) =
    imageField (sha3 (BitVec.ofNat 256 ((List.range 4).foldr (fun j x => s.reg (0x40000 + 32 * (i % 8) + 8 * j) % 2 ^ 64 + x * 2 ^ 64) 0)) d).toNat (8 * j) 8 :=
  reg_foldl_setReg s _ _ hj

/-- Its four words are the digest of what it held and of the digest it takes. -/
theorem State.measure_words (i : Nat) (d : BitVec 256) :
    (List.range 4).foldr (fun j x => (s.measure i d).reg (0x40000 + 32 * (i % 8) + 8 * j) + x * 2 ^ 64) 0 =
      (sha3 (BitVec.ofNat 256 ((List.range 4).foldr (fun j x => s.reg (0x40000 + 32 * (i % 8) + 8 * j) % 2 ^ 64 + x * 2 ^ 64) 0)) d).toNat := by
  rw [List.foldr_ext _ _ _ fun j hj x => by rw [measure_reg d (List.mem_range.mp hj)], foldr_words]
  exact Nat.mod_eq_of_lt (BitVec.isLt _)

theorem State.measure_eq (i : Nat) (d : BitVec 256) : ∃ sv, s.measure i d = { s with service := sv } := ⟨_, foldl_setReg_eq s _ _ _⟩

/-- The first image that verifies is measured and starts bring-up. -/
theorem State.bootVerify_good (i : Nat) (d : BitVec 256) (h : s.panel.stage = 0) :
    (s.bootVerify true i d).mem = s.mem ∧ (s.bootVerify true i d).panel.stage = 1 ∧
      (List.range 4).foldr (fun j x => (s.bootVerify true i d).reg (0x40000 + 32 * (i % 8) + 8 * j) + x * 2 ^ 64) 0 =
        (sha3 (BitVec.ofNat 256 ((List.range 4).foldr (fun j x => s.reg (0x40000 + 32 * (i % 8) + 8 * j) % 2 ^ 64 + x * 2 ^ 64) 0)) d).toNat := by
  obtain ⟨sv, he⟩ := s.measure_eq i d
  have hb : s.bootVerify true i d = { s with service := sv, panel := { s.panel with stage := 1 } } := by
    simp [State.bootVerify, he, h]
  have hr (a : Nat) : (s.bootVerify true i d).reg a = (s.measure i d).reg a := by rw [hb, he]; rfl
  refine ⟨by rw [hb], by rw [hb], ?_⟩
  simp only [hr]
  exact measure_words i d

theorem State.bootVerify_bad {i : Nat} {d : BitVec 256} (h : s.panel.stage = 0) :
    s.bootVerify false i d = { s with panel := { s.panel with stage := 15 } } := by
  simp [State.bootVerify, h]

theorem State.sitesTrained_eq (h : s.panel.stage = 1) (ho : s.panel.sitesOut = []) (hn : n ≤ 44) :
    s.sitesTrained n = { s with boundary := n * 2 ^ 30, panel := { s.panel with stage := 2 } } := by
  simp [State.sitesTrained, h, ho, Nat.not_lt.mpr hn]

theorem State.kelviaUp_eq (h : s.panel.stage = 2) : s.kelviaUp = { s with panel := { s.panel with
    stage := 3, calibrated := (List.range 136).foldl (fun m u => m.put 0 (128 + u) s.now) s.panel.calibrated } } := by
  simp [State.kelviaUp, h]

/-- Bring-up goes on, and calibration starts at every memory site and bridge. -/
theorem State.kelviaUp_facts (h : s.panel.stage = 2) : s.kelviaUp.mem = s.mem ∧ s.kelviaUp.panel.stage = 3 ∧
    ∀ u, 128 ≤ u → u < 264 → s.kelviaUp.panel.calibrated.get 0 u = s.now := by
  rw [kelviaUp_eq h]
  refine ⟨rfl, rfl, fun u hlo hhi => ?_⟩
  have hm : ∃ b ∈ List.range 136, 128 + b = u := ⟨u - 128, by rw [List.mem_range]; omega, by omega⟩
  dsimp only
  exact Store.get_foldl_put 0 (128 + ·) (fun _ => s.now) u s.now _ s.panel.calibrated (fun _ _ _ => rfl) (.inl hm)

/-- A die that has passed self-test joins at the current level. -/
theorem State.dieJoin_eq {m k : Nat} (hst : 3 ≤ s.panel.stage) (h15 : s.panel.stage ≠ 15) (hn : n < 128) (hj : n ∉ s.panel.joined)
    (hd : s.dieDown n = false) (hs : s.nearAll n (s.replica.get 0 n) s.skewBound = true) : s.dieJoin n m k = { s with
      clear := if m = 0 then s.clear else s.clear.put 65536 n m
      panel := { s.panel with
        stage := max s.panel.stage 4
        joined := s.panel.joined ++ [n]
        calibrated := s.panel.calibrated.put 0 n s.now
        gatingDelay := if k = 0 then s.panel.gatingDelay else k
        clock := if s.panel.reduced then s.panel.clock.put 1700 n 1000 else s.panel.clock } } := by
  simp [State.dieJoin, Nat.not_lt.mpr hst, h15, Nat.not_le.mpr hn, hj, hd, hs]

/-- Full service lowers E everywhere and starts a change of every die's clock. -/
theorem State.fullService_eq (h : s.panel.stage = 4) (hw : s.within 4 = true) : s.fullService = { s with
    ebound := allUnits.foldl (fun m u => m.put 16 u 4) s.ebound
    panel := { s.panel with
      stage := 5
      reduced := false
      modLocked := true
      clockTo := s.panel.joined.foldl (fun m d => m.put 0 d (classClock (s.panel.power.get 0 d))) s.panel.clockTo
      clockAt := s.panel.joined.foldl (fun m d => m.put 0 d (s.now + 1)) s.panel.clockAt } } := by
  simp [State.fullService, h, hw]

/-- Every unit then applies 4 ns, and every die that has joined changes to the clock of its class. -/
theorem State.fullService_facts (h : s.panel.stage = 4) (hw : s.within 4 = true) : s.fullService.mem = s.mem ∧ s.fullService.panel.stage = 5 ∧
    s.fullService.panel.reduced = false ∧ (∀ u < 264, s.fullService.eAt u = 4) ∧
      ∀ d ∈ s.panel.joined, s.fullService.panel.clockTo.get 0 d = classClock (s.panel.power.get 0 d) := by
  rw [fullService_eq h hw]
  refine ⟨rfl, rfl, rfl, fun u hu => ?_, fun d hd => ?_⟩ <;> dsimp only [State.eAt]
  · exact Store.get_foldl_put 16 id (fun _ => 4) u 4 allUnits _ (fun _ _ _ => rfl) (.inl ⟨u, List.mem_range.mpr hu, rfl⟩)
  · exact Store.get_foldl_put 0 id (fun d => classClock (s.panel.power.get 0 d)) d _ _ _ (fun b _ hb => by subst hb; rfl) (.inl ⟨d, hd, rfl⟩)

/-- The report stands in its registers. -/
theorem State.attDone_facts (h : s.reg rAttGo ≠ 0) :
    s.attDone.mem = s.mem ∧ s.attDone.reg rAttGo = 0 ∧ ∀ i < 340, s.attDone.reg (0x42000 + 8 * i) = imageField s.report (8 * i) 8 := by
  rw [State.attDone, if_neg h]
  refine ⟨?_, reg_setReg .., fun i hi => ?_⟩
  · rw [setReg_mem, foldl_setReg_eq]
  · rw [reg_setReg_ne _ _ (by unfold rAttGo; omega)]
    exact reg_foldl_setReg s 0x42000 (fun i => imageField s.report (8 * i) 8) hi

/-- After a reset companion memory alone is kept. -/
theorem State.moduleReset_byteAt (a : Nat) : s.moduleReset.byteAt a = if 2 ^ 47 ≤ a then s.byteAt a else 0 := by
  split
  · rename_i h
    exact Store.get_filter_keep 0 s.mem (fun k => 2 ^ 47 ≤ k) a (decide_eq_true h)
  · rename_i h
    exact Store.get_filter_drop 0 s.mem (fun k => 2 ^ 47 ≤ k) a (decide_eq_false h)

/-! ### What the events on service space carry out -/

theorem exec_serviceRegisterWrite {o : Nat} {r : SvcReg} (ha : s.arg.a.toNat = o) (hk : s.arg.k ≠ 4) (ho : o % 8 = 0) (hr : s.svcReg o = some r)
    (hs : s.panel.stage ≠ 15) : exec .serviceRegisterWrite s = .next (s.svcWrite o r s.arg.v.toNat) := by
  have he : s.serviceWrite o s.arg.v.toNat (if s.arg.k = 4 then 4 else 8) = s.svcWrite o r s.arg.v.toNat := by
    rw [if_neg hk, State.serviceWrite_eq ho hr hs, Nat.mod_eq_of_lt s.arg.v.isLt]
  rw [← he, ← ha]
  rfl

theorem exec_dbgDataWrite {die : Nat} (hr : s.svcReg s.arg.a.toNat = some (.dbgData die)) :
    exec .dbgDataWrite s = .next (s.dbgWrite die s.arg.v.toNat) := by
  show execDbgDataWrite s = _
  simp only [execDbgDataWrite, hr]

theorem exec_incWrite {die kind first : Nat} (ho : s.arg.a.toNat = 0x10000000 + die * 0x100000 + 0x10000 + kind * 0x2000 + 2 * first)
    (hd : die < 128) (hk : kind < 6) (hf : first < s.incUnits kind) (h0 : s.arg.k = 0) :
    exec .incWrite s = .next (if s.arg.flag then s.writeIncs die kind first 1 s.arg.v.toNat else s.svcErr) := by
  show execIncWrite s = _
  rw [execIncWrite, if_pos h0, State.incWrite_eq ho hd hk hf]

theorem exec_bootFirmwareVerify {good : Bool} (h : s.arg.flag = good) :
    exec .bootFirmwareVerify s = .next (s.bootVerify good s.arg.n s.arg.img) := h ▸ rfl

end
end Sys2Proof.Machine
end

section
/-! SUPPORT. Service space: one statement settled. -/

namespace Sys2Proof.Machine

/-- Settles O48, clause by clause from the equations and facts above. Readings of the model that it rests on: what a reset keeps (log 26),
the digest and its byte order (log 36), read-only registers that discard writes uncounted (log 58), and a write of NR_DROPPED other
than 0 (log 85). -/
theorem serviceSpace : Obligations.ServiceSpace := by
  refine ⟨?writes, ?bringUp⟩
  case writes =>
    intro s n v goes
    have hv : v < 2 ^ 64 := s.arg.v.isLt
    refine ⟨?id, ?idLocked, ?err, ?dead, ?log, ?logOut, ?dropped, ?att, ?dbg, ?data, ?inc, ?clear, ?cleared, ?write, ?undefined⟩
    case id =>
      intro h
      exact goes_sameMemory rfl (if_neg (by simp [h])) rfl (State.reg_setReg ..)
    case idLocked =>
      intro h
      exact goes_sameMemory rfl (if_pos h) rfl rfl
    case err => exact goes_sameMemory rfl rfl rfl (State.reg_setReg ..)
    case dead => exact goes_sameMemory rfl rfl (State.declareDead_mem ..) fun home => State.isDead_declareDead ..
    case log =>
      intro h h'
      exact goes_sameMemory rfl (State.writeLog_ok h h') rfl (State.reg_setReg ..)
    case logOut =>
      intro h
      exact goes_sameMemory rfl (State.writeLog_discards h) rfl rfl
    case dropped => exact goes_sameMemory rfl rfl State.clearDropped_mem State.clearDropped_reg
    case att =>
      intro h
      exact goes_sameMemory rfl (if_pos h) rfl (State.reg_setReg ..)
    case dbg =>
      intro tk h
      refine ⟨?_, ?_⟩
      · refine goes_sameMemory rfl (State.dbgHalt_eq h) rfl ⟨?_, fun k w hw hk hx hl => State.dbgHalt_eq h ▸ State.dbgHalt_warp h hw hk hx hl⟩
        exact (State.reg_setReg ..).trans (Nat.mod_eq_of_lt hv)
      · exact goes_sameMemory rfl (State.dbgResume_eq h) rfl fun k w hw hk hx => State.dbgResume_eq h ▸ State.dbgResume_warp h hw hk hx
    case data =>
      intro die d hr h h0 hd img
      exact goes_sameMemory (exec_dbgDataWrite hr) (State.dbgWrite_v h h0) rfl (State.warp?_setWarp ..)
    case inc =>
      intro die kind first ha hd hk hf h0
      have he := exec_incWrite ha hd hk hf h0
      refine ⟨fun hfw => ?_, fun hfw => ?_⟩
      · exact goes_sameMemory he (if_pos hfw) rfl State.writeIncs_one
      · exact goes_sameMemory he (if_neg (by simp [hfw])) rfl ⟨rfl, State.svcErr_reg s⟩
    case clear =>
      intro hn h1 h2 hc
      exact goes_sameMemory rfl (State.lclrStart_eq hn h1 h2 hc) rfl ⟨by simp [State.setReg, n, v], State.reg_setReg ..⟩
    case cleared =>
      intro c hn hc hq
      refine goes_sameMemory rfl ((if_neg (by simpa using hn)).trans (State.lclrDone_eq hc hq)) rfl ⟨fun x hx => ?_, State.reg_setReg .., fun r hr hh hs hlo hhi => ?_⟩
      · simpa using List.of_mem_filter hx
      · exact Clear.hits_cleared hr hh hs hlo hhi
    case write =>
      intro o r ha hk ho hr hst
      have he := exec_serviceRegisterWrite ha hk ho hr hst
      refine ⟨fun asid hx => ?_, fun k hx => ?_, fun hx => ?_, fun hx => ?_, fun hx => ?_, fun hx => ?_⟩
      · subst hx; exact goes_sameMemory he rfl rfl (Store.get_put_eq ..)
      · subst hx; exact goes_sameMemory he rfl rfl (State.reg_setReg ..)
      · rcases hx with rfl | rfl | ⟨k, rfl | rfl⟩ <;> exact goes_sameMemory he rfl rfl (State.reg_setReg ..)
      · rcases hx with rfl | rfl | rfl <;> exact goes_sameMemory he rfl rfl (State.reg_setReg ..)
      · subst hx; exact goes_sameMemory he rfl rfl (State.reg_setReg ..)
      · rcases hx with rfl | rfl | rfl <;> exact goes_sameMemory he rfl rfl rfl
    case undefined =>
      intro h
      exact goes_sameMemory rfl (if_pos (by simp [h])) rfl ⟨State.svcErr_reg s, rfl⟩
  case bringUp =>
    intro s n p goes meas
    refine ⟨?good, ?bad, ?trained, ?link, ?join, ?full, ?report, ?reset⟩
    case good =>
      intro h hf
      obtain ⟨hm, hst, hw⟩ := State.bootVerify_good n s.arg.img h
      exact goes_sameMemory (exec_bootFirmwareVerify hf) rfl hm ⟨hst, hw⟩
    case bad =>
      intro h hf
      exact goes_sameMemory (exec_bootFirmwareVerify hf) (State.bootVerify_bad h) rfl rfl
    case trained =>
      intro h ho hn
      exact goes_sameMemory rfl (State.sitesTrained_eq h ho hn) rfl ⟨rfl, rfl⟩
    case link =>
      intro h
      obtain ⟨hm, hp⟩ := State.kelviaUp_facts h
      exact goes_sameMemory rfl rfl hm hp
    case join =>
      intro hst h15 hn hj hr ho hd hs
      refine goes_sameMemory rfl (State.dieJoin_eq hst h15 hn hj hd hs) rfl ⟨rfl, ?_, fun hred => ?_⟩
      · simpa [Panel.inService, n, p] using ⟨hr, ho⟩
      · exact (congrArg (Store.get 1700 · n) (if_pos hred)).trans (Store.get_put_eq ..)
    case full =>
      intro h hw
      obtain ⟨hm, hp⟩ := State.fullService_facts h hw
      exact goes_sameMemory rfl rfl hm hp
    case report =>
      intro h
      obtain ⟨hm, hg, hr⟩ := State.attDone_facts h
      exact goes_sameMemory rfl rfl hm ⟨hg, hr⟩
    case reset => exact ⟨s.moduleReset, rfl, rfl, s.moduleReset_byteAt⟩

end Sys2Proof.Machine
end

section
/-! SUPPORT. Messages that arrive, the stores of notices, and the reads of page walkers. -/

namespace Sys2Proof.Machine

section
variable {s : State}

/-! ### A message that arrives (R21) -/

/-- The step takes a message that arrives off the mesh, where its type is one that the step takes. -/
theorem Arrives.deliver {m : Msg} {ok : MType → Bool} (h : Arrives s m) (hok : ok m.ty = true) :
    s.deliver s.arg.n ok = some (m, { s with net := s.net.filter fun o => o.id ≠ s.arg.n }) := by
  simp [State.deliver, h.found, hok, h.first, h.up]

/-! ### Notices (R482) -/

/-- A request of a unit keeps the address that it is sent with. -/
theorem State.sendAs_net {agent die core : Nat} {u : User} {m o : Msg} (h : o ∈ (s.sendAs agent die core u m).net) : o ∈ s.net ∨ o.addr = m.addr :=
  (List.mem_append.mp h).imp_right fun h => by rw [List.mem_singleton.mp h]

/-- A notice leaves as a store, which names a line and not a first byte (R84). -/
theorem State.sendNotice_net {id : Nat} {o : Msg} (h : o ∈ (s.sendNotice id).net) : o ∈ s.net ∨ ∃ line, o.addr = lineAddr line := by
  unfold State.sendNotice at h
  split at h
  · exact .inl h
  · split at h
    · exact .inl h
    · exact (sendAs_net h).imp_right fun ha => ⟨_, ha⟩

theorem State.notice_net {type cause source agent addr detail : Nat} {o : Msg} (h : o ∈ (s.notice type cause source agent addr detail).net) :
    o ∈ s.net ∨ ∃ line, o.addr = lineAddr line := by
  unfold State.notice at h
  split at h
  · exact .inl h
  · exact (sendNotice_net h :)

/-- A LostNotice at the companion's end of the Kelvia Link makes a notice: what is on the mesh afterwards was there before, or goes to a
whole line. -/
theorem lostNotice_net {m o : Msg} {t : State} (h : Arrives s m) (ht : m.ty = .lostNotice) (hd : m.dst = 257 ∨ m.dst = 261)
    (hx : exec .lostNotice s = .next t) (ho : o ∈ t.net) : (o ∈ s.net ∧ o.id ≠ s.arg.n) ∨ ∃ line, o.addr = lineAddr line := by
  replace hx : execLostNotice s = .next t := hx
  rw [execLostNotice, h.deliver (by simp [ht])] at hx
  simp only [State.lostNoticed, if_pos (show (m.dst = 257 || m.dst = 261) = true by simpa using hd)] at hx
  rw [← Host.Outcome.next.inj hx] at ho
  exact (State.notice_net ho).imp (fun hOld => by simpa using hOld) id

/-! ### Walks (R51, R58) -/

/-- A die's number has eight bits in AGENT, and what is above them is added to the KIND. -/
theorem agentKind_walkerAgent {die n : Nat} (hd : die ≠ bn1) (hn : n < 2 ^ 20) : agentKind (walkerAgent die n) = 4 + die / 2 ^ 8 := by
  rw [walkerAgent, if_neg hd, agentKind, agentId]
  omega

theorem State.freeWalker_lt (s : State) (die : Nat) : s.freeWalker die < 64 := by
  unfold State.freeWalker
  cases hf : (List.range 64).find? fun n => !(s.walks.any fun w => w.die = die && w.unit = n + 1) with
  | none => decide
  | some n => exact List.mem_range.mp (List.mem_of_find?_eq_some hf)

/-- A walk that no walker carries out yet sends its read as one of its unit's walkers. -/
theorem State.walkRead_net {w : Walk} {line : Nat} (ht : w.tag = 0) (hu : w.unit = 0) :
    ∃ m n, n < 64 ∧ (s.walkRead w line).net = s.net ++ [m] ∧ m.agent = walkerAgent w.die n := by
  rw [State.walkRead, if_neg (by simp [ht])]
  exact ⟨_, s.freeWalker w.die, s.freeWalker_lt _, rfl, by simp [hu]⟩

/-- A walk before a line that it has not read asks for it. -/
theorem State.endWalk_read {s' : State} {w : Walk} {id line : Nat} (hf : s.walks.find? (·.id = id) = some w) (hw : s.walkerFree w = true)
    (hd : s.dieDown w.die = false) (ht : w.tag = 0) (hp : s.walkPage w = (s', .read line)) : s.endWalk id = s'.walkRead w line := by
  simp [State.endWalk, State.walkGo, hf, hw, hd, ht, hp]

end
end Sys2Proof.Machine
end

section
/-! SUPPORT. Messages and translation: two statements refuted. -/

namespace Sys2Proof.Machine

/-- A LostNotice that has reached the Kelvia Link, for the companion. -/
def lostLine : Msg := { id := 1, ty := .lostNotice, src := 128, dst := 257, op := 256 }

/-- It arrives, and the notice ring has room from its slot 1 on. -/
def lostAtSlotOne : State := { State.reset with net := [lostLine], arg := { n := 1 }, nextId := 2, service := [(rNrLog, 6), (rNrTail, 1)] }

theorem lostLine_arrives : Arrives lostAtSlotOne lostLine := ⟨rfl, rfl, rfl⟩

/-- Refutes O39, in its clause on LostNotices: it has the store of a notice carry the address of the notice's slot of 32 bytes, but a StoreReq
is line-aligned (R84) and names the bytes by its MASK, so that the notice of slot 1 leaves as a store to the line of slot 0. -/
theorem not_otherMessages : ¬ Obligations.OtherMessages := by
  unfold Obligations.OtherMessages
  intro h
  obtain ⟨-, hNotice, -⟩ := h lostAtSlotOne lostLine lostLine_arrives
  obtain ⟨t, ht, -, n, -, -, -, -, -, hStore⟩ := hNotice rfl (.inl rfl) (by decide)
  obtain ⟨-, o, ho, -, -, hSlot⟩ := hStore (by decide) (by decide)
  have hReg : lostAtSlotOne.reg rNrBase + 32 * (lostAtSlotOne.reg rNrTail % 2 ^ lostAtSlotOne.reg rNrLog) = 32 := by decide
  have hOnly : ∀ o ∈ lostAtSlotOne.net, o.id = lostAtSlotOne.arg.n := by decide
  rcases lostNotice_net lostLine_arrives rfl (.inl rfl) ht ho with ⟨hOld, hNew⟩ | ⟨line, hLine⟩
  · exact hNew (hOnly o hOld)
  · rw [hReg, hLine, lineAddr] at hSlot
    omega

/-- A walk that starts at a root table, for a die numbered 256. -/
def farWalk : Walk := { id := 1, die := 256, asid := 0, va := 0, kinds := [kLoad], once := false, unit := 0, rd := [], tag := 0 }

def farWalking : State := { State.reset with walks := [farWalk], roots := [(0, 0x20000)], arg := { n := 1 }, nextId := 2 }

/-- Refutes O42, in its clause on the read of a walk: it has every unit but BN1's ask as KIND 4, and says nothing of the unit's number.
AGENT gives the die eight bits below the KIND (R58), so that a walk numbered for die 256, which no module has, asks as KIND 5. For the dies
that exist `agentKind_walkerAgent` gives the KIND of the statement. -/
theorem not_translationGoesOn : ¬ Obligations.TranslationGoesOn := by
  unfold Obligations.TranslationGoesOn
  intro h
  obtain ⟨hWalk, -⟩ := h farWalking
  obtain ⟨hRead, -⟩ := hWalk farWalk (by decide) (by decide) (by decide) rfl
  have hPage : farWalking.walkPage farWalk = (farWalking, .read 1024) := by rfl
  obtain ⟨t, ht, -, m, hm, -, -, -, hKind, -⟩ := hRead farWalking 1024 hPage
  have hEnd : farWalking.endWalk 1 = farWalking.walkRead farWalk 1024 := State.endWalk_read (by decide) (by decide) (by decide) rfl hPage
  have ht' : farWalking.endWalk 1 = t := Host.Outcome.next.inj ht
  obtain ⟨m', n, hn, hNet, hAgent⟩ := State.walkRead_net (s := farWalking) (w := farWalk) (line := 1024) rfl rfl
  rw [← ht', hEnd, hNet] at hm
  obtain rfl : m = m' := List.mem_singleton.mp hm
  rw [hAgent, agentKind_walkerAgent (by decide) (by omega)] at hKind
  exact absurd hKind (by decide)

end Sys2Proof.Machine
end

section
/-! SUPPORT. Warps that are looked up after an update, and an instruction that executes: what the frame hands it. -/

namespace Sys2Proof.Machine

/-! ### Associations -/

/-- A change under a key is read there. -/
theorem Assoc.find_modify {κ α : Type} [DecidableEq κ] (m : Assoc κ α) (k j : κ) (f : α → α) :
    (m.modify k f).find j = (m.find j).map fun v => if j = k then f v else v := by
  rw [Assoc.modify, Assoc.find_map_of_fst _ _ fun p => by split <;> rfl]
  congr 1
  funext v
  split <;> rfl

/-- After a write the key stands once, with what was written. -/
theorem Assoc.mem_put {κ α : Type} [DecidableEq κ] {m : Assoc κ α} {k : κ} {v : α} {p : κ × α} :
    p ∈ m.put k v ↔ p = (k, v) ∨ p ∈ m ∧ p.1 ≠ k := by
  induction m with
  | nil => simp [Assoc.put]
  | cons q r ih =>
    obtain ⟨j, w⟩ := q
    by_cases hj : k = j
    · subst hj
      have hq : p = (k, w) → p.1 = k := fun h => h ▸ rfl
      simp only [Assoc.put, if_true, List.mem_cons, List.mem_filter, ne_eq, decide_eq_true_eq]
      tauto
    · have hq : p = (j, w) → p.1 ≠ k := fun h => h ▸ Ne.symm hj
      simp only [Assoc.put, hj, if_false, List.mem_cons, ih]
      tauto

/-- A filter that keeps an entry keeps it under its key. -/
theorem Assoc.find_filter_of {κ α : Type} [DecidableEq κ] {m : Assoc κ α} {k : κ} {v : α} {p : κ × α → Bool} (h : m.find k = some v)
    (hp : p (k, v) = true) : Assoc.find (m.filter p) k = some v := by
  induction m with
  | nil => cases h
  | cons q r ih =>
    obtain ⟨j, w⟩ := q
    by_cases hj : k = j
    · subst hj
      obtain rfl : w = v := by simpa [Assoc.find] using h
      simp [hp, Assoc.find]
    · have hr := ih (by simpa [Assoc.find, hj] using h)
      by_cases hq : p (j, w) = true
      · simpa [hq, Assoc.find, hj] using hr
      · simpa [hq] using hr

/-! ### Warps -/

theorem State.warp?_modWarp (s : State) (k j : WarpKey) (f : Warp → Warp) :
    (s.modWarp k f).warp? j = (s.warp? j).map fun w => if j = k then f w else w := Assoc.find_modify ..

/-- The warp that is changed, as it is read afterwards. -/
theorem State.warp?_modWarp_self {s : State} {k : WarpKey} {w : Warp} (h : s.warp? k = some w) (f : Warp → Warp) :
    (s.modWarp k f).warp? k = some (f w) := by
  rw [State.warp?_modWarp, h, Option.map_some, if_pos rfl]

/-- A warp that waits has left the active set. -/
theorem State.warp?_stall {s : State} {k : WarpKey} {w : Warp} (h : s.warp? k = some w) (wt : Wait) :
    (s.stall k wt).warp? k = some { w with wait := wt, active := false } := State.warp?_modWarp_self h _

/-! ### An instruction that executes -/

section
variable {i : Instr} {c : Cx} {len : Nat}

/-- Its warp stands in the state. -/
theorem Executes.warp (h : Executes i c len) : c.s.warp? c.k = some c.w := (State.running_warp h.able.running).2

/-- The frame hands the instruction what it executes on. -/
theorem Executes.frame_eq (h : Executes i c len) {op : Op} (ho : c.op = op) (body : Cx → Res) : frame op c.x c.s body = body c := by
  subst ho
  rw [frame_go h.able, cx, ← h.regs, ← h.mask]

/-- With no thread taking part nothing is written, and no tag changes. -/
theorem Cx.done_idle (c : Cx) (len : Nat) (h : c.m = 0) : c.done len c.w.r = .next (c.s.setWarp c.k (c.with (c.past len))) := by
  rw [Cx.done_eq, Regs.written, Regs.tagged, if_pos h]
  rfl

end

end Sys2Proof.Machine
end

section
/-! SUPPORT. BARSYNC: who has arrived at a barrier, and what an arrival leaves. -/

namespace Sys2Proof.Machine

/-- Every other member of warp k's barrier has arrived or ended, and every team that it covers has been placed (R380). -/
def State.OthersArrived (s : State) (k : WarpKey) (e : Nat) : Prop :=
  (∀ p ∈ s.warps, p.1 ≠ k → s.barMember k e p = true → p.2.r.live = 0 ∨ p.2.atBarrier e = true) ∧ (e = 2 → s.barPlaced k = true)

/-- The warp waits at the barrier as arrived. -/
def Warp.arrive (w : Warp) (e len : Nat) : Warp := { w with wait := .barsync e len, active := false }

section
variable {s : State} {k : WarpKey} {w : Warp} {e len : Nat}

@[simp] theorem Warp.atBarrier_arrive : (w.arrive e len).atBarrier e = true := by simp [Warp.atBarrier, Warp.arrive]

@[simp] theorem State.barMember_setWarp (v : Warp) (p : WarpKey × Warp) : (s.setWarp k v).barMember k e p = s.barMember k e p := rfl

@[simp] theorem State.barPlaced_setWarp (v : Warp) : (s.setWarp k v).barPlaced k = s.barPlaced k := rfl

/-- Once a warp has arrived the barrier is complete where the others have arrived too. -/
theorem State.othersArrived_iff :
    s.OthersArrived k e ↔
      ((s.setWarp k (w.arrive e len)).warps.all fun p => !s.barMember k e p || p.2.r.live = 0 || p.2.atBarrier e) = true ∧
        (e = 2 → s.barPlaced k = true) := by
  refine and_congr_left fun _ => ?_
  simp only [List.all_eq_true, State.setWarp, Assoc.mem_put, Bool.or_eq_true, Bool.not_eq_true', decide_eq_true_eq]
  constructor
  · rintro h p (rfl | ⟨hp, hk⟩)
    · exact .inr Warp.atBarrier_arrive
    · have := h p hp hk
      cases hm : s.barMember k e p <;> simp_all
  · intro h p hp hk hm
    simpa [hm] using h p (.inr ⟨hp, hk⟩)

/-- An arrival that is not the last changes the arriving warp alone. -/
theorem State.barTry_waits (h : ¬ s.OthersArrived k e) :
    (s.setWarp k (w.arrive e len)).barTry k e = s.setWarp k (w.arrive e len) := by
  rw [othersArrived_iff (w := w) (len := len), not_and_or, Classical.not_imp, Bool.not_eq_true, Bool.not_eq_true] at h
  refine if_pos ?_
  rcases h with h | ⟨rfl, h⟩
  · simp only [State.barMember_setWarp, h, Bool.not_false, Bool.true_or]
  · simp only [State.barPlaced_setWarp, h, Bool.not_false, Bool.and_true, decide_true, Bool.or_true]

/-- After the last arrival every member leaves. -/
theorem State.barTry_leaves (h : s.OthersArrived k e) :
    (s.setWarp k (w.arrive e len)).barTry k e =
      { s with warps := (s.setWarp k (w.arrive e len)).warps.map fun p => if s.barMember k e p then (p.1, p.2.leave) else p } := by
  rw [othersArrived_iff (w := w) (len := len)] at h
  obtain ⟨hall, hplaced⟩ := h
  refine if_neg ?_
  simp only [State.barMember_setWarp, State.barPlaced_setWarp, hall]
  simpa using hplaced

/-- Each warp after the last arrival. -/
theorem State.barTry_leaves_warp (h : s.OthersArrived k e) {j : WarpKey} {v : Warp}
    (hv : (s.setWarp k (w.arrive e len)).warp? j = some v) :
    ((s.setWarp k (w.arrive e len)).barTry k e).warp? j = some (if s.barMember k e (j, v) then v.leave else v) := by
  have hv' : Assoc.find (s.setWarp k (w.arrive e len)).warps j = some v := hv
  rw [barTry_leaves h, State.warp?, Assoc.find_map_of_fst _ _ fun p => by split <;> rfl, hv', Option.map_some]
  split <;> rfl

/-- A warp of an ordinary launch is a member of a barrier that covers its team. -/
theorem State.barMember_self (hs : w.sprout = Option.none) (hsh : w.sheller = false) (ht : k.team ∈ s.barTeams k e) :
    s.barMember k e (k, w) = true := by
  simp [State.barMember, hs, hsh, ht]

end

/-! ### The instruction -/

/-- Both forms of BARSYNC carry out one meaning. -/
theorem exec_barsync_of_form {i : Instr} {x : Ext} {len : Nat} (s : State) (h : instrForm i = some (.barsync, x, len)) :
    exec i s = barsync .barsync x len s := by
  cases i <;> cases h <;> rfl

section
variable {i : Instr} {c : Cx} {len : Nat}

/-- The scope that a barrier has: a gang of one team is that team (R380). -/
def Cx.barScope (c : Cx) : Nat := if c.x.m 0 2 = 1 ∧ (c.s.gangOf c.k.teamKey = 1 ∨ c.w.sheller = true) then 0 else c.x.m 0 2

/-- The scope `.die` where there is none: outside a cooperative launch, and in a Sheller warp (R380). -/
def Cx.BarClosed (c : Cx) : Prop := c.x.m 0 2 = 2 ∧ (c.w.sheller = true ∨ (c.s.grid? c.k.grid).any (fun g : Grid => g.coop) = false)

/-- The fence that comes before an arrival has been done (R102). -/
def Cx.BarFenced (c : Cx) : Prop := c.w.settled = true ∧ c.w.acquiring = false ∧ c.s.fenceHolds c.w c.barScope = true

theorem Cx.barClosed_iff : c.BarClosed ↔
    (decide (c.x.m 0 2 = 2) && (!((c.s.grid? c.k.grid).any fun g : Grid => g.coop) || c.w.sheller)) = true := by
  simp only [Cx.BarClosed, Bool.and_eq_true, Bool.or_eq_true, Bool.not_eq_true', decide_eq_true_eq]
  tauto

theorem Cx.barFenced_iff : c.BarFenced ↔ (c.w.settled && !c.w.acquiring && c.s.fenceHolds c.w c.barScope) = true := by
  simp [Cx.BarFenced, and_assoc]

variable (he : Executes i c len) (ho : c.op = .barsync)
include he ho

/-- In a sprout BARSYNC is a fault, where a thread takes part. -/
theorem barsync_sprout (hm : c.m ≠ 0) (hs : c.w.sprout.isSome = true) : Traps i c cIllegal 0 0 wholeWarp 0 := by
  rw [Traps, exec_barsync_of_form c.s (ho ▸ he.form), barsync, noSprout, he.frame_eq ho, if_pos (by simpa [hs] using hm)]
  rfl

/-- With no thread taking part it does nothing. -/
theorem barsync_idle (hm : c.m = 0) : Becomes i c (c.with (c.past len)) := by
  rw [Becomes, exec_barsync_of_form c.s (ho ▸ he.form), barsync, noSprout, he.frame_eq ho, if_neg (by simp [hm]), if_pos hm]
  exact c.done_idle len hm

/-- The scope `.die` needs a cooperative launch. -/
theorem barsync_closed (hm : c.m ≠ 0) (hs : c.w.sprout = Option.none) (hc : c.BarClosed) : Traps i c cIllegal 0 0 wholeWarp 0 := by
  rw [Traps, exec_barsync_of_form c.s (ho ▸ he.form), barsync, noSprout, he.frame_eq ho, if_neg (by simp [hs]), if_neg hm,
    if_pos (Cx.barClosed_iff.mp hc)]
  rfl

/-- Some of the live threads alone do not meet a barrier. -/
theorem barsync_divided (hm : c.m ≠ 0) (hs : c.w.sprout = Option.none) (hc : ¬ c.BarClosed) (hl : c.m ≠ c.w.r.live) :
    Traps i c cReconv 0 0 wholeWarp 0 := by
  rw [Traps, exec_barsync_of_form c.s (ho ▸ he.form), barsync, noSprout, he.frame_eq ho, if_neg (by simp [hs]), if_neg hm,
    if_neg (mt Cx.barClosed_iff.mpr hc), if_pos hl]
  rfl

/-- A whole warp arrives once its fence has been done; a Sheller warp, which is its own team, goes on at once. -/
theorem exec_barsync_whole (hm : c.m ≠ 0) (hs : c.w.sprout = Option.none) (hc : ¬ c.BarClosed) (hl : c.m = c.w.r.live)
    (hw : ∀ sc n, c.w.wait ≠ .barsync sc n) :
    exec i c.s = if !(c.w.settled && !c.w.acquiring && c.s.fenceHolds c.w c.barScope) then .next (c.s.stall c.k (.fence c.barScope))
      else if c.w.sheller then .next (c.s.setWarp c.k { c.w with r := c.past len, wait := .none })
      else .next ((c.s.setWarp c.k (c.w.arrive c.barScope len)).barTry c.k c.barScope) := by
  have hsc : (if c.x.m 0 2 = 1 && (c.s.gangOf c.k.teamKey = 1 || c.w.sheller) then 0 else c.x.m 0 2) = c.barScope := by
    simp [Cx.barScope]
  rw [exec_barsync_of_form c.s (ho ▸ he.form), barsync, noSprout, he.frame_eq ho, if_neg (by simp [hs]), if_neg hm,
    if_neg (mt Cx.barClosed_iff.mpr hc), if_neg (not_not.mpr hl)]
  dsimp only
  rw [hsc]
  cases hwt : c.w.wait with
  | barsync sc n => exact absurd hwt (hw sc n)
  | _ => rfl

variable (hm : c.m ≠ 0) (hs : c.w.sprout = Option.none) (hc : ¬ c.BarClosed) (hl : c.m = c.w.r.live) (hw : ∀ sc n, c.w.wait ≠ .barsync sc n)
include hm hs hc hl hw

/-- Until the fence has been done the warp waits for it. -/
theorem barsync_stalls (hf : ¬ c.BarFenced) : exec i c.s = .next (c.s.stall c.k (.fence c.barScope)) := by
  rw [exec_barsync_whole he ho hm hs hc hl hw, Bool.eq_false_of_not_eq_true (mt Cx.barFenced_iff.mpr hf)]
  rfl

theorem barsync_sheller (hf : c.BarFenced) (hsh : c.w.sheller = true) : Becomes i c { c.w with r := c.past len, wait := .none } := by
  rw [Becomes, exec_barsync_whole he ho hm hs hc hl hw, if_neg (by simpa using Cx.barFenced_iff.mp hf), if_pos hsh]

/-- The arrival of a warp of an ordinary launch. -/
theorem barsync_arrives (hf : c.BarFenced) (hsh : c.w.sheller = false) :
    exec i c.s = .next ((c.s.setWarp c.k (c.w.arrive c.barScope len)).barTry c.k c.barScope) := by
  rw [exec_barsync_whole he ho hm hs hc hl hw, if_neg (by simpa using Cx.barFenced_iff.mp hf), if_neg (by simp [hsh])]

theorem barsync_waits (hf : c.BarFenced) (hsh : c.w.sheller = false) (hh : ¬ c.s.OthersArrived c.k c.barScope) :
    Becomes i c (c.w.arrive c.barScope len) := by
  rw [Becomes, barsync_arrives he ho hm hs hc hl hw hf hsh, State.barTry_waits hh]

/-- With the last arrival every member goes on, this warp past its instruction. -/
theorem barsync_completes (hf : c.BarFenced) (hsh : c.w.sheller = false) (ht : c.k.team ∈ c.s.barTeams c.k c.barScope)
    (hh : c.s.OthersArrived c.k c.barScope) :
    ∃ t, exec i c.s = .next t ∧ SameMemory c.s t ∧ t.warp? c.k = some { c.w with r := c.past len, wait := .none, active := false } ∧
      ∀ k w, k ≠ c.k → c.s.warp? k = some w → t.warp? k = some (if c.s.barMember c.k c.barScope (k, w) then w.leave else w) := by
  have hself : c.s.barMember c.k c.barScope (c.k, c.w.arrive c.barScope len) = true := State.barMember_self hs hsh ht
  refine ⟨_, barsync_arrives he ho hm hs hc hl hw hf hsh, fun a => ?memory, ?self, fun k w hk hkw => ?other⟩
  case memory => rw [State.barTry_leaves hh]; rfl
  case self => rw [State.barTry_leaves_warp hh (State.warp?_setWarp ..), if_pos hself]; rfl
  case other => exact State.barTry_leaves_warp hh ((State.warp?_setWarp_ne _ _ _ _ hk).trans hkw)

end

/-- Settles O18, case by case: what stops the instruction, the fence before the arrival, and the arrival. -/
theorem barrierSynchronises : Obligations.BarrierSynchronises := by
  intro i c len he ho sc closed
  refine ⟨barsync_idle he ho, barsync_sprout he ho, barsync_closed he ho, fun hm hs hc => ⟨barsync_divided he ho hm hs hc, fun hl hw => ?_⟩⟩
  exact ⟨barsync_stalls he ho hm hs hc hl hw, barsync_sheller he ho hm hs hc hl hw, fun hf hsh ht =>
    ⟨barsync_waits he ho hm hs hc hl hw hf hsh, barsync_completes he ho hm hs hc hl hw hf hsh ht⟩⟩

end Sys2Proof.Machine
end

section
/-! SUPPORT. FENCE, PREF and CCTL: translations that leave memory and warps alone, and requests for lines. -/

namespace Sys2Proof.Machine

/-! ### What translating changes (R50 to R53, R358) -/

/-- Translating an access changes the translation caches, walks, fault records and counters alone. -/
def State.Translated (s t : State) : Prop :=
  ∃ tl ws fs sv i, t = { s with tlbs := tl, walks := ws, faults := fs, service := sv, nextId := i }

section
variable {s t u : State}

theorem State.Translated.refl (s : State) : s.Translated s := ⟨_, _, _, _, _, rfl⟩

theorem State.Translated.trans (h : s.Translated t) (h' : t.Translated u) : s.Translated u := by
  obtain ⟨_, _, _, _, _, rfl⟩ := h
  obtain ⟨tl, ws, fs, sv, i, rfl⟩ := h'
  exact ⟨tl, ws, fs, sv, i, rfl⟩

theorem State.Translated.sameMemory (h : s.Translated t) : SameMemory s t := by
  obtain ⟨_, _, _, _, _, rfl⟩ := h
  exact fun _ => rfl

theorem State.Translated.warp? (h : s.Translated t) (k : WarpKey) : t.warp? k = s.warp? k := by
  obtain ⟨_, _, _, _, _, rfl⟩ := h
  rfl

theorem State.tlbPut_translated (s : State) (e : Tlb) : s.Translated (s.tlbPut e) := ⟨_, _, _, _, _, rfl⟩

theorem State.spent_translated (s : State) (id : Nat) : s.Translated (s.spent id) := ⟨_, _, _, _, _, rfl⟩

theorem State.countDie_translated (s : State) (die code n : Nat) : s.Translated (s.countDie die code n) := by
  obtain ⟨sv, h⟩ := s.countDie_eq die code n
  exact ⟨_, _, _, sv, _, h⟩

theorem State.startWalk_translated (s : State) (die asid kind va : Nat) : s.Translated (s.startWalk die asid kind va).1 := by
  unfold State.startWalk
  split
  · split
    · exact .refl s
    · exact ⟨_, _, _, _, _, rfl⟩
  · exact ((s.countDie_translated die 1 1).trans (State.countDie_translated _ die 2 1)).trans ⟨_, _, _, _, _, rfl⟩

theorem State.translate_translated (s : State) (die core asid kind va : Nat) : s.Translated (s.translate die core asid kind va).1 := by
  unfold State.translate
  split
  · exact .refl s
  · dsimp only
    split
    · exact .refl s
    · split
      · exact s.tlbPut_translated _
      · split
        · exact (s.tlbPut_translated _).trans (State.tlbPut_translated _ _)
        · exact s.startWalk_translated ..

theorem Cx.quietPas_translated (c : Cx) (ls : List Nat) (s : State) (ps : List (Nat × Nat)) (gone : List Nat) :
    s.Translated (c.quietPas s ls ps gone).1 := by
  induction ls generalizing s ps gone with
  | nil => exact .refl s
  | cons l ls ih =>
    unfold Cx.quietPas
    dsimp only
    split
    · exact ih ..
    · have ht := s.translate_translated c.w.die c.w.core (c.s.asidOf c.k) kQuiet (c.addr 0 128 l).toNat
      split <;> rename_i hx <;> rw [hx] at ht
      · exact ht.trans (ih ..)
      · exact ht
      · exact ht.trans (ih ..)
      · exact ht.trans (ih ..)

theorem State.foldl_spent_translated (gone : List Nat) (s : State) : s.Translated (gone.foldl (fun s fl => s.spent fl) s) :=
  List.foldlRecOn (motive := s.Translated) _ _ (.refl s) fun t ht fl _ => ht.trans (t.spent_translated fl)

end

/-! ### The lines of a prefetch or a cache control (R358, R359) -/

/-- One address taken into the lines. -/
def addLine (ls : List (Nat × Nat)) (p : Nat × Nat) : List (Nat × Nat) :=
  if ls.any fun q => q.1 = p.1 then ls.map fun q => if q.1 = p.1 then (q.1, max q.2 p.2) else q else ls ++ [p]

/-- Each line of the addresses once, with the largest of its floors. -/
def mergeLines (ps : List (Nat × Nat)) : List (Nat × Nat) := ps.foldl addLine []

theorem length_addLine_le (ls : List (Nat × Nat)) (p : Nat × Nat) : (addLine ls p).length ≤ ls.length + 1 := by
  unfold addLine
  split <;> simp

/-- The line of an address stands among them with its floor or a larger one. -/
theorem mem_addLine_self (ls : List (Nat × Nat)) (p : Nat × Nat) : ∃ f, p.2 ≤ f ∧ (p.1, f) ∈ addLine ls p := by
  unfold addLine
  split
  · rename_i h
    obtain ⟨q, hq, hp⟩ := List.any_eq_true.mp h
    have hp : q.1 = p.1 := of_decide_eq_true hp
    exact ⟨max q.2 p.2, le_max_right .., List.mem_map.mpr ⟨q, hq, by rw [if_pos hp, hp]⟩⟩
  · exact ⟨p.2, le_rfl, by simp⟩

theorem mem_addLine_of_mem {ls : List (Nat × Nat)} {n f : Nat} (p : Nat × Nat) (h : (n, f) ∈ ls) : ∃ g, f ≤ g ∧ (n, g) ∈ addLine ls p := by
  unfold addLine
  split
  · by_cases hp : n = p.1
    · exact ⟨max f p.2, le_max_left .., List.mem_map.mpr ⟨(n, f), h, if_pos hp⟩⟩
    · exact ⟨f, le_rfl, List.mem_map.mpr ⟨(n, f), h, if_neg hp⟩⟩
  · exact ⟨f, le_rfl, List.mem_append_left _ h⟩

theorem foldl_addLine_length (ps ls : List (Nat × Nat)) : (ps.foldl addLine ls).length ≤ ls.length + ps.length := by
  induction ps generalizing ls with
  | nil => simp
  | cons p ps ih =>
    have := length_addLine_le ls p
    have := ih (addLine ls p)
    simp only [List.foldl_cons, List.length_cons]
    omega

theorem foldl_addLine_mem {ps ls : List (Nat × Nat)} {n f : Nat} (h : (n, f) ∈ ls ∨ (n, f) ∈ ps) : ∃ g, f ≤ g ∧ (n, g) ∈ ps.foldl addLine ls := by
  induction ps generalizing ls f with
  | nil => exact ⟨f, le_rfl, by simpa using h⟩
  | cons p ps ih =>
    have hstep : (∃ g, f ≤ g ∧ (n, g) ∈ addLine ls p) ∨ (n, f) ∈ ps := by
      rcases h with h | h
      · exact .inl (mem_addLine_of_mem p h)
      · rcases List.mem_cons.mp h with rfl | h
        · exact .inl (mem_addLine_self ls (n, f))
        · exact .inr h
    rcases hstep with ⟨g, hg, h⟩ | h
    · obtain ⟨g', hg', h'⟩ := ih (.inl h)
      exact ⟨g', hg.trans hg', h'⟩
    · exact ih (.inr h)

theorem length_mergeLines_le (ps : List (Nat × Nat)) : (mergeLines ps).length ≤ ps.length :=
  (foldl_addLine_length ps []).trans_eq (Nat.zero_add _)

theorem mem_mergeLines {ps : List (Nat × Nat)} {q : Nat × Nat} (h : q ∈ ps) : ∃ f, q.2 ≤ f ∧ (q.1, f) ∈ mergeLines ps :=
  foldl_addLine_mem (ls := []) (.inr h)

/-- With addresses that translate, or fail for good, the instruction goes on with their lines. -/
theorem Cx.quietLines_ok {c : Cx} {s' : State} {ps : List (Nat × Nat)} {gone : List Nat} (h : c.quietPas c.s (lanesOf c.m) [] [] = (s', .ok (ps, gone)))
    (go : State → List (Nat × Nat) → Res) : c.quietLines go = go (gone.foldl (fun s fl => s.spent fl) s') (mergeLines ps) := by
  rw [Cx.quietLines, h]
  rfl

/-! ### Requests for lines (R56, R57, R128) -/

/-- Requests of a core change its line requests, what is on the mesh and what waits for an entry alone. -/
def State.Requested (s t : State) : Prop := ∃ rq net rj i, t = { s with reqs := rq, net := net, rejected := rj, nextId := i }

/-- A request for the line is outstanding for this use. -/
def State.asks (s : State) (n : Nat) (v : User) : Prop := ∃ r ∈ s.reqs, r.line = n ∧ v ∈ r.users

section
variable {s t u : State}

theorem State.Requested.refl (s : State) : s.Requested s := ⟨_, _, _, _, rfl⟩

theorem State.Requested.trans (h : s.Requested t) (h' : t.Requested u) : s.Requested u := by
  obtain ⟨_, _, _, _, rfl⟩ := h
  obtain ⟨rq, net, rj, i, rfl⟩ := h'
  exact ⟨rq, net, rj, i, rfl⟩

theorem State.Requested.sameMemory (h : s.Requested t) : SameMemory s t := by
  obtain ⟨_, _, _, _, rfl⟩ := h
  exact fun _ => rfl

theorem State.Requested.warp? (h : s.Requested t) (k : WarpKey) : t.warp? k = s.warp? k := by
  obtain ⟨_, _, _, _, rfl⟩ := h
  rfl

theorem State.Requested.l1Hit (h : s.Requested t) (die core line floor : Nat) : t.l1Hit die core line floor = s.l1Hit die core line floor := by
  obtain ⟨_, _, _, _, rfl⟩ := h
  rfl

/-- Fewer requests need no more room. -/
theorem State.canSend_mono {k : WarpKey} {w : Warp} {m n : Nat} (h : n ≤ m) (hs : s.canSend k w m = true) : s.canSend k w n = true := by
  have hr : s.roomFor w.die w.core m = true → s.roomFor w.die w.core n = true := by
    simp only [State.roomFor, Bool.or_eq_true, decide_eq_true_eq]
    exact Or.imp_right h.trans
  simp only [State.canSend, Bool.or_eq_true, Bool.and_eq_true, decide_eq_true_eq] at hs ⊢
  rcases hs with rfl | ⟨hm, hh⟩
  · exact .inl (Nat.le_zero.mp h)
  · exact .inr ⟨hr hm, hh⟩

variable {die core : Nat}

theorem State.request_requested (m : Msg) (q : Req) : s.Requested (s.request die core m q) := by
  unfold State.request
  dsimp only
  split <;> exact ⟨_, _, _, _, rfl⟩

theorem State.request_reqs (m : Msg) (q : Req) : (s.request die core m q).reqs =
    s.reqs ++ [{ q with tag := s.nextId, die := die, core := core, kind := 0, read := m.ty = MType.readReq }] := by
  unfold State.request
  dsimp only
  split <;> rfl

/-- The request leaves as a message, or waits for an entry as one. -/
theorem State.request_sent (m : Msg) (q : Req) : ∃ o, (s.request die core m q).sent o ∧ o.ty = m.ty ∧ o.addr = m.addr := by
  unfold State.request
  dsimp only
  split
  · exact ⟨_, .inr (List.mem_append_right _ (List.mem_singleton_self _)), rfl, rfl⟩
  · exact ⟨_, .inl (List.mem_append_right _ (List.mem_singleton_self _)), rfl, rfl⟩

/-- What has been sent stays sent. -/
theorem State.request_keeps_sent {o : Msg} (m : Msg) (q : Req) (h : s.sent o) : (s.request die core m q).sent o := by
  unfold State.request
  dsimp only
  split
  · exact h.imp_right (List.mem_append_left _)
  · exact h.imp_left (List.mem_append_left _)

theorem State.askLine_requested (line floor : Nat) (once : Bool) (v : User) : s.Requested (s.askLine die core line floor once v) := by
  unfold State.askLine
  split
  · exact ⟨_, _, _, _, rfl⟩
  · exact s.request_requested ..

/-- A request joins or makes the outstanding one for its line. -/
theorem State.asks_askLine (line floor : Nat) (once : Bool) (v : User) : (s.askLine die core line floor once v).asks line v := by
  unfold State.askLine
  split
  · rename_i q hq
    have hl : q.line = line := by
      have := List.find?_some hq
      simp only [Bool.and_eq_true, decide_eq_true_eq] at this
      exact this.1.1.1.2
    refine ⟨_, List.mem_map.mpr ⟨q, List.mem_of_find?_eq_some hq, if_pos rfl⟩, hl, ?_⟩
    dsimp only
    split
    · rename_i hc; simpa using hc
    · simp
  · exact ⟨_, by rw [State.request_reqs]; exact List.mem_append_right _ (List.mem_singleton_self _), rfl, List.mem_singleton_self v⟩

/-- Other uses stay with their requests. -/
theorem State.asks.askLine {n : Nat} {v : User} (h : s.asks n v) (line floor : Nat) (once : Bool) (v' : User) :
    (s.askLine die core line floor once v').asks n v := by
  obtain ⟨r, hr, hn, hv⟩ := h
  unfold State.askLine
  split
  · refine ⟨_, List.mem_map.mpr ⟨r, hr, rfl⟩, ?_, ?_⟩ <;> split
    · exact hn
    · exact hn
    · dsimp only
      split
      · exact hv
      · exact List.mem_append_left _ hv
    · exact hv
  · exact ⟨r, by rw [State.request_reqs]; exact List.mem_append_left _ hr, hn, hv⟩

end

/-! ### Prefetches (R358) -/

/-- A line is prefetched: into the L1 unless it is there, or for one use. -/
def State.prefetch (s : State) (die core : Nat) (once : Bool) (p : Nat × Nat) : State :=
  if !once && (s.l1Hit die core p.1 p.2).isSome then s else s.askLine die core p.1 p.2 once .prefetch

section
variable {s : State} {die core : Nat} {once : Bool}

theorem State.prefetch_requested (p : Nat × Nat) : s.Requested (s.prefetch die core once p) := by
  unfold State.prefetch
  split
  · exact .refl s
  · exact s.askLine_requested ..

theorem State.asks.prefetch {n : Nat} {v : User} (h : s.asks n v) (p : Nat × Nat) : (s.prefetch die core once p).asks n v := by
  unfold State.prefetch
  split
  · exact h
  · exact h.askLine ..

/-- Afterwards the L1 holds the line, or it is asked for. -/
theorem State.prefetch_has (p : Nat × Nat) :
    (once = false ∧ ∃ L, s.l1Hit die core p.1 p.2 = some L) ∨ (s.prefetch die core once p).asks p.1 .prefetch := by
  unfold State.prefetch
  split
  · rename_i h
    simp only [Bool.and_eq_true, Bool.not_eq_true', Option.isSome_iff_exists] at h
    exact .inl h
  · exact .inr (asks_askLine ..)

theorem State.foldl_prefetch_requested (ls : List (Nat × Nat)) : s.Requested (ls.foldl (fun s p => s.prefetch die core once p) s) :=
  List.foldlRecOn (motive := s.Requested) _ _ (.refl s) fun _ ht p _ => ht.trans (prefetch_requested p)

theorem State.foldl_prefetch_keeps {n : Nat} {v : User} (ls : List (Nat × Nat)) (h : s.asks n v) : (ls.foldl (fun s p => s.prefetch die core once p) s).asks n v :=
  List.foldlRecOn (motive := fun t : State => t.asks n v) _ _ h fun _ ht p _ => ht.prefetch p

theorem State.foldl_prefetch_has {p : Nat × Nat} {ls : List (Nat × Nat)} (h : p ∈ ls) :
    (once = false ∧ ∃ L, s.l1Hit die core p.1 p.2 = some L) ∨ (ls.foldl (fun s p => s.prefetch die core once p) s).asks p.1 .prefetch := by
  induction ls generalizing s with
  | nil => cases h
  | cons q ls ih =>
    rcases List.mem_cons.mp h with rfl | h
    · exact (prefetch_has p).imp_right (foldl_prefetch_keeps ls)
    · rcases ih (s := s.prefetch die core once q) h with ⟨ho, L, hL⟩ | h
      · exact .inl ⟨ho, L, (s.prefetch_requested q).l1Hit .. ▸ hL⟩
      · exact .inr h

end

/-! ### Cache control (R359) -/

/-- Lines dropped one after another are dropped together. -/
theorem State.foldl_l1Drop_eq (s : State) (die core : Nat) (ls : List (Nat × Nat)) : ls.foldl (fun s p => s.l1Drop die core p.1) s =
    { s with l1 := s.l1.filter fun l => !(l.die = die && l.core = core && ls.any fun p => l.line = p.1) } := by
  induction ls generalizing s with
  | nil => simp
  | cons p ls ih =>
    rw [List.foldl_cons, ih]
    simp only [State.l1Drop, List.filter_filter, List.any_cons]
    congr 2
    funext l
    cases decide (l.die = die) <;> cases decide (l.core = core) <;> cases decide (l.line = p.1) <;> simp

/-- A line is to be written back for outstanding instruction `id`; its tag is kept. -/
def State.sendClean (k : WarpKey) (id die core : Nat) (p : State × List (Nat × Bool)) (q : Nat × Nat) : State × List (Nat × Bool) :=
  (p.1.request die core { id := 0, ty := .clean, src := 0, dst := 0, addr := lineAddr q.1 } (Req.of q.1 0 false [.out k id]),
    p.2 ++ [(p.1.nextId, isCompanion (lineAddr q.1))])

section
variable {k : WarpKey} {id die core : Nat} {p : State × List (Nat × Bool)}

theorem State.foldl_sendClean_requested (ls : List (Nat × Nat)) : p.1.Requested (ls.foldl (State.sendClean k id die core) p).1 :=
  List.foldlRecOn (motive := fun q : State × List (Nat × Bool) => p.1.Requested q.1) _ _ (.refl _) fun _ ht _ _ => ht.trans (request_requested ..)

theorem State.foldl_sendClean_keeps {o : Msg} (ls : List (Nat × Nat)) (h : p.1.sent o) : (ls.foldl (State.sendClean k id die core) p).1.sent o :=
  List.foldlRecOn (motive := fun q : State × List (Nat × Bool) => q.1.sent o) _ _ h fun _ ht _ _ => request_keeps_sent _ _ ht

/-- Every line's message has been sent. -/
theorem State.foldl_sendClean_sent {q : Nat × Nat} {ls : List (Nat × Nat)} (h : q ∈ ls) :
    ∃ o, (ls.foldl (State.sendClean k id die core) p).1.sent o ∧ o.ty = .clean ∧ o.addr = lineAddr q.1 := by
  induction ls generalizing p with
  | nil => cases h
  | cons q' ls ih =>
    rcases List.mem_cons.mp h with rfl | h
    · obtain ⟨o, ho, ht, ha⟩ := request_sent (s := p.1) (die := die) (core := core)
        { id := 0, ty := .clean, src := 0, dst := 0, addr := lineAddr q.1 } (Req.of q.1 0 false [.out k id])
      exact ⟨o, foldl_sendClean_keeps (p := State.sendClean k id die core p q) ls ho, ht, ha⟩
    · exact ih h

end

/-- An instruction that is outstanding and lets its warp go on. -/
theorem State.warp?_addOut {s : State} {k : WarpKey} {w : Warp} (h : s.warp? k = some w) (o : Out) (len : Nat) :
    (s.addOut k o len .none).warp? k =
      some { w with r := { w.r with pc := w.r.pc + BitVec.ofNat 64 len }, outs := w.outs ++ [o], wait := .none } :=
  State.warp?_modWarp_self (s := { s with nextId := s.nextId + 1 }) h _

end Sys2Proof.Machine
end

section
/-! SUPPORT. FENCE, PREF and CCTL: one statement settled. -/

namespace Sys2Proof.Machine

/-- A check that finds nothing has passed, and so have those after it. -/
theorem next_check {p : Prop} [Decidable p] {a : Bad} {b : Option Bad} (h : (if p then some a else b) = none) : ¬ p ∧ b = none := by
  by_cases hp : p
  · rw [if_pos hp] at h; cases h
  · exact ⟨hp, (if_neg hp).symm.trans h⟩

/-- The bits of MOD that the opcode does not allow are clear in a legal encoding (R236). -/
theorem Ext.other_of_check {op : Op} {x : Ext} (h : x.check op = none) : (sig op x).other = true := by
  rw [Ext.check] at h
  obtain ⟨-, h⟩ := next_check h
  obtain ⟨-, h⟩ := next_check h
  obtain ⟨hmod, -⟩ := next_check h
  exact (Bool.and_eq_true_iff.mp (by simpa only [Bool.not_eq_true, Bool.not_eq_false'] using hmod)).2

/-- PREF's line is kept, or read for one use (R358). -/
theorem Ext.pref_once {x : Ext} (h : x.check .pref = none) (h1 : x.m 0 2 ≠ 1) : x.m 0 2 = 0 := by
  have ho : (_ && decide (x.m 0 2 ≤ 1)) = true := Ext.other_of_check h
  have hle : x.m 0 2 ≤ 1 := of_decide_eq_true (Bool.and_eq_true_iff.mp ho).2
  omega

theorem exec_fence_of_form {i : Instr} {x : Ext} {len : Nat} (s : State) (h : instrForm i = some (.fence, x, len)) :
    exec i s = fence .fence x len s := by
  cases i <;> cases h <;> rfl

theorem exec_pref_of_form {i : Instr} {x : Ext} {len : Nat} (s : State) (h : instrForm i = some (.pref, x, len)) :
    exec i s = pref .pref x len s := by
  cases i <;> cases h <;> rfl

theorem exec_cctl_of_form {i : Instr} {x : Ext} {len : Nat} (s : State) (h : instrForm i = some (.cctl, x, len)) :
    exec i s = cctl .cctl x len s := by
  cases i <;> cases h <;> rfl

/-- What CCTL.wb leaves outstanding: its messages, by tag. -/
def Cx.cleanOut (c : Cx) (s : State) (id : Nat) (acks : List (Nat × Bool)) : Out :=
  { c.newOut s .clean .kg [] [] false false with id := id, acks := acks }

/-- The state in which the addresses have been translated, and what failed for good has ended. -/
theorem Cx.translated_quiet {c : Cx} {s' : State} {ps : List (Nat × Nat)} {gone : List Nat}
    (hq : c.quietPas c.s (lanesOf c.m) [] [] = (s', .ok (ps, gone))) : c.s.Translated (gone.foldl (fun s fl => s.spent fl) s') := by
  have h := c.quietPas_translated (lanesOf c.m) c.s [] []
  rw [hq] at h
  exact h.trans (State.foldl_spent_translated gone s')

section
variable {i : Instr} {c : Cx} {len : Nat} (he : Executes i c len)
include he

/-! ### FENCE (R97, R357) -/

section
variable (ho : c.op = .fence)
include ho

theorem fence_idle (hm : c.m = 0) : Becomes i c (c.with (c.past len)) := by
  rw [Becomes, exec_fence_of_form c.s (ho ▸ he.form), fence, he.frame_eq ho, if_pos hm]
  exact c.done_idle len hm

theorem fence_passes (hm : c.m ≠ 0) (hs : c.w.settled = true) (ha : c.w.acquiring = false) (hf : c.s.fenceHolds c.w (fenceScope (c.x.m 0 3)) = true)
    (h5 : fenceScope (c.x.m 0 3) = 5 → c.w.r.spanRef = 0) : Becomes i c { c.w with r := c.past len, wait := .none } := by
  rw [Becomes, exec_fence_of_form c.s (ho ▸ he.form), fence, he.frame_eq ho, if_neg hm, if_neg (by simp [hs, ha, hf]), if_neg (by simpa using h5)]
  rfl

theorem fence_stalls (hm : c.m ≠ 0) (hf : c.s.fenceHolds c.w (fenceScope (c.x.m 0 3)) = false) :
    ∃ t, exec i c.s = .next t ∧ t.warp? c.k = some { c.w with wait := .fence (fenceScope (c.x.m 0 3)), active := false } := by
  refine ⟨_, ?_, State.warp?_stall he.warp _⟩
  rw [exec_fence_of_form c.s (ho ▸ he.form), fence, he.frame_eq ho, if_neg hm, if_pos (by simp [hf])]

end

/-! ### PREF and CCTL (R358, R359) -/

section
variable {s' : State} {ps : List (Nat × Nat)} {gone : List Nat} (hq : c.quietPas c.s (lanesOf c.m) [] [] = (s', .ok (ps, gone)))
include hq

theorem exec_pref (ho : c.op = .pref) (ha : c.w.acquiring = false)
    (hs : (gone.foldl (fun s fl => s.spent fl) s').canSend c.k c.w ps.length = true) :
    exec i c.s = .next (((mergeLines ps).foldl (fun s p => s.prefetch c.w.die c.w.core (decide (c.x.m 0 2 = 1)) p)
      (gone.foldl (fun s fl => s.spent fl) s')).setWarp c.k (c.with (c.past len))) := by
  rw [exec_pref_of_form c.s (ho ▸ he.form), pref, he.frame_eq ho, if_neg (by simp [ha]), Cx.quietLines_ok hq,
    if_neg (by simp [State.canSend_mono (length_mergeLines_le ps) hs])]
  rfl

/-- PREF leaves each line in the L1 or asked for. -/
theorem pref_goes_on (ho : c.op = .pref) (ha : c.w.acquiring = false)
    (hs : (gone.foldl (fun s fl => s.spent fl) s').canSend c.k c.w ps.length = true) :
    ∃ t, exec i c.s = .next t ∧ SameMemory c.s t ∧ t.warp? c.k = some (c.with (c.past len)) ∧
      ∀ q ∈ ps, (∃ L fl, c.x.m 0 2 = 0 ∧ q.2 ≤ fl ∧ (gone.foldl (fun s fl => s.spent fl) s').l1Hit c.w.die c.w.core q.1 fl = some L) ∨
        ∃ r ∈ t.reqs, r.line = q.1 ∧ .prefetch ∈ r.users := by
  refine ⟨_, exec_pref he hq ho ha hs, fun a => ?memory, State.warp?_setWarp .., fun q hqm => ?lines⟩
  case memory => exact ((State.foldl_prefetch_requested _).sameMemory a).trans ((Cx.translated_quiet hq).sameMemory a)
  case lines =>
    obtain ⟨f, hf, hmem⟩ := mem_mergeLines hqm
    rcases State.foldl_prefetch_has hmem with ⟨h1, L, hL⟩ | h
    · exact .inl ⟨L, f, Ext.pref_once (ho ▸ he.able.legal) (of_decide_eq_false h1), hf, hL⟩
    · exact .inr h

/-- CCTL.l1inv of addresses drops their lines from the L1. -/
theorem cctl_drops (ho : c.op = .cctl) (hx : c.x.m 0 2 = 1) :
    ∃ t, exec i c.s = .next t ∧ SameMemory c.s t ∧ t.warp? c.k = some (c.with (c.past len)) ∧
      ∀ l ∈ t.l1, ¬ (l.die = c.w.die ∧ l.core = c.w.core ∧ ∃ q ∈ ps, q.1 = l.line) := by
  have hexec : exec i c.s = .next (((mergeLines ps).foldl (fun s p => s.l1Drop c.w.die c.w.core p.1)
      (gone.foldl (fun s fl => s.spent fl) s')).setWarp c.k (c.with (c.past len))) := by
    rw [exec_cctl_of_form c.s (ho ▸ he.form), cctl, he.frame_eq ho]
    simp only [hx]
    rw [Cx.quietLines_ok hq]
    rfl
  rw [State.foldl_l1Drop_eq] at hexec
  refine ⟨_, hexec, (Cx.translated_quiet hq).sameMemory, State.warp?_setWarp .., ?_⟩
  rintro l hl ⟨hd, hc, q, hqm, hn⟩
  obtain ⟨f, -, hmem⟩ := mem_mergeLines hqm
  have hkept := (List.mem_filter.mp hl).2
  have hany : ((mergeLines ps).any fun p => l.line = p.1) = true := List.any_eq_true.mpr ⟨_, hmem, decide_eq_true hn.symm⟩
  simp [hd, hc, hany] at hkept

/-- CCTL.wb sends a Clean for each line and is outstanding in KG. -/
theorem cctl_cleans (ho : c.op = .cctl) (hx : c.x.m 0 2 = 2) (hne : ps ≠ []) (hk : c.mayStart .kg false = true)
    (hs : (gone.foldl (fun s fl => s.spent fl) s').canSend c.k c.w ps.length = true) :
    ∃ t o, exec i c.s = .next t ∧ SameMemory c.s t ∧ t.warp? c.k = some { c.w with r := c.past len, outs := c.w.outs ++ [o], wait := .none } ∧
      o.ctr = some .kg ∧ ∀ q ∈ ps, ∃ m, t.sent m ∧ m.ty = .clean ∧ m.addr = lineAddr q.1 := by
  obtain ⟨q, hqm⟩ := List.exists_mem_of_ne_nil ps hne
  have hlines : mergeLines ps ≠ [] := by
    obtain ⟨f, -, hmem⟩ := mem_mergeLines hqm
    exact List.ne_nil_of_mem hmem
  generalize hu : gone.foldl (fun s fl => s.spent fl) s' = u at hs
  have htr : c.s.Translated u := hu ▸ Cx.translated_quiet hq
  obtain ⟨p, hp⟩ : ∃ p, p = (mergeLines ps).foldl (State.sendClean c.k u.nextId c.w.die c.w.core) ({ u with nextId := u.nextId + 1 }, []) := ⟨_, rfl⟩
  have hreq : u.Requested p.1 := hp ▸ .trans ⟨_, _, _, _, rfl⟩ (State.foldl_sendClean_requested _)
  have hexec : exec i c.s = .next (p.1.addOut c.k (c.cleanOut p.1 u.nextId p.2) len .none) := by
    rw [exec_cctl_of_form c.s (ho ▸ he.form), cctl, he.frame_eq ho]
    simp only [hx]
    rw [if_neg (by simp [hk]), Cx.quietLines_ok hq, if_neg hlines, hu, if_neg (by simp [State.canSend_mono (length_mergeLines_le ps) hs]), hp]
    rfl
  refine ⟨_, c.cleanOut p.1 u.nextId p.2, hexec, fun a => ?memory, ?warp, rfl, fun q hqm => ?sent⟩
  case memory => exact (hreq.sameMemory a).trans (htr.sameMemory a)
  case warp => exact State.warp?_addOut ((hreq.warp? c.k).trans ((htr.warp? c.k).trans he.warp)) ..
  case sent =>
    obtain ⟨f, -, hmem⟩ := mem_mergeLines hqm
    exact hp ▸ State.foldl_sendClean_sent (q := (q.1, f)) hmem

end

/-- The base form of CCTL empties the core's L1. -/
theorem cctl_empties (ho : c.op = .cctl) (hx : c.x.m 0 2 = 0) (hm : c.m ≠ 0) :
    ∃ t, exec i c.s = .next t ∧ SameMemory c.s t ∧ t.warp? c.k = some (c.with (c.past len)) ∧ ∀ l ∈ t.l1, ¬ (l.die = c.w.die ∧ l.core = c.w.core) := by
  have hexec : exec i c.s = .next (State.setWarp { c.s with l1 := c.s.l1.filter fun l => !(l.die = c.w.die && l.core = c.w.core) } c.k (c.with (c.past len))) := by
    rw [exec_cctl_of_form c.s (ho ▸ he.form), cctl, he.frame_eq ho]
    simp only [hx]
    rw [if_neg hm]
    rfl
  refine ⟨_, hexec, fun a => rfl, State.warp?_setWarp .., fun l hl hlc => ?_⟩
  simpa [hlc.1, hlc.2] using (List.mem_filter.mp hl).2

end

/-- Settles O26, instruction by instruction. -/
theorem fencesAndCacheControl : Obligations.FencesAndCacheControl := by
  intro i c len he
  refine ⟨fun ho hm => ⟨fence_passes he ho hm, fence_stalls he ho hm⟩, fun ho hm => fence_idle he ho hm, fun s' ps gone hq => ?_, cctl_empties he⟩
  exact ⟨pref_goes_on he hq, cctl_drops he hq, cctl_cleans he hq⟩

end Sys2Proof.Machine
end

section
/-! SUPPORT. What the steps of warps leave: trap entry and causes at a boundary, the active set, and the release of a recruitment. -/

namespace Sys2Proof.Machine

/-! ### Registers on entry to a handler (R459, R460, R464) -/

section
variable {r : Regs} {h : Header} {entry slot block : DWord} {t : Trap}

theorem Trap.status_tmode (t : Trap) : t.status.getLsbD 0 = true := by
  rw [Trap.status, BitVec.getLsbD_ofNat, Nat.testBit_zero]
  simp only [Nat.reduceLT, decide_true, Bool.true_and, decide_eq_true_eq]
  split_ifs <;> rfl

/-- The cause is the low byte of the cause word. -/
theorem Trap.word_cause (t : Trap) : t.word.extractLsb' 0 8 = BitVec.ofNat 8 t.cause := by
  have hlow : t.cause + t.detail % 256 * 2 ^ 8 + t.aux % 256 * 2 ^ 16 + t.lane % 256 * 2 ^ 24 =
      t.cause + 2 ^ 8 * (t.detail % 256 + t.aux % 256 * 2 ^ 8 + t.lane % 256 * 2 ^ 16) := by ring
  apply BitVec.eq_of_toNat_eq
  rw [Trap.word, BitVec.extractLsb'_toNat, BitVec.toNat_ofNat, BitVec.toNat_ofNat, Nat.shiftRight_zero,
    Nat.mod_mod_of_dvd _ (pow_dvd_pow 2 (by decide)), hlow, Nat.add_mul_mod_self_left]

theorem Regs.enter_tmode : (r.enter h entry slot block t).tmode = true := t.status_tmode
theorem Regs.enter_pc : (r.enter h entry slot block t).pc = pcOf (entry + BitVec.ofInt 64 h.trap) := rfl
theorem Regs.enter_mask : (r.enter h entry slot block t).mask = r.live := rfl
theorem Regs.enter_imask : (r.enter h entry slot block t).imask = r.mask := rfl
theorem Regs.enter_ipc : (r.enter h entry slot block t).ipc = t.lpc := rfl

end

section
variable {s : State} {k : WarpKey} {w : Warp}

/-! ### Status registers of a recruitment, streams and matrix entries that the warp does not have -/

theorem Warp.fillStatus_eq (h : ∀ o ∈ w.outs, o.kind ≠ .sprouts) (nS : Nat) (t : Option Nat) : w.fillStatus nS t = w := by
  have hn : (w.outs.filter fun o => decide (o.kind = .sprouts) && t.all fun t => o.slot ≤ t + 1) = [] :=
    List.filter_eq_nil_iff.mpr fun o ho => by simp [h o ho]
  rw [Warp.fillStatus, hn]
  rfl

theorem State.warp?_fillStatus (hw : s.warp? k = some w) (h : ∀ o ∈ w.outs, o.kind ≠ .sprouts) (t : Option Nat) :
    (s.fillStatus k t).warp? k = some w := by
  rw [State.fillStatus, warp?_modWarp_self hw, Warp.fillStatus_eq h]

/-- Filling a status register moves no warp and changes no active set. -/
theorem Warp.fillStatus_place (w : Warp) (nS : Nat) (t : Option Nat) :
    (w.fillStatus nS t).die = w.die ∧ (w.fillStatus nS t).core = w.core ∧ (w.fillStatus nS t).active = w.active :=
  List.foldlRecOn (motive := fun v : Warp => v.die = w.die ∧ v.core = w.core ∧ v.active = w.active) _ _ ⟨rfl, rfl, rfl⟩ fun _ hv _ _ => hv

theorem State.activeCount_fillStatus (s : State) (k : WarpKey) (t : Option Nat) (die core : Nat) :
    (s.fillStatus k t).activeCount die core = s.activeCount die core := by
  simp only [State.activeCount, State.fillStatus, State.modWarp, Assoc.modify, List.filter_map, List.length_map]
  congr 2
  funext p
  obtain ⟨hd, hc, ha⟩ := p.2.fillStatus_place (s.header k).nS t
  simp only [Function.comp_apply]
  split
  · simp only [hd, hc, ha]
  · rfl

theorem Warp.not_streaming (h : ∀ o ∈ w.outs, o.kind ≠ .stream) : w.streaming = false :=
  List.any_eq_false.mpr fun o ho => by simp [h o ho]

theorem State.streamGo_eq (hw : s.warp? k = some w) (h : ∀ o ∈ w.outs, o.kind ≠ .stream) : s.streamGo k = s := by
  simp [State.streamGo, hw, Warp.not_streaming h]

theorem Warp.takeStops_eq (h : w.outs = []) : w.takeStops = w := by
  simp [Warp.takeStops, Warp.stopped, h]
  rw [← h]

/-! ### Entry to the handler (R464) -/

/-- A raised trap enters the handler once the waits are over. -/
theorem State.trapEntry_enters {t : Trap} {g : Grid} (hw : s.warp? k = some w) (ht : w.trapping = some t) (hp : w.parked = false)
    (hd : s.dieDown w.die = false) (ho : w.outs = []) (hr : s.entryReady w t = true) (hc : t.cause ≠ cResume ∨ w.saving ≠ 2)
    (hg : s.grid? k.grid = some g) (hh : g.header.hasTrap = true) :
    s.trapEntry k = (s.fillStatus k none).setWarp k
      { w with r := w.r.enter g.header g.entry (g.warpSlot k) (g.teamBlock k) t, trapping := none, wait := .none } := by
  have hw' : (s.fillStatus k none).warp? k = some w := warp?_fillStatus hw (by simp [ho]) none
  have hd' : (s.fillStatus k none).dieDown w.die = false := hd
  have hr' : (s.fillStatus k none).entryReady w t = true := hr
  have hg' : (s.fillStatus k none).grid? k.grid = some g := hg
  have hc' : (decide (t.cause = cResume) && decide (w.saving = 2)) = false := by simpa [imp_iff_not_or] using hc
  simp [State.trapEntry, hw', ht, hc', Warp.takeStops_eq ho, hp, hd', hr', hg', hh, State.enter]

/-! ### Causes at a boundary (R462, R463) -/

/-- Cause c is due at a boundary of the warp, with nothing to wait for. -/
structure Warp.AtBoundary (w : Warp) (c : Nat) : Prop where
  trapping : w.trapping = none
  sprout : w.sprout = Option.none
  parked : w.parked = false
  halted : w.halted = false
  live : w.r.live ≠ 0
  outs : w.outs = []
  wait : w.wait = .none
  recr : w.r.recr.state ≠ 1
  due : w.due = some c

/-- The warp with the cause taken: halted by the debugger, or with a trap raised. -/
def Warp.taken (w : Warp) (c : Nat) : Warp :=
  let w := { w with active := false, pending := w.pending.drop c }
  if c = 0 then { w with halted := true, r := if w.r.tmode then w.r else { w.r with ipc := w.r.pc, imask := w.r.mask } }
  else { w with trapping := some ⟨c, 0, 0, wholeWarp, 0, w.r.pc, false, true, false⟩ }

/-- A cause other than the debugger's is raised as a trap of the whole warp. -/
theorem Warp.taken_raises {c : Nat} (hc : c ≠ 0) : w.taken c =
    { w with active := false, pending := w.pending.drop c, trapping := some ⟨c, 0, 0, wholeWarp, 0, w.r.pc, false, true, false⟩ } :=
  if_neg hc

/-- A debugger halt leaves the place and the mask; in trap mode also what the handler returns to. -/
theorem Warp.taken_halts (w : Warp) : (w.taken 0).r.pc = w.r.pc ∧ (w.taken 0).r.mask = w.r.mask ∧
    (w.r.tmode = true → (w.taken 0).r.ipc = w.r.ipc ∧ (w.taken 0).r.imask = w.r.imask) := by
  have hr : (w.taken 0).r = if w.r.tmode then w.r else { w.r with ipc := w.r.pc, imask := w.r.mask } := rfl
  rw [hr]
  split
  · exact ⟨rfl, rfl, fun _ => ⟨rfl, rfl⟩⟩
  · exact ⟨rfl, rfl, fun h => absurd h ‹_›⟩

theorem Warp.taken_outs (c : Nat) : (w.taken c).outs = w.outs := by
  unfold Warp.taken; dsimp only; split <;> rfl

theorem State.warp?_releaseOf (hw : s.warp? k = some w) (gone : Bool) :
    (s.releaseOf k gone).warp? k = some (if w.r.recr.state = 1 then { w with release := if gone then 2 else max w.release 1 } else w) :=
  State.warp?_modWarp_self hw _

/-- Stopping the matrix entries of a warp changes no warp and no byte of memory. -/
theorem State.foldl_matDrop_eq (s : State) (ids : List Nat) :
    ∃ ms lk uf, ids.foldl (fun s id => s.matDrop id) s = { s with mats := ms, looks := lk, unitFills := uf } :=
  List.foldlRecOn (motive := fun t : State => ∃ ms lk uf, t = { s with mats := ms, looks := lk, unitFills := uf }) _ _ ⟨_, _, _, rfl⟩
    fun _ ⟨_, _, _, ht⟩ _ _ => ht ▸ ⟨_, _, _, rfl⟩

theorem State.matHalt_idle (hw : s.warp? k = some w) (ho : w.outs = []) :
    ∃ ms lk uf, s.matHalt k = State.setWarp { s with mats := ms, looks := lk, unitFills := uf } k w := by
  obtain ⟨ms, lk, uf, h⟩ := s.foldl_matDrop_eq ((s.mats.filter fun e => e.warp = k).map (·.id))
  refine ⟨ms, lk, uf, ?_⟩
  have hv : { w with outs := w.outs.filter (·.kind ≠ .matrix), r := { w.r with mrecs := w.r.mrecs ++ (w.outs.filter (·.kind = .matrix)).filterMap s.matRecord } } = w := by
    obtain ⟨r, _, _, _, _, _, _, _, _, _, _, _, _, _, outs, _⟩ := w
    obtain rfl : outs = [] := ho
    simp
  simp only [State.matHalt, hw, h, hv]

/-- A cause that is due is taken where the warp waits for nothing. -/
theorem State.takeBoundary_due {c : Nat} (hb : w.AtBoundary c) :
    s.takeBoundary k w = (((s.releaseOf k false).setWarp k (w.taken c)).matHalt k).dropStreams k := by
  obtain ⟨ht, hs, hp, hh, hl, ho, hwt, hr, hdue⟩ := hb
  have hdel : w.delivery = .now w.r := by simp [Warp.delivery, hwt]
  have hwd : w.withdraw = w := by simp [Warp.withdraw, hwt]
  have hab : w.abandonStream = w := by simp [Warp.abandonStream, ho]
  rw [State.takeBoundary, if_neg (by simpa [ht, hs, hp, hh] using hl)]
  simp only [hdue, hdel, hwd, hab, hr, if_false, Warp.taken, ← hwt]
  split <;> rfl

/-- At a boundary at which a cause is due it is taken before matrix records are posted again. -/
theorem State.trapEntry_boundary {c : Nat} (hw : s.warp? k = some w) (hd : s.dieDown w.die = false) (hb : w.AtBoundary c) :
    s.trapEntry k = ((((s.fillStatus k none).releaseOf k false).setWarp k (w.taken c)).matHalt k).dropStreams k := by
  have hw' : (s.fillStatus k none).warp? k = some w := warp?_fillStatus hw (by simp [hb.outs]) none
  have hd' : (s.fillStatus k none).dieDown w.die = false := hd
  have hrep : (w.replays && (w.due.isNone || decide (w.delivery = .later))) = false := by simp [hb.due, Warp.delivery, hb.wait]
  simp only [State.trapEntry, hw', hb.trapping, hd', hrep]
  exact takeBoundary_due hb

/-- Memory is as it was, and the warp has taken the cause. -/
theorem State.trapEntry_boundary_facts {c : Nat} (hw : s.warp? k = some w) (hd : s.dieDown w.die = false) (hb : w.AtBoundary c) :
    SameMemory s (s.trapEntry k) ∧ (s.trapEntry k).warp? k = some (w.taken c) := by
  have ho : (w.taken c).outs = [] := (Warp.taken_outs c).trans hb.outs
  obtain ⟨ms, lk, uf, h⟩ := matHalt_idle (s := ((s.fillStatus k none).releaseOf k false).setWarp k (w.taken c)) (State.warp?_setWarp ..) ho
  rw [trapEntry_boundary hw hd hb, h]
  exact ⟨fun _ => rfl, State.warp?_setWarp ..⟩

/-! ### The active set (R392, R393) -/

/-- A pending warp that is ready takes a free place. -/
theorem State.activate_eq (hw : s.warp? k = some w) (ha : w.active = false) (hp : w.parked = false) (hh : w.halted = false)
    (ht : w.trapping = none) (hl : w.r.live ≠ 0) (hr : w.wait.ready = true) (hc : s.activeCount w.die w.core < 8) :
    s.activate k = s.modWarp k fun w => { w with active := true } := by
  have hgo : ¬((w.active || w.parked || w.halted || w.trapping.isSome || w.r.live = 0 || !w.wait.ready || 8 ≤ s.activeCount w.die w.core : Bool) = true) := by
    simpa [ha, hp, hh, ht, hr] using And.intro hl hc
  simp only [State.activate, hw]
  exact if_neg hgo

/-! ### Copies whose last members have exited (R143, R145) -/

/-- Starting copies changes copies, barrier registers and error records, marks, and the numbers given out. -/
def State.Started (s t : State) : Prop := ∃ cs ts m i, t = { s with copies := cs, teams := ts, inflight := m, nextId := i }

theorem State.Started.refl (s : State) : s.Started s := ⟨_, _, _, _, rfl⟩

theorem State.Started.trans {t u : State} (h : s.Started t) (h' : t.Started u) : s.Started u := by
  obtain ⟨_, _, _, _, rfl⟩ := h
  obtain ⟨cs, ts, m, i, rfl⟩ := h'
  exact ⟨cs, ts, m, i, rfl⟩

theorem State.Started.sameMemory {t : State} (h : s.Started t) : SameMemory s t := by
  obtain ⟨_, _, _, _, rfl⟩ := h
  exact fun _ => rfl

theorem State.Started.warps {t : State} (h : s.Started t) : t.warps = s.warps := by
  obtain ⟨_, _, _, _, rfl⟩ := h
  rfl

theorem State.recordErr_started (s : State) (c : Copy) : s.Started (s.recordErr c) := by
  unfold State.recordErr
  split
  · exact .refl s
  · exact ⟨_, _, _, _, rfl⟩

/-- A start that goes on has passed the check before it. -/
theorem Start.go_of_ite {p : Prop} [Decidable p] {x y : Start} {t : State} (hx : ∀ u, x ≠ .go u) (h : (if p then x else y) = .go t) : y = .go t := by
  by_cases hp : p
  · rw [if_pos hp] at h
    exact absurd h (hx t)
  · rwa [if_neg hp] at h

theorem State.startCopy_started {c : Copy} {h : Header} {off mode : Nat} {t : State} (hgo : s.startCopy c h off mode = .go t) : s.Started t := by
  have hwait : ∀ u, Start.wait ≠ .go u := fun _ => nofun
  have htrap : ∀ n a u, Start.trap n a ≠ .go u := fun _ _ _ => nofun
  replace hgo := Start.go_of_ite hwait hgo
  cases hg : s.grid? c.team.grid with
  | none => rw [hg] at hgo; cases hgo
  | some g => cases htm : s.team? c.team with
    | none => rw [hg, htm] at hgo; cases hgo
    | some tm =>
      rw [hg, htm] at hgo
      replace hgo := Start.go_of_ite (htrap _ _) (Start.go_of_ite (htrap _ _) hgo)
      replace hgo := Start.go_of_ite (htrap _ _) (Start.go_of_ite hwait hgo)
      replace hgo := Start.go_of_ite (htrap _ _) (Start.go_of_ite (htrap _ _) hgo)
      exact Start.go.inj hgo ▸ .trans ⟨_, _, _, _, rfl⟩ (State.recordErr_started _ _)

theorem State.startExited_started (s : State) (t : TeamKey) : s.Started (s.startExited t) := by
  unfold State.startExited
  split
  · exact .refl s
  · refine List.foldlRecOn (motive := s.Started) _ _ (.refl s) fun u hu c _ => hu.trans ?_
    dsimp only
    have hdrop : u.Started { u with copies := u.copies.filter fun (o : Copy) => o.id ≠ c.id } := ⟨_, _, _, _, rfl⟩
    split
    · split
      · exact hdrop
      · exact .refl u
    · split
      · exact .refl u
      · split
        · exact hdrop
        · split
          · exact .refl u
          · exact hdrop
          · rename_i hgo; exact startCopy_started hgo

/-! ### Leaving, and the release of a recruitment (R145, R452, R465) -/

theorem Assoc.mem_of_find {κ α : Type} [DecidableEq κ] {m : Assoc κ α} {k : κ} {v : α} (h : m.find k = some v) : (k, v) ∈ m := by
  induction m with
  | nil => cases h
  | cons q r ih =>
    obtain ⟨j, u⟩ := q
    by_cases hj : k = j
    · subst hj
      obtain rfl : u = v := by simpa [Assoc.find] using h
      exact List.mem_cons_self
    · exact List.mem_cons_of_mem _ (ih (by simpa [Assoc.find, hj] using h))

/-- A team with a warp that goes on neither ends nor parks. -/
theorem Working.team_stays (h : Working s k w) : s.teamOver k.teamKey = false ∧ s.teamParked k.teamKey = false := by
  have hm : (k, w) ∈ s.ownWarps k.teamKey := List.mem_filter.mpr ⟨Assoc.mem_of_find h.warp, by simp [h.ordinary]⟩
  have hlive : decide (w.r.live = 0) = false := decide_eq_false h.live
  constructor
  · exact List.all_eq_false.mpr ⟨_, hm, by simp only [hlive, Bool.false_and, Bool.false_eq_true, not_false_eq_true]⟩
  · rw [State.teamParked, Bool.and_eq_false_iff]
    exact .inr (List.all_eq_false.mpr ⟨_, hm, by simp only [hlive, h.here, Bool.or_self, Bool.and_false, Bool.false_eq_true, not_false_eq_true]⟩)

/-- Where a team stays, all that can happen is that copies start. -/
theorem Working.tryLeave (h : Working s k w) : s.Started (s.tryLeave k.teamKey) := by
  unfold State.tryLeave
  split
  · rename_i tm g htm hg
    obtain ⟨hres, hdown⟩ := h.team tm htm
    have hst := s.startExited_started k.teamKey
    have hstay : (s.startExited k.teamKey).teamOver k.teamKey = false ∧ (s.startExited k.teamKey).teamParked k.teamKey = false := by
      have := h.team_stays
      simpa only [State.teamOver, State.teamParked, State.ownWarps, hst.warps] using this
    simp [hres, hdown, hstay.1, hstay.2, hst]
  · exact .refl s

/-- Removed warps are no others than those that are hit. -/
theorem State.warp?_dropWarps (hw : s.warp? k = some w) {hit : WarpKey → Warp → Bool} (hk : hit k w = false) :
    (s.dropWarps hit).warp? k = some w :=
  Assoc.find_filter_of hw (by simp [hk])

/-- A recruiter whose sprouts have gone: their floors are joined, and STATE is RELEASED. -/
def State.released (s : State) (k : WarpKey) (w : Warp) : Warp :=
  { s.joinSprouts k w with release := 0, r := { (s.joinSprouts k w).r with recr := { w.r.recr with state := 3 } } }

theorem State.warp?_releaseDone (hw : s.warp? k = some w) (hs : w.sprout = Option.none) (hr : w.release = 1) :
    (s.releaseDone k).warp? k = some (s.released k w) := by
  have hj : (s.modWarp k fun w => s.joinSprouts k w).warp? k = some (s.joinSprouts k w) := warp?_modWarp_self hw _
  have ho : ofOwner k k (s.joinSprouts k w) = false := by
    show w.sprout.any _ = false
    rw [hs]; rfl
  rw [State.releaseDone, warp?_modWarp_self (warp?_dropWarps hj ho)]
  have hone : ¬(s.joinSprouts k w).release = 2 := by
    show ¬w.release = 2
    rw [hr]; decide
  rw [if_neg hone]
  rfl

/-- Afterwards the recruiter has no sprouts. -/
theorem State.releaseDone_sprouts {q : WarpKey × Warp} (hq : q ∈ (s.releaseDone k).warps) (p : Sprout) (hp : q.2.sprout = some p) : p.owner ≠ k := by
  obtain ⟨v, hv, rfl⟩ := List.mem_map.mp hq
  have hkeep : v.2.sprout = some p := by
    rw [← hp]; split <;> rfl
  have := (List.mem_filter.mp hv).2
  simpa [ofOwner, hkeep] using this

/-- The recruiter's warp still goes on. -/
theorem Working.releaseDone (h : Working s k w) (hs : w.sprout = Option.none) (hr : w.release = 1) :
    Working (s.releaseDone k) k (s.released k w) :=
  ⟨State.warp?_releaseDone h.warp hs hr, h.ordinary, h.live, h.here, h.team⟩

end
end Sys2Proof.Machine
end


section
/-! SUPPORT. What lets a warp go on, one theorem for each step, and O40 settled from them. -/

namespace Sys2Proof.Machine

section
variable {s : State} {w : Warp} (hw : s.warp? s.arg.w = some w)
include hw

theorem goes_trapEntry_enters {t : Trap} {g : Grid} (ht : w.trapping = some t) (hp : w.parked = false) (hd : s.dieDown w.die = false)
    (ho : w.outs = []) (hr : s.entryReady w t = true) (hc : t.cause ≠ cResume ∨ w.saving ≠ 2) (hg : s.grid? s.arg.w.grid = some g)
    (hh : g.header.hasTrap = true) :
    Goes .trapEntry s fun u => SameMemory s u ∧
      u.warp? s.arg.w = some { w with r := w.r.enter g.header g.entry (g.warpSlot s.arg.w) (g.teamBlock s.arg.w) t, trapping := none, wait := .none } := by
  refine ⟨s.trapEntry s.arg.w, rfl, ?_⟩
  rw [State.trapEntry_enters hw ht hp hd ho hr hc hg hh]
  exact ⟨fun _ => rfl, State.warp?_setWarp ..⟩

/-- A boundary raises the cause that is due, or halts the warp. -/
theorem goes_trapEntry_takes {c : Nat} (hd : s.dieDown w.die = false) (hb : w.AtBoundary c) :
    Goes .trapEntry s fun u => SameMemory s u ∧ u.warp? s.arg.w = some (w.taken c) :=
  ⟨s.trapEntry s.arg.w, rfl, State.trapEntry_boundary_facts hw hd hb⟩

theorem goes_fenceComplete {sc : Nat} (hwt : w.wait = .fence sc) (hf : s.fenceHolds w sc = true) :
    Goes .fenceComplete s fun u => SameMemory s u ∧ u.warp? s.arg.w = some { w with wait := .none } := by
  refine ⟨s.modWarp s.arg.w fun w => { w with wait := .none }, ?_, fun _ => rfl, State.warp?_modWarp_self hw _⟩
  show execFenceComplete s = _
  simp only [execFenceComplete, hw, hwt, hf, if_true]

theorem goes_sleepEnd {till len : Nat} (hwt : w.wait = .sleep till len) (ht : till ≤ s.tcAt w.die) :
    Goes .sleepEnd s fun u => u = s.setWarp s.arg.w { w with wait := .none, r := { w.r with pc := w.r.pc + BitVec.ofNat 64 len } } := by
  refine ⟨_, ?_, rfl⟩
  show execSleepEnd s = _
  simp only [execSleepEnd, hw, hwt, if_pos ht]

theorem goes_waitmTimeout {t0 tag lim : Nat} (hwt : w.wait = .waitm t0 tag lim) (hl : lim ≠ 0) (ht : t0 + lim ≤ s.tcAt w.die) :
    Goes .waitmTimeout s fun u => SameMemory s u ∧ u.warp? s.arg.w = some { w with wait := .waitmAgain t0 } := by
  refine ⟨s.modWarp s.arg.w fun w => { w with wait := .waitmAgain t0 }, ?_, fun _ => rfl, State.warp?_modWarp_self hw _⟩
  have hdue : (decide (lim ≠ 0) && decide (t0 + lim ≤ s.tcAt w.die)) = true := by simp [hl, ht]
  show execWaitmTimeout s = _
  simp only [execWaitmTimeout, hw, hwt, hdue, if_true]

/-- A warp without a recruitment or a stream on its way only takes its place. -/
theorem goes_warpActivate (ho : ∀ o ∈ w.outs, o.kind ≠ .sprouts ∧ o.kind ≠ .stream) (ha : w.active = false) (hp : w.parked = false)
    (hh : w.halted = false) (ht : w.trapping = none) (hl : w.r.live ≠ 0) (hr : w.wait.ready = true) (hc : s.activeCount w.die w.core < 8) :
    Goes .warpActivate s fun u => SameMemory s u ∧ u.warp? s.arg.w = some { w with active := true } := by
  have hw' : (s.fillStatus s.arg.w none).warp? s.arg.w = some w := State.warp?_fillStatus hw (fun o h => (ho o h).1) none
  have hc' : (s.fillStatus s.arg.w none).activeCount w.die w.core < 8 := by rwa [State.activeCount_fillStatus]
  refine ⟨_, rfl, ?_⟩
  rw [State.streamGo_eq hw' fun o h => (ho o h).2, State.activate_eq hw' ha hp hh ht hl hr hc']
  exact ⟨fun _ => rfl, State.warp?_modWarp_self hw' _⟩

theorem goes_sproutBudgetExpire {p : Sprout} {o : Warp} (hs : w.sprout = some p) (hd : s.dieDown w.die = false) (hl : w.r.live ≠ 0)
    (hb : s.overBudget s.arg.w w = true) (hown : s.warp? p.owner = some o) (hr : o.r.recr.state = 1) :
    Goes .sproutBudgetExpire s fun u => SameMemory s u ∧ u.warp? p.owner = some { o with release := max o.release 1 } := by
  refine ⟨s.releaseOf p.owner false, ?_, fun _ => rfl, (State.warp?_releaseOf hown false).trans (by rw [if_pos hr]; rfl)⟩
  have hdue : (!s.dieDown w.die && decide (w.r.live ≠ 0) && s.overBudget s.arg.w w) = true := by simpa [hd, hb] using hl
  show execSproutBudgetExpire s = _
  simp only [execSproutBudgetExpire, hw, hs, hdue, if_true]

omit hw in
/-- The recruiter has its floors joined, and its sprouts are gone; its team stays. -/
theorem goes_recruitmentReleaseDone (h : Working s s.arg.w w) (hd : s.dieDown w.die = false) (hs : w.sprout = none) (hr : w.release = 1)
    (hh : s.releaseHolds s.arg.w = true) :
    Goes .recruitmentReleaseDone s fun u => SameMemory s u ∧ u.warp? s.arg.w = some (s.released s.arg.w w) ∧
      ∀ q ∈ u.warps, ∀ p, q.2.sprout = some p → p.owner ≠ s.arg.w := by
  have hst := (h.releaseDone hs hr).tryLeave
  refine ⟨(s.releaseDone s.arg.w).tryLeave s.arg.w.teamKey, ?_, hst.sameMemory, ?self, fun q hq => State.releaseDone_sprouts (hst.warps ▸ hq)⟩
  case self =>
    rw [State.warp?, hst.warps]
    exact State.warp?_releaseDone h.warp hs hr
  have hdue : (!s.dieDown w.die && decide (w.release ≠ 0) && s.releaseHolds s.arg.w) = true := by simp [hd, hr, hh]
  show execRecruitmentReleaseDone s = _
  simp only [execRecruitmentReleaseDone, h.warp, hdue, if_true]

end

/-- Settles O40, step by step. A halt is taken in trap mode too (log 92), floors are joined at a release (log 73), and a
WAITM reads once more after its timeout (log 48). -/
theorem warpsGoOn : Obligations.WarpsGoOn := by
  intro s w hw k
  refine ⟨?enter, ?cause, ?halt, fun _ => goes_fenceComplete hw, fun _ _ => goes_sleepEnd hw, fun _ _ _ => goes_waitmTimeout hw,
    goes_warpActivate hw, fun _ _ => goes_sproutBudgetExpire hw, goes_recruitmentReleaseDone⟩
  case enter =>
    intro t g ht hp hd ho hr hc hg hh
    obtain ⟨u, hu, hm, hself⟩ := goes_trapEntry_enters hw ht hp hd ho hr hc hg hh
    exact ⟨u, hu, hm, _, hself, Regs.enter_tmode, Regs.enter_pc, Regs.enter_mask, Regs.enter_imask, Regs.enter_ipc, t.word_cause⟩
  case cause =>
    intro ht hd htm hs hp hh hl ho hwt hr hnh hpend
    have hdue : w.due = some (if w.pending.watchdog then 13 else 14) := by
      rw [Warp.due, htm, if_neg (by decide), Boundary.first, hnh, if_neg (by decide)]
      split
      · rfl
      · rw [if_pos (hpend.resolve_left ‹_›)]
    obtain ⟨u, hu, hm, hself⟩ := goes_trapEntry_takes hw hd ⟨ht, hs, hp, hh, hl, ho, hwt, hr, hdue⟩
    refine ⟨u, hu, hm, _, _, hself.trans (congrArg some (Warp.taken_raises ?_)), rfl, rfl, rfl, rfl, rfl, rfl⟩
    split <;> decide
  case halt =>
    intro ht hd hs hp hh hl ho hwt hr hpend
    have hdue : w.due = some 0 := by
      rw [Warp.due, Boundary.first, hpend]
      split <;> rfl
    obtain ⟨u, hu, hm, hself⟩ := goes_trapEntry_takes hw hd ⟨ht, hs, hp, hh, hl, ho, hwt, hr, hdue⟩
    exact ⟨u, hu, hm, _, hself, rfl, ht, w.taken_halts⟩

end Sys2Proof.Machine
end

section
/-! SUPPORT. Bytes, teams, words and tags: what a read gives after a write. -/

namespace Sys2Proof.Machine

/-! ### Bytes -/

/-- Written bytes are read back, and every other byte reads as before. -/
theorem Memory.get_writeBytes (m : Store Byte) (a n v b : Nat) :
    Store.get 0 (writeBytes m a n v) b = if a ≤ b ∧ b < a + n then BitVec.ofNat 8 (v / 256 ^ (b - a)) else Store.get 0 m b := by
  induction n with
  | zero => rw [if_neg (by omega)]; rfl
  | succ n ih =>
    have hstep : writeBytes m a (n + 1) v = (writeBytes m a n v).put 0 (a + n) (BitVec.ofNat 8 (v / 256 ^ n)) := by
      simp only [writeBytes, List.range_succ, List.foldl_append, List.foldl_cons, List.foldl_nil]
    rw [hstep]
    by_cases hb : b = a + n
    · rw [hb, Store.get_put_eq, if_pos (by omega), Nat.add_sub_cancel_left]
    · rw [Store.get_put_ne _ _ _ _ _ hb, ih]
      exact if_congr (by omega) rfl rfl

/-- The first byte is the lowest. -/
theorem leNat_succ (n : Nat) (f : Nat → Byte) : leNat (n + 1) f = leNat n (fun j => f (j + 1)) * 256 + (f 0).toNat := by
  have hterm : ∀ j, (f (j + 1)).toNat * 256 ^ (j + 1) = (f (j + 1)).toNat * 256 ^ j * 256 := fun j => by rw [pow_succ, mul_assoc]
  simp only [leNat, List.range_succ_eq_map, List.map_cons, List.map_map, List.sum_cons, Function.comp_def, Nat.succ_eq_add_one, hterm,
    List.sum_map_mul_right, pow_zero, mul_one]
  exact Nat.add_comm _ _

/-- Bytes taken one after another make their number. -/
theorem foldr_bytes_eq_leNat (n : Nat) (f : Nat → Byte) : (List.range n).foldr (fun i v => v * 256 + (f i).toNat) 0 = leNat n f := by
  induction n generalizing f with
  | zero => rfl
  | succ n ih => rw [List.range_succ_eq_map, List.foldr_cons, List.foldr_map, leNat_succ, ← ih]

theorem readBytes_eq_leNat (m : Store Byte) (a n : Nat) : readBytes m a n = leNat n fun j => m.get 0 (a + j) :=
  foldr_bytes_eq_leNat n fun j => m.get 0 (a + j)

/-! ### Teams -/

@[simp] theorem State.team?_setWarp (s : State) (k : WarpKey) (w : Warp) (t : TeamKey) : (s.setWarp k w).team? t = s.team? t := rfl

/-- The team that is changed, as it is read afterwards. -/
theorem State.team?_modTeam {s : State} {t : TeamKey} {tm : Team} (h : s.team? t = some tm) (f : Team → Team) :
    (s.modTeam t f).team? t = some (f tm) := by
  have hfind : Assoc.find s.teams t = some tm := h
  rw [State.team?, State.modTeam, Assoc.find_modify, hfind, Option.map_some, if_pos rfl]

section
variable {r : Regs}

/-! ### Tags (R172) -/

/-- Tagging changes tags alone. -/
theorem Regs.tagged_eq (m : Mask) (dbl : Bool) (ws : List (File × Nat)) : ∃ u t, r.tagged m dbl ws = { r with uni := u, thin := t } := by
  unfold Regs.tagged
  split
  · exact ⟨_, _, rfl⟩
  · refine List.foldlRecOn (motive := fun q : Regs => ∃ u t, q = { r with uni := u, thin := t }) _ _ ⟨_, _, rfl⟩ ?_
    rintro _ ⟨u, t, rfl⟩ p -
    split
    · exact ⟨_, _, rfl⟩
    · exact ⟨_, _, rfl⟩
    · exact ⟨_, _, rfl⟩

theorem Regs.written_eq (m : Mask) (op : Op) (x : Ext) : ∃ u t, r.written m op x = { r with uni := u, thin := t } := Regs.tagged_eq ..

@[simp] theorem Regs.written_getV (m : Mask) (op : Op) (x : Ext) (n l : Nat) : (r.written m op x).getV n l = r.getV n l := by
  obtain ⟨_, _, h⟩ := r.written_eq m op x
  rw [h]; rfl

@[simp] theorem Regs.written_getS (m : Mask) (op : Op) (x : Ext) (nS n : Nat) : (r.written m op x).getS nS n = r.getS nS n := by
  obtain ⟨_, _, h⟩ := r.written_eq m op x
  rw [h]; rfl

@[simp] theorem Regs.written_pc (m : Mask) (op : Op) (x : Ext) : (r.written m op x).pc = r.pc := by
  obtain ⟨_, _, h⟩ := r.written_eq m op x
  rw [h]

@[simp] theorem Regs.written_live (m : Mask) (op : Op) (x : Ext) : (r.written m op x).live = r.live := by
  obtain ⟨_, _, h⟩ := r.written_eq m op x
  rw [h]

/-- An instruction that writes no register changes no tag. -/
theorem Regs.written_none (m : Mask) {op : Op} {x : Ext} (h : writesOf op x = []) : r.written m op x = r := by
  rw [Regs.written, h, Regs.tagged]
  split <;> rfl

/-! ### Read floors (R65) -/

/-- Raising floors changes floors alone. -/
theorem Regs.raiseAll_eq (m : Mask) (g : Nat) : ∃ f, r.raiseAll m g = { r with floor := f } := by
  refine List.foldlRecOn (motive := fun q : Regs => ∃ f, q = { r with floor := f }) _ _ ⟨_, rfl⟩ ?_
  rintro _ ⟨f, rfl⟩ l -
  exact ⟨_, rfl⟩

/-! ### Words of a loaded value -/

/-- The first word goes to the register that is named. -/
theorem putWords_getV {nS n lane v : Nat} {k : BitVec 7} (h : 0 < n) :
    (putWords nS n lane (.reg k) v r).getV k.toNat lane = BitVec.ofNat 32 v := by
  induction n with
  | zero => cases h
  | succ n ih =>
    have hstep : putWords nS (n + 1) lane (.reg k) v r =
        (putWords nS n lane (.reg k) v r).setV (k.toNat + n) lane (BitVec.ofNat 32 (v / 2 ^ (32 * n))) := by
      simp only [putWords, List.range_succ, List.foldl_append, List.foldl_cons, List.foldl_nil]
    rw [hstep]
    cases n with
    | zero => simp
    | succ n => rw [Regs.getV_setV_ne _ _ _ _ _ _ (by unfold regKey; omega), ih (Nat.succ_pos n)]

/-- The program counter and the live threads stay. -/
theorem putWords_keeps (nS n lane : Nat) (d : Sel) (v : Nat) : (putWords nS n lane d v r).pc = r.pc ∧ (putWords nS n lane d v r).live = r.live := by
  refine List.foldlRecOn (motive := fun q : Regs => q.pc = r.pc ∧ q.live = r.live) _ _ ⟨rfl, rfl⟩ fun q hq i _ => ?_
  dsimp only
  split
  · exact hq
  · exact hq
  · exact hq

end

end Sys2Proof.Machine
end

section
/-! SUPPORT. Accesses to scratch that a vault performs, and the clearing of scratch (R118, R123, R125). -/

namespace Sys2Proof.Machine

/-- One thread's access is all that warp k has outstanding, and nothing holds it back: its bytes are cleared, no copy marks
their lines, no map covers them, and the vaults hold no poison. -/
structure State.LoneAccess (s : State) (k : WarpKey) (w : Warp) (o : Out) (l : LaneAcc) : Prop where
  warp : s.warp? k = some w
  outs : w.outs = [o]
  going : o.finished = false
  lanes : o.lanes = [l]
  due : l.done = false
  unasked : l.asked = false
  cleared : s.scratchReady l.a l.size = true
  unmarked : ∀ n, s.inflight.get 0 n = 0
  unmapped : ∀ a, s.mapAt a = none
  sound : s.eccVault = []

/-- The access has been made: the value that it read, and what the lane keeps of its data and comparand. -/
def LaneAcc.made (l : LaneAcc) (val data cmp : Nat) : LaneAcc := { l with done := true, val := val, data := data, cmp := cmp, asked := false }

/-- The number that the access's bytes make in the vaults. -/
def LaneAcc.found (l : LaneAcc) (vault : Store Byte) : Nat := leNat l.size fun j => vault.get 0 (l.a + j)

/-- The registers after the end of an instruction with one lane. -/
def Out.landed (o : Out) (nS : Nat) (l : LaneAcc) (r : Regs) : Regs :=
  (if o.kind = .vstore then r else loadInto nS o.op o.x l l.val (r.raiseAll (o.threads l) l.data)).written o.mask o.op o.x

/-- The warp after the end of its only outstanding instruction. -/
def Warp.ended (w : Warp) (r : Regs) : Warp := { w with r := r, outs := [], wait := if w.wait = .acks then .none else w.wait }

/-! ### Registers -/

section
variable {o : Out} {r : Regs}

/-- What an instruction brings into registers moves no program counter and ends no thread. -/
theorem loadInto_keeps (nS : Nat) (op : Op) (x : Ext) (l : LaneAcc) (v : Nat) :
    (loadInto nS op x l v r).pc = r.pc ∧ (loadInto nS op x l v r).live = r.live := by
  have hF : ∀ u : Raw, (putF l.lane x.d u r).pc = r.pc ∧ (putF l.lane x.d u r).live = r.live := fun u => by
    unfold putF; split <;> exact ⟨rfl, rfl⟩
  have hD : ∀ u : Raw, (putD l.lane x.d u r).pc = r.pc ∧ (putD l.lane x.d u r).live = r.live := fun u => by
    unfold putD; split <;> exact ⟨rfl, rfl⟩
  unfold loadInto
  split
  · exact putWords_keeps ..
  · exact putWords_keeps ..
  · split
    · exact hD _
    · exact hF _
  · exact putWords_keeps ..
  · exact putWords_keeps ..
  · exact hF _
  · split <;> exact ⟨rfl, rfl⟩
  · exact ⟨rfl, rfl⟩

theorem Out.landed_keeps (o : Out) (nS : Nat) (l : LaneAcc) (r : Regs) : (o.landed nS l r).pc = r.pc ∧ (o.landed nS l r).live = r.live := by
  obtain ⟨f, hf⟩ := r.raiseAll_eq (o.threads l) l.data
  rw [Out.landed, Regs.written_pc, Regs.written_live, hf]
  split
  · exact ⟨rfl, rfl⟩
  · exact loadInto_keeps ..

/-- A store writes no register. -/
theorem Out.landed_st (hk : o.kind = .vstore) (ho : o.op = .st) (nS : Nat) (l : LaneAcc) : o.landed nS l r = r := by
  rw [Out.landed, if_pos hk, ho, Regs.written_none]
  rfl

theorem szN_pos (sz : Nat) : 0 < szN sz := by
  unfold szN; split_ifs <;> decide

variable {g : BitVec 7} {nS : Nat} {l : LaneAcc} (hg : o.x.d = .reg g)
include hg

/-- A load puts its bytes, extended, into the registers it names (R343). -/
theorem Out.landed_ld (hk : o.kind = .vload) (ho : o.op = .ld) :
    (o.landed nS l r).getV g.toNat l.lane = BitVec.ofNat 32 (ldValue (o.x.m 0 3) l.val) := by
  rw [Out.landed, if_neg (by rw [hk]; decide), Regs.written_getV, ho, loadInto, hg, putWords_getV (szN_pos _)]

/-- An atomic returns what was there (R352, R353). -/
theorem Out.landed_atom (hk : o.kind = .vatom) (ho : o.op = .atom ∨ o.op = .cas) :
    (o.landed nS l r).getV g.toNat l.lane = BitVec.ofNat 32 l.val := by
  have hn : 0 < if 2 ≤ o.x.m 0 2 then 2 else 1 := by split <;> decide
  rw [Out.landed, if_neg (by rw [hk]; decide), Regs.written_getV]
  rcases ho with ho | ho <;> rw [ho, loadInto, hg, putWords_getV hn]

end

/-! ### A warp with nothing outstanding -/

section
variable {u : State} {k : WarpKey} {w : Warp}

theorem State.commitAll_idle (hw : u.warp? k = some w) (ho : w.outs = []) : u.commitAll k = u := by
  simp [State.commitAll, State.commit, hw, ho]

/-- An instruction that has completed is dropped where nothing older is outstanding, and its warp no longer waits for it. -/
def Warp.finish (w : Warp) (id : Nat) : Warp :=
  { (w.modOut id fun o => { o with finished := true, dests := [] }).prune with wait := w.waitAfter id }

theorem Warp.finish_fill {o : Out} (ho : w.outs = [o]) (f : Regs → Regs) :
    (w.fill o f).finish o.id = w.ended ((f w.r).written o.mask o.op o.x) := by
  simp [Warp.finish, Warp.ended, Warp.prune, pruneOuts, Warp.modOut, Warp.fill, Warp.fillBy, Warp.waitAfter, ho]

/-- An instruction whose one lane has been made ends. -/
theorem State.vaultDone_eq {o : Out} {l : LaneAcc} (hw : u.warp? k = some w) (hos : w.outs = [o]) (hg : o.finished = false)
    (hl : o.lanes = [l]) (hd : l.done = true) (hx : o.op ≠ .xload) (hc : o.kind = .vatom → l.cmp = 0) :
    u.vaultDone k o.id = u.setWarp k (w.ended (o.landed (u.header k).nS l w.r)) := by
  have hfind : w.outs.find? (fun p => decide (p.id = o.id)) = some o := by simp [hos]
  have himage : o.lanes.find? (fun l => (o.badImage l.val).isSome) = none := by simp [hl, Out.badImage, hx]
  have hsound : (if (decide (o.kind = .vatom) && decide (o.op ≠ .red)) = true then o.lanes.find? fun l => decide (l.cmp ≠ 0) else none) = none := by
    split
    · rename_i h
      simp [hl, hc (of_decide_eq_true (Bool.and_eq_true_iff.mp h).1)]
    · rfl
  have hend : u.vaultDone k o.id = (u.setWarp k ((w.fill o fun r => if o.kind = .vstore then r else
      o.lanes.foldl (fun r l => loadInto (u.header k).nS o.op o.x l l.val (r.raiseAll (o.threads l) l.data)) r).finish o.id)).commitAll k := by
    simp only [State.vaultDone, hw, hfind]
    rw [if_neg (by simp [hg, hl, hd]), himage, hsound]
    rfl
  rw [hend, Warp.finish_fill hos, commitAll_idle (State.warp?_setWarp ..) rfl, hl]
  rfl

end

/-! ### The access -/

namespace State.LoneAccess

variable {s : State} {k : WarpKey} {w : Warp} {o : Out} {l : LaneAcc} (h : s.LoneAccess k w o l)
include h

theorem find_out : w.outs.find? (fun p => decide (p.id = o.id)) = some o := by simp [h.outs]

theorem find_lane : o.lanes.find? (fun m => decide (m.lane = l.lane)) = some l := by simp [h.lanes]

theorem not_blocked : laneBlocked w o l = false := by simp [laneBlocked, h.outs, h.lanes]

theorem not_held : s.vaultHeld l.a l.size = false := by simp [State.vaultHeld, h.unmarked, h.unmapped]

/-- Bytes that no map covers are never brought in. -/
theorem no_fill : s.laneFill w o l = none := by
  have hwords : s.toFill w.die (laneFloor w o l) (decide (o.kind = .vstore)) l.a l.size = none := by simp [State.toFill, h.unmapped]
  unfold State.laneFill
  dsimp only
  split
  · rfl
  · exact hwords

theorem mapW_eq : s.mapW l.a l.size = 0 := by simp [State.mapW, h.unmapped]

/-- No word of a map is written. -/
theorem markWritten_eq (v : Store Byte) (e : List Nat) :
    State.markWritten { s with vault := v, eccVault := e } l.a l.size = { s with vault := v, eccVault := e } := by
  refine List.foldlRecOn (motive := fun t : State => t = { s with vault := v, eccVault := e }) _ _ rfl ?_
  rintro _ rfl a -
  have hmap : State.mapAt { s with vault := v, eccVault := e } (a * 4) = none := h.unmapped _
  rw [hmap]
  rfl

theorem not_poisoned : s.vaultPoison l.a l.size = false := by simp [State.vaultPoison, h.sound]

/-- The access is made at once. -/
theorem vaultAll_eq : s.vaultAll k o.id = (s.vaultDo k w o l).vaultDone k o.id := by
  have hlane : s.vaultLane k o.id l.lane = (s.vaultDo k w o l).vaultDone k o.id := by
    simp only [State.vaultLane, h.warp, h.find_out, h.find_lane]
    rw [if_neg (by simp [h.due, h.unasked, h.not_blocked, h.cleared, h.not_held]), h.no_fill]
    dsimp only
    rw [if_neg (by simp [h.not_poisoned]), if_neg (by simp [h.not_blocked, h.lanes, h.unasked, h.no_fill])]
  simp only [State.vaultAll, h.warp, h.find_out, h.lanes, List.foldl_cons, List.foldl_nil, hlane]

/-- A load takes the vault's bytes: the warp has no store of its own on the way. -/
theorem vaultDo_load (hk : o.kind = .vload) :
    s.vaultDo k w o l = s.modLane k o.id l.lane fun m => m.made (l.found s.vault) 0 m.cmp := by
  have hread : s.vaultRead (w.outs.filter fun p => decide (p.id < o.id)) (o.threads l) l.a l.size = l.found s.vault := by
    simp only [h.outs, List.filter_cons, lt_irrefl, decide_false, List.filter_nil]
    exact foldr_bytes_eq_leNat l.size _
  simp only [State.vaultDo, hk, hread, h.mapW_eq]
  rfl

/-- A store puts its bytes into the vault. -/
theorem vaultDo_store (hk : o.kind = .vstore) :
    s.vaultDo k w o l = State.modLane { s with vault := writeBytes s.vault l.a l.size l.data, eccVault := [] } k o.id l.lane
      fun m => m.made m.val m.data m.cmp := by
  simp only [State.vaultDo, hk, h.sound, List.filter_nil, h.markWritten_eq]
  rfl

/-- An atomic takes the vault's bytes and puts its result there. -/
theorem vaultDo_atom (hk : o.kind = .vatom) :
    s.vaultDo k w o l = State.modLane
      { s with vault := writeBytes s.vault l.a l.size (atomApply (atomCode o.op o.x) (l.found s.vault) l.data l.cmp), eccVault := s.eccVault }
      k o.id l.lane fun m => m.made (l.found s.vault) 0 0 := by
  simp only [State.vaultDo, hk, h.mapW_eq, h.not_poisoned, readBytes_eq_leNat, h.markWritten_eq]
  rfl

end State.LoneAccess

/-! ### The step -/

/-- Once the access has been made the instruction ends, and memory stays: with it nothing else of the warp is outstanding, and
its team does not leave. -/
theorem goes_vaultAccessComplete {s : State} {w : Warp} {o : Out} {l : LaneAcc} {f : LaneAcc → LaneAcc} {v : Store Byte} {e : List Nat}
    (h : s.LoneAccess s.arg.w w o l) (hg : Working s s.arg.w w) (hd : s.dieDown w.die = false) (hid : o.id = s.arg.n)
    (hdo : s.vaultDo s.arg.w w o l = State.modLane { s with vault := v, eccVault := e } s.arg.w o.id l.lane f)
    (hdone : (f l).done = true) (hx : o.op ≠ .xload) (hc : o.kind = .vatom → (f l).cmp = 0) :
    Goes .vaultAccessComplete s fun t => SameMemory s t ∧ t.vault = v ∧
      t.warp? s.arg.w = some (w.ended (o.landed (s.header s.arg.w).nS (f l) w.r)) := by
  obtain ⟨u, hu⟩ : ∃ u, u = State.modLane { s with vault := v, eccVault := e } s.arg.w o.id l.lane f := ⟨_, rfl⟩
  have huw : u.warp? s.arg.w = some { w with outs := [{ o with lanes := [f l] }] } := by
    rw [hu, State.modLane, State.warp?_modWarp_self (s := { s with vault := v, eccVault := e }) h.warp]
    simp [Warp.modOut, h.outs, h.lanes]
  obtain ⟨t, ht⟩ : ∃ t, t = u.setWarp s.arg.w (w.ended (o.landed (s.header s.arg.w).nS (f l) w.r)) := ⟨_, rfl⟩
  have hall : s.vaultAll s.arg.w s.arg.n = t := by
    rw [← hid, h.vaultAll_eq, hdo, ← hu, State.vaultDone_eq (o := { o with lanes := [f l] }) huw rfl h.going rfl hdone hx hc, ht, hu]
    rfl
  have htw : t.warp? s.arg.w = some (w.ended (o.landed (s.header s.arg.w).nS (f l) w.r)) := ht ▸ State.warp?_setWarp ..
  have hstays : Working t s.arg.w (w.ended (o.landed (s.header s.arg.w).nS (f l) w.r)) := by
    refine ⟨htw, hg.ordinary, ?_, hg.here, fun tm htm => ?_⟩
    · exact (o.landed_keeps _ (f l) w.r).2 ▸ hg.live
    · subst ht hu
      exact hg.team tm htm
  have hst := hstays.tryLeave
  refine ⟨t.tryLeave s.arg.w.teamKey, ?run, fun a => ?memory, ?vault, ?warp⟩
  case run =>
    show execVaultAccessComplete s = _
    rw [execVaultAccessComplete, h.warp, Option.any_some, hd, if_neg (by decide), hall, State.commitAll_idle htw rfl,
      State.streamGo_eq htw fun _ h => nomatch h]
  case memory =>
    subst ht hu
    exact hst.sameMemory a
  case vault =>
    obtain ⟨_, _, _, _, hst⟩ := hst
    rw [hst, ht, hu]
    rfl
  case warp => rw [State.warp?, hst.warps]; exact htw

/-- A line of a team's scratch is cleared (R118). -/
theorem goes_scratchClear {s : State} {tm : Team} {g : Grid} (ht : s.team? s.arg.t = some tm) (hg : s.grid? s.arg.t.grid = some g)
    (hr : tm.resident = true) (hd : s.dieDown tm.die = false) (hc : tm.cleared < roundUpTo 1024 g.scratch) :
    Goes .scratchClear s fun t => SameMemory s t ∧ t.team? s.arg.t = some { tm with cleared := tm.cleared + 128 } ∧
      ∀ a, t.vault.get 0 a = if tm.base + tm.cleared ≤ a ∧ a < tm.base + tm.cleared + 128 then 0 else s.vault.get 0 a := by
  refine ⟨s.clearScratch s.arg.t, rfl, ?_⟩
  simp only [State.clearScratch, ht, hg]
  rw [if_neg (by simp [hr, hd, hc])]
  generalize hv : writeBytes s.vault (tm.base + tm.cleared) 128 0 = v
  refine ⟨fun _ => rfl, ?team, fun a => ?bytes⟩
  case team => exact State.team?_modTeam (by exact ht) _
  case bytes =>
    rw [State.modTeam, ← hv, Memory.get_writeBytes, Nat.zero_div]
    rfl

/-- Settles O41: the clearing of a line, and the three kinds of access. -/
theorem scratchAccessesPerform : Obligations.ScratchAccessesPerform := by
  intro s
  refine ⟨fun tm g => goes_scratchClear, ?_⟩
  intro w o l hg hd hos hid hf hl hdone hask _ _ hclear hmark hmap hecc old into ends writes
  have h : s.LoneAccess s.arg.w w o l := ⟨hg.warp, hos, hf, hl, hdone, hask, hclear, hmark, hmap, hecc⟩
  have hends : ∀ {t : State} {l' : LaneAcc} {p : Warp → Prop}, t.warp? s.arg.w = some (w.ended (o.landed (s.header s.arg.w).nS l' w.r)) →
      p (w.ended (o.landed (s.header s.arg.w).nS l' w.r)) → ends t p := fun ht hp =>
    ⟨_, ht, rfl, (o.landed_keeps _ _ w.r).1, fun hw => if_pos hw, hp⟩
  have hwrites : ∀ {t : State} {x : Nat}, t.vault = writeBytes s.vault l.a l.size x → writes t x := fun ht a => by
    rw [ht, Memory.get_writeBytes]
  refine ⟨fun hk ho => ?load, fun hk ho => ?store, fun hk ho => ?atom⟩
  case load =>
    obtain ⟨t, hrun, hm, hv, hw⟩ := goes_vaultAccessComplete h hg hd hid (h.vaultDo_load hk) rfl (by rw [ho]; decide) (by rw [hk]; nofun)
    exact ⟨t, hrun, hm, hv, hends hw fun g hd => Out.landed_ld hd hk ho⟩
  case store =>
    obtain ⟨t, hrun, hm, hv, hw⟩ := goes_vaultAccessComplete h hg hd hid (h.vaultDo_store hk) rfl (by rw [ho]; decide) (by rw [hk]; nofun)
    exact ⟨t, hrun, hm, hwrites hv, hends hw (Out.landed_st hk ho ..)⟩
  case atom =>
    have hx : o.op ≠ .xload := by rcases ho with ho | ho <;> rw [ho] <;> decide
    obtain ⟨t, hrun, hm, hv, hw⟩ := goes_vaultAccessComplete h hg hd hid (h.vaultDo_atom hk) rfl hx fun _ => rfl
    exact ⟨t, hrun, hm, hwrites hv, hends hw fun g hd => Out.landed_atom hd hk ho⟩

end Sys2Proof.Machine
end

section
/-! SUPPORT. Mapped scratch: what its instructions execute, the slots and queries of a team's maps, and words written to a destination. -/

namespace Sys2Proof.Machine

/-! ### The instructions -/

theorem exec_smap_of_form {i : Instr} {x : Ext} {len : Nat} (s : State) (h : instrForm i = some (.smap, x, len)) :
    exec i s = smap .smap x len s := by
  cases i <;> cases h
  rfl

theorem exec_sqry_of_form {i : Instr} {x : Ext} {len : Nat} (s : State) (h : instrForm i = some (.sqry, x, len)) :
    exec i s = sqry .sqry x len s := by
  cases i <;> cases h
  rfl

theorem exec_sflush_of_form {i : Instr} {x : Ext} {len : Nat} (s : State) (h : instrForm i = some (.sflush, x, len)) :
    exec i s = sflush .sflush x len s := by
  cases i <;> cases h
  rfl

theorem exec_sunmap_of_form {i : Instr} {x : Ext} {len : Nat} (s : State) (h : instrForm i = some (.sunmap, x, len)) :
    exec i s = sunmap .sunmap x len s := by
  cases i <;> cases h
  rfl

/-- Outside a sprout, with a thread that takes part, the instruction acts on its team. -/
theorem Executes.onceTeam_eq {i : Instr} {c : Cx} {len : Nat} {tm : Team} (he : Executes i c len) {op : Op} (ho : c.op = op)
    (hm : c.m ≠ 0) (hs : c.w.sprout = Option.none) (ht : c.s.team? c.k.teamKey = some tm) (body : Cx → Team → Res) :
    onceTeam op c.x len c.s body = body c tm := by
  rw [onceTeam, he.frame_eq ho, if_neg hm, if_neg (by simp [hs]), ht]

/-! ### Words written to a destination -/

section
variable {c : Cx} {r : Regs} {v : Nat → DWord}

theorem Cx.src_reg (c : Cx) (l : Nat) (k : BitVec 7) : c.src 1 l (.reg k) = c.w.r.getV k.toNat l := by
  rw [Cx.src, Cx.int, if_neg (by decide)]
  exact (BitVec.setWidth_setWidth_of_le _ (by decide)).trans (BitVec.setWidth_eq _)

theorem Cx.src_s (c : Cx) (l : Nat) (k : Fin 384) : c.src 1 l (.s k) = c.w.r.getS c.nS k.val := by
  rw [Cx.src, Cx.int, if_neg (by decide)]
  exact (BitVec.setWidth_setWidth_of_le _ (by decide)).trans (BitVec.setWidth_eq _)

theorem lanesOf_ne_nil {m : Mask} (h : m ≠ 0) : lanesOf m ≠ [] := by
  intro hnil
  refine h (BitVec.eq_of_getLsbD_eq fun l hl => ?_)
  have hnone := List.filter_eq_nil_iff.mp hnil l (List.mem_range.mpr hl)
  simpa using hnone

/-- Writes to one register in several threads: each of them reads its own value, and any other thread what it read before. -/
theorem foldl_setV_getV {k l : Nat} (f : Nat → Word) (ls : List Nat) (h : l ∈ ls ∨ r.getV k l = f l) :
    (ls.foldl (fun r l => r.setV k l (f l)) r).getV k l = f l := by
  induction ls generalizing r with
  | nil => exact h.resolve_left (List.not_mem_nil)
  | cons j ls ih =>
    refine ih ?_
    by_cases hj : l = j
    · exact .inr (by rw [hj, Regs.getV_setV])
    · rw [Regs.getV_setV_ne _ _ _ _ _ _ (by unfold regKey; omega)]
      exact h.imp_left fun hm => (List.mem_cons.mp hm).resolve_left hj

theorem putVS_pc (n : Nat) : (c.putVS n v r).pc = r.pc := by
  have hput : ∀ l d u (r : Regs), (c.putInt n l d u r).pc = r.pc := fun l d u r => by
    unfold Cx.putInt
    split
    · split <;> rfl
    · split <;> rfl
    · rfl
  unfold Cx.putVS
  split
  · split
    · rfl
    · exact hput ..
  · exact List.foldlRecOn (motive := fun q : Regs => q.pc = r.pc) _ _ rfl fun q hq l _ => (hput ..).trans hq

theorem putVS_getV {k : BitVec 7} (hd : c.x.d = .reg k) {l : Nat} (hl : l ∈ lanesOf c.m) :
    (c.putVS 1 v r).getV k.toNat l = loWord (v l) := by
  have hput : c.putVS 1 v r = (lanesOf c.m).foldl (fun r l => r.setV k.toNat l (loWord (v l))) r := by
    rw [Cx.putVS, hd]
    rfl
  rw [hput, foldl_setV_getV (fun l => loWord (v l)) _ (.inl hl)]

theorem putVS_getS {k : Fin 384} (hd : c.x.d = .s k) (hm : c.m ≠ 0) : (c.putVS 1 v r).getS c.nS k.val = loWord (v (lowest c.m)) := by
  obtain ⟨l, ls, hls⟩ := List.exists_cons_of_ne_nil (lanesOf_ne_nil hm)
  rw [Cx.putVS, hd]
  simp only [hls, lowest, List.head?_cons, Option.getD_some]
  exact Regs.getS_setS ..

/-- An instruction that writes one word to D and moves on. -/
theorem wordTo_of_putVS {i : Instr} {len : Nat} (f : Nat → BitVec (32 * 1)) (h : exec i c.s = c.done len (c.putVS 1 v c.w.r))
    (hf : ∀ l, loWord (v l) = f l) : WordTo i c len 1 f := by
  refine ⟨_, ⟨h.trans (Cx.done_eq ..), ?pc⟩, fun k hd l hl => ?vector, fun k hd hm => ?scalar⟩
  case pc => rw [Regs.written_pc, putVS_pc]
  case vector =>
    rw [hd, ← hf]
    exact (Cx.src_reg ..).trans ((Regs.written_getV ..).trans (putVS_getV hd hl))
  case scalar =>
    rw [hd, ← hf]
    exact (Cx.src_s ..).trans ((Regs.written_getS ..).trans (putVS_getS hd hm))

end

/-! ### The maps of a team (R131, R363) -/

/-- The next map's slot is the lowest that no map of the team has. -/
theorem Team.freeMap_spec {tm : Team} (h : tm.freeMap < 8) :
    (∀ j < tm.freeMap, ∃ m ∈ tm.maps, m.slot = j) ∧ ∀ m ∈ tm.maps, m.slot ≠ tm.freeMap := by
  obtain ⟨n, hn⟩ : ∃ n, (List.range 8).find? (fun i => !(tm.maps.any fun (m : SMap) => m.slot = i)) = some n := by
    rw [← Option.isSome_iff_exists, ← Option.ne_none_iff_isSome]
    intro hnone
    rw [Team.freeMap, hnone] at h
    exact absurd h (by decide)
  have hfree : tm.freeMap = n := by rw [Team.freeMap, hn, Option.getD_some]
  obtain ⟨hslot, -, hlower⟩ := List.find?_range_eq_some.mp hn
  rw [hfree]
  exact ⟨fun j hj => by simpa using hlower j hj, by simpa using hslot⟩

end Sys2Proof.Machine
end

section
/-! SUPPORT. SMAP, SQRY, SFLUSH and SUNMAP: when a range is mapped, and what mapping, flushing and unmapping leave. -/

namespace Sys2Proof.Machine

/-! ### SMAP (R131, R361) -/

/-- The range lies in scratch in whole lines, meets no map of the team, and a slot is free for it. -/
def Cx.MapFits (c : Cx) (tm : Team) (g : Grid) (off n : Nat) : Prop :=
  128 ∣ off ∧ 128 ∣ n ∧ 128 ≤ n ∧ off + n ≤ g.scratch ∧ (∀ m ∈ tm.maps, off + n ≤ m.soff ∨ m.soff + m.slen ≤ off) ∧
    tm.freeMap < 8 ∧ c.s.mapsOnCore tm.die tm.core < 32

theorem Cx.mapFits_iff {c : Cx} {tm : Team} {g : Grid} {off n : Nat} : c.MapFits tm g off n ↔
    ¬ (off % 128 ≠ 0 || n % 128 ≠ 0 || n < 128 || g.scratch < off + n || 8 ≤ tm.freeMap || 32 ≤ c.s.mapsOnCore tm.die tm.core ||
      tm.maps.any fun m => m.soff < off + n && off < m.soff + m.slen : Bool) = true := by
  have hmaps : (tm.maps.any fun m => decide (m.soff < off + n) && decide (off < m.soff + m.slen)) = true ↔
      ¬ ∀ m ∈ tm.maps, off + n ≤ m.soff ∨ m.soff + m.slen ≤ off := by
    simp only [List.any_eq_true, Bool.and_eq_true, decide_eq_true_eq, not_forall, not_or, not_le, exists_prop]
  simp only [Cx.MapFits, Bool.or_eq_true, decide_eq_true_eq, hmaps, Nat.dvd_iff_mod_eq_zero]
  push Not
  tauto

section
variable {i : Instr} {c : Cx} {len : Nat} {tm : Team} {g : Grid} (he : Executes i c len) (hs : c.w.sprout = Option.none) (hm : c.m ≠ 0)
  (ht : c.s.team? c.k.teamKey = some tm)
include he hs hm ht

section
variable (hg : c.s.grid? c.k.grid = some g) (ho : c.op = .smap)
include hg ho

/-- A range that does not fit traps ALLOC. -/
theorem smap_unfit (hf : ¬ c.MapFits tm g (c.uni32 c.x.a) (c.uni32 c.x.b)) :
    Traps i c cAlloc 0 0 wholeWarp (BitVec.ofNat 64 (c.uni32 c.x.a)) := by
  rw [Traps, exec_smap_of_form c.s (ho ▸ he.form), smap, he.onceTeam_eq ho hm hs ht]
  simp only [hg, Option.map_some, Option.getD_some]
  rw [if_pos (not_not.mp (mt Cx.mapFits_iff.mpr hf))]
  rfl

variable (hf : c.MapFits tm g (c.uni32 c.x.a) (c.uni32 c.x.b))
include hf

theorem smap_misaligned (hva : ¬ 128 ∣ c.uni64 c.x.c) : Traps i c cMisalign 0 0 wholeWarp (BitVec.ofNat 64 (c.uni64 c.x.c)) := by
  rw [Traps, exec_smap_of_form c.s (ho ▸ he.form), smap, he.onceTeam_eq ho hm hs ht]
  simp only [hg, Option.map_some, Option.getD_some]
  rw [if_neg (Cx.mapFits_iff.mp hf), if_pos (mt Nat.dvd_of_mod_eq_zero hva)]
  rfl

variable (hva : 128 ∣ c.uni64 c.x.c)
include hva

/-- An address past the range of virtual addresses traps PROT. -/
theorem smap_far (hfar : 2 ^ 56 ≤ c.uni64 c.x.c) : Traps i c cProt 6 0 wholeWarp (BitVec.ofNat 64 (c.uni64 c.x.c)) := by
  rw [Traps, exec_smap_of_form c.s (ho ▸ he.form), smap, he.onceTeam_eq ho hm hs ht]
  simp only [hg, Option.map_some, Option.getD_some]
  rw [if_neg (Cx.mapFits_iff.mp hf), if_neg (not_not.mpr (Nat.mod_eq_zero_of_dvd hva)), if_pos hfar]
  rfl

/-- Else the team has the map. -/
theorem smap_maps (hnear : c.uni64 c.x.c < 2 ^ 56) (hset : c.w.settled = true) (hacq : c.w.acquiring = false) :
    ∃ t, exec i c.s = .next t ∧ SameMemory c.s t ∧ t.vault = c.s.vault ∧ t.warp? c.k = some (c.with (c.past len)) ∧
      t.team? c.k.teamKey = some { tm with
        maps := tm.maps ++ [⟨tm.freeMap, c.uni32 c.x.a, c.uni32 c.x.b, c.uni64 c.x.c, c.x.m 0 1 = 1, g.asid, false⟩] } := by
  have hasid : c.s.asidOf c.k = g.asid := by rw [State.asidOf, hg]; rfl
  suffices hrun : exec i c.s = .next ((c.s.modTeam c.k.teamKey fun tm' => { tm' with
      maps := tm'.maps ++ [⟨tm.freeMap, c.uni32 c.x.a, c.uni32 c.x.b, c.uni64 c.x.c, c.x.m 0 1 = 1, g.asid, false⟩] }).setWarp
      c.k (c.with (c.past len))) from
    ⟨_, hrun, fun _ => rfl, rfl, State.warp?_setWarp .., (State.team?_setWarp ..).trans (State.team?_modTeam ht _)⟩
  rw [exec_smap_of_form c.s (ho ▸ he.form), smap, he.onceTeam_eq ho hm hs ht]
  simp only [hg, Option.map_some, Option.getD_some]
  rw [if_neg (Cx.mapFits_iff.mp hf), if_neg (not_not.mpr (Nat.mod_eq_zero_of_dvd hva)), if_neg (Nat.not_le.mpr hnear),
    if_neg (by simp [hset, hacq]), hasid]
  rfl

end

/-! ### SQRY (R363) -/

theorem exec_sqry (ho : c.op = .sqry) :
    exec i c.s = c.done len (c.putVS 1 (fun _ => BitVec.ofNat 64 (tm.query (c.uni32 c.x.a) (c.x.m 0 4))) c.w.r) := by
  rw [exec_sqry_of_form c.s (ho ▸ he.form), sqry, he.onceTeam_eq ho hm hs ht]

end

theorem loWord_ofNat (n : Nat) : loWord (BitVec.ofNat 64 n) = BitVec.ofNat 32 n := by
  apply BitVec.eq_of_toNat_eq
  simp only [loWord, BitVec.extractLsb'_toNat, BitVec.toNat_ofNat, Nat.shiftRight_zero]
  omega

/-! ### What flushing changes (R138, R140) -/

/-- A flush changes marks of words, the L1, and the requests of its core. -/
def State.Flushed (s t : State) : Prop :=
  ∃ mb l1 rq net rj i, t = { s with mapBits := mb, l1 := l1, reqs := rq, net := net, rejected := rj, nextId := i }

/-- The removal of a map changes marks of words, leases of lines, and teams. -/
def State.Unmapped (s t : State) : Prop := ∃ mb ml ts, t = { s with mapBits := mb, mapLines := ml, teams := ts }

/-- Marking words changes marks alone. -/
theorem State.foldl_setWord_eq (s : State) (f : State → Nat → BitVec 3) (ws : List Nat) :
    ∃ mb, ws.foldl (fun s w => s.setWord w (f s w)) s = { s with mapBits := mb } := by
  refine List.foldlRecOn (motive := fun t : State => ∃ mb, t = { s with mapBits := mb }) _ _ ⟨_, rfl⟩ ?_
  rintro _ ⟨mb, rfl⟩ w -
  exact ⟨_, rfl⟩

section
variable {s t u : State}

theorem State.Flushed.refl (s : State) : s.Flushed s := ⟨_, _, _, _, _, _, rfl⟩

theorem State.Flushed.trans (h : s.Flushed t) (h' : t.Flushed u) : s.Flushed u := by
  obtain ⟨_, _, _, _, _, _, rfl⟩ := h
  obtain ⟨mb, l1, rq, net, rj, i, rfl⟩ := h'
  exact ⟨mb, l1, rq, net, rj, i, rfl⟩

theorem State.Flushed.sameMemory (h : s.Flushed t) : SameMemory s t := by
  obtain ⟨_, _, _, _, _, _, rfl⟩ := h
  exact fun _ => rfl

theorem State.Flushed.vault (h : s.Flushed t) : t.vault = s.vault := by
  obtain ⟨_, _, _, _, _, _, rfl⟩ := h
  rfl

theorem State.Flushed.warp? (h : s.Flushed t) (k : WarpKey) : t.warp? k = s.warp? k := by
  obtain ⟨_, _, _, _, _, _, rfl⟩ := h
  rfl

theorem State.Translated.vault (h : s.Translated t) : t.vault = s.vault := by
  obtain ⟨_, _, _, _, _, rfl⟩ := h
  rfl

theorem State.Requested.flushed (h : s.Requested t) : s.Flushed t := by
  obtain ⟨rq, net, rj, i, rfl⟩ := h
  exact ⟨_, _, rq, net, rj, i, rfl⟩

/-- A flushed line: its clean words and its L1 copy apart, one request for it leaves. -/
theorem State.flushLine_eq (s : State) (die core vline pa : Nat) (v : User) : ∃ mb l1 m q,
    s.flushLine die core vline pa v = State.request { s with mapBits := mb, l1 := l1 } die core m q ∧
      m.ty = .storeReq ∧ m.addr = lineAddr (lineOf pa) := by
  obtain ⟨mb, h⟩ := s.foldl_setWord_eq (fun s w => s.wordBits w &&& ~~~bDirty) (wordsOf vline)
  have heq : s.flushLine die core vline pa v = State.request (State.l1Drop { s with mapBits := mb } die core (lineOf pa)) die core
      { id := 0, ty := .storeReq, src := 0, dst := 0, addr := lineAddr (lineOf pa), mask := s.dirtyMask vline,
        data := BitVec.ofNat 1024 (readBytes s.vault (vline * 128) 128) } (Req.of (lineOf pa) 0 false [v]) := by
    rw [State.flushLine, h]
  exact ⟨mb, _, _, _, heq, rfl, rfl⟩

variable {die core vline pa : Nat} {v : User}

theorem State.flushLine_flushed : s.Flushed (s.flushLine die core vline pa v) := by
  obtain ⟨mb, l1, m, q, h, -, -⟩ := s.flushLine_eq die core vline pa v
  rw [h]
  exact .trans ⟨mb, l1, _, _, _, _, rfl⟩ (State.request_requested m q).flushed

theorem State.flushLine_sent : ∃ o, (s.flushLine die core vline pa v).sent o ∧ o.ty = .storeReq ∧ o.addr = lineAddr (lineOf pa) := by
  obtain ⟨mb, l1, m, q, h, hty, haddr⟩ := s.flushLine_eq die core vline pa v
  obtain ⟨o, ho, hty', haddr'⟩ := State.request_sent (s := { s with mapBits := mb, l1 := l1 }) (die := die) (core := core) m q
  exact ⟨o, h ▸ ho, hty'.trans hty, haddr'.trans haddr⟩

theorem State.flushLine_keeps_sent {o : Msg} (ho : s.sent o) : (s.flushLine die core vline pa v).sent o := by
  obtain ⟨mb, l1, m, q, h, -, -⟩ := s.flushLine_eq die core vline pa v
  rw [h]
  exact State.request_keeps_sent (s := { s with mapBits := mb, l1 := l1 }) m q ho

/-- A line is flushed for outstanding instruction `id`; the tag of its request is kept. -/
def State.sendFlush (k : WarpKey) (id die core : Nat) (p : State × List (Nat × Bool)) (q : Nat × Nat) : State × List (Nat × Bool) :=
  (p.1.flushLine die core q.1 q.2 (.out k id), p.2 ++ [(p.1.nextId, isCompanion q.2)])

variable {k : WarpKey} {id : Nat} {p : State × List (Nat × Bool)}

theorem State.foldl_sendFlush_flushed (pas : List (Nat × Nat)) : p.1.Flushed (pas.foldl (State.sendFlush k id die core) p).1 :=
  List.foldlRecOn (motive := fun q : State × List (Nat × Bool) => p.1.Flushed q.1) _ _ (.refl _) fun _ hq _ _ => hq.trans flushLine_flushed

theorem State.foldl_sendFlush_length (pas : List (Nat × Nat)) :
    (pas.foldl (State.sendFlush k id die core) p).2.length = p.2.length + pas.length := by
  induction pas generalizing p with
  | nil => rfl
  | cons q pas ih =>
    rw [List.foldl_cons, ih]
    simp only [State.sendFlush, List.length_append, List.length_cons, List.length_nil]
    omega

/-- Every line's request has been sent. -/
theorem State.foldl_sendFlush_sent {q : Nat × Nat} {pas : List (Nat × Nat)} (h : q ∈ pas) :
    ∃ o, (pas.foldl (State.sendFlush k id die core) p).1.sent o ∧ o.ty = .storeReq ∧ o.addr = lineAddr (lineOf q.2) := by
  induction pas generalizing p with
  | nil => cases h
  | cons q' pas ih =>
    rcases List.mem_cons.mp h with rfl | h
    · obtain ⟨o, ho, hty, haddr⟩ := flushLine_sent (s := p.1) (die := die) (core := core) (vline := q.1) (pa := q.2) (v := .out k id)
      exact ⟨o, List.foldlRecOn (motive := fun r : State × List (Nat × Bool) => r.1.sent o) pas _ ho fun _ hr _ _ => flushLine_keeps_sent hr, hty, haddr⟩
    · exact ih h

/-! ### Unmapping -/

/-- A team without a map: every other map stays, and no map has its slot. -/
theorem State.removeMap_spec {t : TeamKey} {tm : Team} {m : SMap} (ht : s.team? t = some tm) (hm : m ∈ tm.maps) :
    s.Unmapped (s.removeMap t m.slot) ∧
      (s.removeMap t m.slot).team? t = some { tm with maps := tm.maps.filter fun o => o.slot ≠ m.slot } := by
  obtain ⟨m', hm'⟩ : ∃ m', tm.maps.find? (fun o => decide (o.slot = m.slot)) = some m' := by
    rw [← Option.isSome_iff_exists, List.find?_isSome]
    exact ⟨m, hm, decide_eq_true rfl⟩
  have hmarks : ∃ mb ml, (tm.lines m'.soff m'.slen).foldl (fun s l => (wordsOf l).foldl (fun s w => s.setWord w 0)
      { s with mapLines := s.mapLines.put ⟨0, 0⟩ l ⟨0, 0⟩ }) s = { s with mapBits := mb, mapLines := ml } := by
    refine List.foldlRecOn (motive := fun u : State => ∃ mb ml, u = { s with mapBits := mb, mapLines := ml }) _ _ ⟨_, _, rfl⟩ ?_
    rintro _ ⟨mb, ml, rfl⟩ l -
    obtain ⟨mb', h⟩ := State.foldl_setWord_eq { s with mapBits := mb, mapLines := ml.put ⟨0, 0⟩ l ⟨0, 0⟩ } (fun _ _ => 0) (wordsOf l)
    exact ⟨mb', _, h⟩
  obtain ⟨mb, ml, hmarks⟩ := hmarks
  have hremove : s.removeMap t m.slot = State.modTeam { s with mapBits := mb, mapLines := ml } t fun tm =>
      { tm with maps := tm.maps.filter fun o => o.slot ≠ m.slot } := by
    simp only [State.removeMap, ht, hm', hmarks]
  rw [hremove]
  exact ⟨⟨mb, ml, _, rfl⟩, State.team?_modTeam (by exact ht) _⟩

end

/-! ### Translating the lines of a flush (R340, R362) -/

theorem Cx.flushPas_spec {c : Cx} {asid : Nat} {s s' : State} {ls acc pas : List (Nat × Nat)} (h : c.flushPas asid s ls acc = .ok (s', pas)) :
    s.Translated s' ∧ pas.length = acc.length + ls.length := by
  induction ls generalizing s acc with
  | nil =>
    cases h
    exact ⟨.refl _, List.length_reverse⟩
  | cons q ls ih =>
    unfold Cx.flushPas at h
    split at h
    · cases h
    · have htr := s.translate_translated c.w.die c.w.core asid kStore q.2
      split at h <;> rename_i hx <;> rw [hx] at htr
      · obtain ⟨htr', hlen⟩ := ih h
        exact ⟨htr.trans htr', hlen.trans (by simp only [List.length_cons]; omega)⟩
      · cases h
      · cases h
      · cases h

end Sys2Proof.Machine
end

section
/-! SUPPORT. SFLUSH and SUNMAP, with and without dirty lines, and O27 settled. -/

namespace Sys2Proof.Machine

/-! ### The map that goes -/

/-- Where it is to be removed and nothing is on its way, the map is removed. -/
def State.unmapEnds (s : State) (unmap : Bool) (t : TeamKey) (slot : Nat) : State := if unmap then s.removeMap t slot else s

/-- Else it stays until its last line has been written (R140). -/
def State.unmapBegins (s : State) (unmap : Bool) (t : TeamKey) (slot : Nat) : State :=
  if unmap then s.modTeam t fun tm => { tm with maps := tm.maps.map fun o => if o.slot = slot then { o with removing := true } else o } else s

/-- What a flush leaves outstanding: its requests, by tag. -/
def Cx.flushOut (c : Cx) (s : State) (id : Nat) (acks : List (Nat × Bool)) (slot : Nat) : Out :=
  { c.newOut s .flush .kg [] [] false false with id := id, acks := acks, slot := slot }

section
variable {s : State} {unmap : Bool} {t : TeamKey} {tm : Team} {m : SMap}

theorem State.unmapEnds_spec (ht : s.team? t = some tm) (hm : unmap = true → m ∈ tm.maps) : s.Unmapped (s.unmapEnds unmap t m.slot) ∧
    (unmap = true → (s.unmapEnds unmap t m.slot).team? t = some { tm with maps := tm.maps.filter fun o => o.slot ≠ m.slot }) := by
  cases unmap with
  | false => exact ⟨⟨_, _, _, rfl⟩, nofun⟩
  | true =>
    obtain ⟨hun, hteam⟩ := State.removeMap_spec ht (hm rfl)
    exact ⟨hun, fun _ => hteam⟩

theorem State.unmapBegins_eq (s : State) (unmap : Bool) (t : TeamKey) (slot : Nat) : ∃ ts, s.unmapBegins unmap t slot = { s with teams := ts } := by
  cases unmap <;> exact ⟨_, rfl⟩

end

/-! ### The flush (R138, R140, R362) -/

section
variable {c : Cx} {len : Nat} {tm : Team} {m : SMap} {off n : Nat} {unmap : Bool}
  (hw : c.s.warp? c.k = some c.w) (hk : c.mayStart .kg false = true) (hv : c.w.vaultReached = true)
include hw hk hv

/-- With no dirty line the instruction goes on at once, and an unmapped range has no map. -/
theorem flush_clean (ht : c.s.team? c.k.teamKey = some tm) (hm : unmap = true → m ∈ tm.maps) (hd : c.s.dirtyLines tm m off n = []) :
    ∃ t, c.flush len tm m off n unmap = .next t ∧ SameMemory c.s t ∧ t.vault = c.s.vault ∧ t.warp? c.k = some (c.with (c.past len)) ∧
      (unmap = true → ∀ tm', t.team? c.k.teamKey = some tm' → ∀ o ∈ tm'.maps, o.slot ≠ m.slot) := by
  obtain ⟨⟨mb, ml, ts, hu⟩, hteam⟩ := State.unmapEnds_spec (s := { c.s with nextId := c.s.nextId + 1 }) (by exact ht) hm
  obtain ⟨u, hdef⟩ : ∃ u, u = State.unmapEnds { c.s with nextId := c.s.nextId + 1 } unmap c.k.teamKey m.slot := ⟨_, rfl⟩
  rw [← hdef] at hu hteam
  have huw : u.warp? c.k = some c.w := by rw [hu]; exact hw
  have hrun : c.flush len tm m off n unmap = .next (u.setWarp c.k (c.with (c.past len))) := by
    have hgo : c.flush len tm m off n unmap = match u.warp? c.k with | some w => u.done c.k w w.r len | none => .next u := by
      simp only [Cx.flush, hk, hv, hd, hdef]
      rfl
    rw [hgo, huw]
    rfl
  refine ⟨_, hrun, fun a => ?memory, ?vault, State.warp?_setWarp .., fun hun tm' htm' o ho => ?gone⟩
  case memory => rw [hu]; rfl
  case vault => rw [hu]; rfl
  case gone =>
    rw [State.team?_setWarp, hteam hun] at htm'
    cases htm'
    exact of_decide_eq_true (List.mem_filter.mp ho).2

/-- Dirty lines are sent, each as a store, and the instruction is outstanding in KG. -/
theorem flush_dirty {s' : State} {pas : List (Nat × Nat)} (hd : c.s.dirtyLines tm m off n ≠ [])
    (hp : c.flushPas m.asid c.s (c.s.dirtyLines tm m off n) [] = .ok (s', pas)) (hs : s'.canSend c.k c.w pas.length = true) :
    ∃ t o, c.flush len tm m off n unmap = .next t ∧ SameMemory c.s t ∧ t.vault = c.s.vault ∧
      t.warp? c.k = some { c.w with r := c.past len, outs := c.w.outs ++ [o], wait := .none } ∧ o.ctr = some .kg ∧
      ∀ q ∈ pas, ∃ r, t.sent r ∧ r.ty = .storeReq ∧ r.addr = lineAddr (lineOf q.2) := by
  obtain ⟨htr, hlen⟩ := Cx.flushPas_spec hp
  obtain ⟨p, hfold⟩ : ∃ p, pas.foldl (State.sendFlush c.k s'.nextId c.w.die c.w.core) ({ s' with nextId := s'.nextId + 1 }, []) = p := ⟨_, rfl⟩
  have hacks : p.2 ≠ [] := by
    have hsent : p.2.length = 0 + pas.length := hfold ▸ State.foldl_sendFlush_length pas
    have hsome := List.length_pos_of_ne_nil hd
    exact List.ne_nil_of_length_pos (by rw [hsent, hlen, List.length_nil]; omega)
  obtain ⟨ts, hu⟩ := p.1.unmapBegins_eq unmap c.k.teamKey m.slot
  obtain ⟨u, hdef⟩ : ∃ u, u = p.1.unmapBegins unmap c.k.teamKey m.slot := ⟨_, rfl⟩
  rw [← hdef] at hu
  have hrun : c.flush len tm m off n unmap = .next (u.addOut c.k (c.flushOut u s'.nextId p.2 (if unmap then m.slot + 1 else 0)) len .none) := by
    have hmap : (c.s.dirtyLines tm m off n).map (fun p => (p.1, p.2)) = c.s.dirtyLines tm m off n := List.map_id _
    have hsend : pas.foldl (fun (p : State × List (Nat × Bool)) q =>
        (p.1.flushLine c.w.die c.w.core q.1 q.2 (.out c.k s'.nextId), p.2 ++ [(p.1.nextId, isCompanion q.2)]))
        ({ s' with nextId := s'.nextId + 1 }, []) = p := hfold
    rw [Cx.flush]
    dsimp only
    rw [if_neg (by simp [hk, hv]), hmap, hp]
    dsimp only
    rw [if_neg (by simp [hs]), hsend, if_neg hacks, if_neg hacks, hdef]
    rfl
  have hfl : s'.Flushed p.1 := hfold ▸ .trans ⟨_, _, _, _, _, _, rfl⟩ (State.foldl_sendFlush_flushed pas)
  refine ⟨_, _, hrun, fun a => ?memory, ?vault, State.warp?_addOut ?warp .., rfl, fun q hq => ?sent⟩
  case memory => exact hu ▸ (hfl.sameMemory a).trans (htr.sameMemory a)
  case vault => exact hu ▸ hfl.vault.trans htr.vault
  case warp => exact hu ▸ (hfl.warp? c.k).trans ((htr.warp? c.k).trans hw)
  case sent =>
    have hout := State.foldl_sendFlush_sent (k := c.k) (id := s'.nextId) (die := c.w.die) (core := c.w.core)
      (p := ({ s' with nextId := s'.nextId + 1 }, [])) hq
    rw [hfold] at hout
    exact hu ▸ hout

end

/-! ### The instructions (R362) -/

section
variable {i : Instr} {c : Cx} {len : Nat} {tm : Team} {m : SMap} (he : Executes i c len) (hs : c.w.sprout = Option.none) (hm : c.m ≠ 0)
  (ht : c.s.team? c.k.teamKey = some tm)
include he hs hm ht

/-- SFLUSH of a part of a map that is not whole lines traps ALLOC. -/
theorem sflush_ragged (ho : c.op = .sflush)
    (hf : tm.maps.find? (fun m => m.soff ≤ c.uni32 c.x.a && c.uni32 c.x.a + c.uni32 c.x.b ≤ m.soff + m.slen) = some m)
    (hr : ¬ (128 ∣ c.uni32 c.x.a ∧ 128 ∣ c.uni32 c.x.b ∧ c.uni32 c.x.b ≠ 0)) : Traps i c cAlloc 0 0 wholeWarp 0 := by
  rw [Traps, exec_sflush_of_form c.s (ho ▸ he.form), sflush, he.onceTeam_eq ho hm hs ht]
  simp only [hf]
  rw [if_pos ?_]
  · rfl
  · simp only [Bool.or_eq_true, decide_eq_true_eq]
    simp only [Nat.dvd_iff_mod_eq_zero] at hr
    tauto

/-- SFLUSH flushes whole lines of a map. -/
theorem exec_sflush (ho : c.op = .sflush)
    (hf : tm.maps.find? (fun m => m.soff ≤ c.uni32 c.x.a && c.uni32 c.x.a + c.uni32 c.x.b ≤ m.soff + m.slen) = some m)
    (hr : 128 ∣ c.uni32 c.x.a ∧ 128 ∣ c.uni32 c.x.b ∧ c.uni32 c.x.b ≠ 0) :
    exec i c.s = c.flush len tm m (c.uni32 c.x.a) (c.uni32 c.x.b) false := by
  rw [exec_sflush_of_form c.s (ho ▸ he.form), sflush, he.onceTeam_eq ho hm hs ht]
  simp only [hf]
  rw [if_neg ?_]
  simp only [Bool.or_eq_true, decide_eq_true_eq]
  simp only [Nat.dvd_iff_mod_eq_zero] at hr
  tauto

/-- SUNMAP flushes the map that it removes. -/
theorem exec_sunmap (ho : c.op = .sunmap)
    (hf : tm.maps.find? (fun m => m.soff = c.uni32 c.x.a && m.slen = c.uni32 c.x.b) = some m) (hr : m.removing = false) :
    exec i c.s = c.flush len tm m (c.uni32 c.x.a) (c.uni32 c.x.b) true := by
  rw [exec_sunmap_of_form c.s (ho ▸ he.form), sunmap, he.onceTeam_eq ho hm hs ht]
  simp only [hf]
  rw [if_neg (by rw [hr]; decide)]

end

/-- The low word of a map's global address. -/
theorem SMap.field_va (m : SMap) : BitVec.ofNat 32 (m.field 2) = BitVec.ofNat 32 m.va :=
  BitVec.eq_of_toNat_eq (by simp [SMap.field])

/-- Settles O27, instruction by instruction. -/
theorem mapsAndFlushes : Obligations.MapsAndFlushes := by
  refine ⟨fun i c len tm g he hs hm ht hg => ⟨fun ho => ?smap, fun ho => ?sqry⟩, ?flush⟩
  case smap =>
    have hva : BitVec.ofNat 64 (c.uni64 c.x.c) = c.i64 (lowest c.m) c.x.c :=
      (BitVec.ofNat_toNat ..).trans (BitVec.setWidth_eq _)
    refine ⟨smap_unfit he hs hm ht hg ho, fun hf hodd => hva ▸ smap_misaligned he hs hm ht hg ho hf hodd,
      fun hf hline hfar => hva ▸ smap_far he hs hm ht hg ho hf hline hfar, fun hf hline hnear hset hacq => ?_⟩
    obtain ⟨t, hrun, hmem, hvault, hwarp, hteam⟩ := smap_maps he hs hm ht hg ho hf hline hnear hset hacq
    obtain ⟨-, -, -, -, -, hfree, -⟩ := hf
    exact ⟨t, hrun, hmem, hvault, hwarp, hteam, Team.freeMap_spec hfree⟩
  case sqry =>
    refine wordTo_of_putVS _ (exec_sqry he hs hm ht ho) fun l => ?_
    rw [loWord_ofNat, Cx.uni32, Team.query]
    cases tm.maps.find? fun m => m.slot = (c.i32 (lowest c.m) c.x.a).toNat with
    | none => rfl
    | some m =>
      rcases c.x.m 0 4 with _ | _ | _ | _ | _
      · rfl
      · rfl
      · exact m.field_va
      · rfl
      · rfl
  case flush =>
    intro i c len tm m he hs hm hop ht off n hsf hsu hk hv dirty
    refine ⟨fun ho hr => sflush_ragged he hs hm ht ho (hsf ho) hr, fun hr => ?_⟩
    have hrun : ∃ unmap, exec i c.s = c.flush len tm m off n unmap ∧ (unmap = true → m ∈ tm.maps) ∧ (c.op = .sunmap → unmap = true) := by
      rcases List.mem_pair.mp hop with ho | ho
      · exact ⟨false, exec_sflush he hs hm ht ho (hsf ho) (hr ho), nofun, by rw [ho]; nofun⟩
      · obtain ⟨hfind, hrem⟩ := hsu ho
        exact ⟨true, exec_sunmap he hs hm ht ho hfind hrem, fun _ => List.mem_of_find?_eq_some hfind, fun _ => rfl⟩
    obtain ⟨unmap, hrun, hmaps, hunmap⟩ := hrun
    rw [hrun]
    refine ⟨fun hd => ?_, fun s' pas hd hp hs' => flush_dirty he.warp hk hv hd hp hs'⟩
    obtain ⟨t, hnext, hmem, hvault, hwarp, hgone⟩ := flush_clean (len := len) he.warp hk hv ht hmaps hd
    exact ⟨t, hnext, hmem, hvault, hwarp, fun ho => hgone (hunmap ho)⟩

end Sys2Proof.Machine
end

section
/-! SUPPORT. Barrier registers: what an arrival does, what is read of a register after it is set, and BINIT, BARR, BWAIT and BTEST;
O28 and O29 settled. -/

namespace Sys2Proof.Machine

/-! ### An arrival (R158) -/

section
variable {b : BarReg} {n : Nat} {copy : Option Bool}

/-- An arrival before the last is counted. -/
theorem BarReg.arrive_counts (h : b.arrived + n < b.expected) :
    b.arrive n copy =
      { b with arrived := b.arrived + n, pend := b.pend - (if copy.isSome then 1 else 0), err := b.err || copy == some true } := by
  rw [BarReg.arrive]
  dsimp only
  rw [if_neg (Nat.not_le.mpr h), beq_eq_decide]
  cases copy <;> rfl

/-- The last arrival ends the phase: what arrived beyond it is carried over, and the errors met become the phase's. -/
theorem BarReg.arrive_ends (h : b.expected ≤ b.arrived + n) :
    b.arrive n copy =
      { b with arrived := b.arrived + n - b.expected, pend := b.pend - (if copy.isSome then 1 else 0), err := false,
               lastErr := b.err || copy == some true, phase := !b.phase } := by
  rw [BarReg.arrive]
  dsimp only
  rw [if_pos h, beq_eq_decide]
  cases copy <;> rfl

/-- An arrival of a warp concerns no copy: it brings no error. -/
theorem BarReg.arrive_none : b.arrive n none =
    if b.arrived + n < b.expected then { b with arrived := b.arrived + n }
    else { b with arrived := b.arrived + n - b.expected, lastErr := b.err, err := false, phase := !b.phase } := by
  have herr : (b.err || (none : Option Bool) == some true) = b.err := Bool.or_false _
  split
  case isTrue h => rw [BarReg.arrive_counts h, herr]; rfl
  case isFalse h => rw [BarReg.arrive_ends (Nat.not_lt.mp h), herr]; rfl

/-- The word of a register whose fields fit their places. -/
theorem BarReg.word_eq (ha : b.arrived < 2 ^ 10) (he : b.expected < 2 ^ 10) (hp : b.pend < 2 ^ 7) :
    b.word = b.arrived + b.expected * 2 ^ 10 + b.pend * 2 ^ 20 + b.phase.toNat * 2 ^ 29 + b.lastErr.toNat * 2 ^ 30 + b.err.toNat * 2 ^ 31 := by
  have hbit : ∀ (p : Bool) (v : Nat), (if p then v else 0) = p.toNat * v := fun p v => by cases p <;> simp
  simp only [BarReg.word, Nat.mod_eq_of_lt ha, Nat.mod_eq_of_lt he, Nat.mod_eq_of_lt hp, hbit]

end

/-- Settles O29: an arrival before the last, and the last one. -/
theorem barrierArrival : Obligations.BarrierArrival := by
  intro b n copy hlt hle
  dsimp only
  rcases Nat.lt_or_ge (b.arrived + n) b.expected with h | h
  · rw [BarReg.arrive_counts h]
    exact ⟨rfl, h, rfl, fun _ => ⟨rfl, rfl, rfl, rfl⟩, fun h' => absurd h (Nat.not_lt.mpr h')⟩
  · rw [BarReg.arrive_ends h]
    have hcarry : b.arrived + n - b.expected < b.expected := by omega
    exact ⟨rfl, hcarry, rfl, fun h' => absurd h' (Nat.not_lt.mpr h), fun _ => ⟨Nat.sub_add_cancel h, rfl, rfl, rfl⟩⟩

/-! ### The registers of a team (R157) -/

/-- The instruction moves on with its barrier register set to b, and every other register of the team as it was. -/
def SetsBar (i : Instr) (c : Cx) (len : Nat) (b : BarReg) : Prop :=
  ∃ t, exec i c.s = .next t ∧ SameMemory c.s t ∧ t.warp? c.k = some (c.with (c.past len)) ∧
    t.bar c.k.teamKey c.barNum = b ∧ ∀ j ≠ c.barNum, t.bar c.k.teamKey j = c.s.bar c.k.teamKey j

theorem State.bar_of_team {s : State} {t : TeamKey} {tm : Team} (h : s.team? t = some tm) (n : Nat) :
    s.bar t n = tm.bars.get BarReg.zero n := by
  rw [State.bar, h]
  rfl

section
variable {i : Instr} {c : Cx} {len : Nat} {tm : Team}

/-- An instruction that moves on from a state in which one barrier register of its team has been written. -/
theorem setsBar_of_team {u : State} {tm' : Team} {b : BarReg} (ht : c.s.team? c.k.teamKey = some tm)
    (hrun : exec i c.s = .next (u.setWarp c.k (c.with (c.past len)))) (hmem : SameMemory c.s u) (hu : u.team? c.k.teamKey = some tm')
    (hb : tm'.bars = tm.bars.put BarReg.zero c.barNum b) : SetsBar i c len b := by
  have hbar : ∀ j, (u.setWarp c.k (c.with (c.past len))).bar c.k.teamKey j = (tm.bars.put BarReg.zero c.barNum b).get BarReg.zero j :=
    fun j => hb ▸ State.bar_of_team ((State.team?_setWarp ..).trans hu) j
  refine ⟨_, hrun, hmem, State.warp?_setWarp .., ?same, fun j hj => ?other⟩
  case same => rw [hbar, Store.get_put_eq]
  case other => rw [hbar, Store.get_put_ne _ _ _ _ _ hj, State.bar_of_team ht]

/-! ### The instructions (R159, R368) -/

theorem exec_binit_of_form {x : Ext} (s : State) (h : instrForm i = some (.binit, x, len)) : exec i s = binit .binit x len s := by
  cases i <;> cases h
  rfl

theorem exec_barr_of_form {x : Ext} (s : State) (h : instrForm i = some (.barr, x, len)) : exec i s = barr .barr x len s := by
  cases i <;> cases h
  rfl

theorem exec_bwait_of_form {x : Ext} (s : State) (h : instrForm i = some (.bwait, x, len)) : exec i s = bwait .bwait x len s := by
  cases i <;> cases h
  rfl

theorem exec_btest_of_form {x : Ext} (s : State) (h : instrForm i = some (.btest, x, len)) : exec i s = btest .btest x len s := by
  cases i <;> cases h
  rfl

variable (he : Executes i c len) (hs : c.w.sprout = Option.none) (hm : c.m ≠ 0) (ht : c.s.team? c.k.teamKey = some tm)
include he hs hm ht

/-- A count of 0 or above 1,023 is refused. -/
theorem binit_unfit (ho : c.op = .binit) (hn : c.uni32 c.x.b = 0 ∨ 1023 < c.uni32 c.x.b) : Traps i c cAlloc 0 0 wholeWarp 0 := by
  rw [Traps, exec_binit_of_form c.s (ho ▸ he.form), binit, he.onceTeam_eq ho hm hs ht, if_pos (by simpa using hn)]
  rfl

/-- The register begins its first phase; copies that are to arrive on it stay pending. -/
theorem binit_sets (ho : c.op = .binit) (hpos : 0 < c.uni32 c.x.b) (hle : c.uni32 c.x.b ≤ 1023) (hset : c.w.settled = true) :
    SetsBar i c len ⟨false, false, false, (c.s.bar c.k.teamKey c.barNum).pend, c.uni32 c.x.b, 0⟩ := by
  refine setsBar_of_team (u := ?state) (tm' := ?after) ht ?run ?memory ?team ?bars
  case run =>
    rw [exec_binit_of_form c.s (ho ▸ he.form), binit, he.onceTeam_eq ho hm hs ht, if_neg (by simp; omega), if_neg (by simp [hset])]
    rfl
  case team => exact State.team?_modTeam (State.team?_modTeam ht _) _
  case memory => exact fun _ => rfl
  case bars => rfl

/-- A count of 0, above 1,023 or above EXPECTED is refused, and so is a register that is not in use. -/
theorem barr_unfit (ho : c.op = .barr) (hn : c.uni32 c.x.b = 0 ∨ 1023 < c.uni32 c.x.b ∨ (c.s.bar c.k.teamKey c.barNum).expected = 0 ∨
    (c.s.bar c.k.teamKey c.barNum).expected < c.uni32 c.x.b) : Traps i c cAlloc 0 0 wholeWarp 0 := by
  rw [Traps, exec_barr_of_form c.s (ho ▸ he.form), barr, he.onceTeam_eq ho hm hs ht, if_pos (by simpa [or_assoc] using hn)]
  rfl

/-- Once the warp's fence has been done it arrives. -/
theorem barr_sets (ho : c.op = .barr) (hpos : 0 < c.uni32 c.x.b) (hle : c.uni32 c.x.b ≤ 1023)
    (hfit : c.uni32 c.x.b ≤ (c.s.bar c.k.teamKey c.barNum).expected) (hset : c.w.settled = true)
    (hacq : c.w.acquiring = false) (hf : c.s.fenceHolds c.w 0 = true) :
    SetsBar i c len ((c.s.bar c.k.teamKey c.barNum).arrive (c.uni32 c.x.b) none) := by
  refine setsBar_of_team (u := ?state) (tm' := ?after) ht ?run ?memory ?team ?bars
  case run =>
    rw [exec_barr_of_form c.s (ho ▸ he.form), barr, he.onceTeam_eq ho hm hs ht]
    dsimp only
    rw [if_neg (by simp; omega), if_neg (by simp [hset, hacq, hf])]
    rfl
  case team => exact State.team?_modTeam ht _
  case memory => exact fun _ => rfl
  case bars => rfl

/-- A register that is not in use cannot be waited for. -/
theorem bwait_unused (ho : c.op = .bwait) (hu : (c.s.bar c.k.teamKey c.barNum).expected = 0) : Traps i c cAlloc 0 0 wholeWarp 0 := by
  rw [Traps, exec_bwait_of_form c.s (ho ▸ he.form), bwait, he.onceTeam_eq ho hm hs ht, if_pos hu]
  rfl

section
variable (ho : c.op = .bwait) (hu : (c.s.bar c.k.teamKey c.barNum).expected ≠ 0)
include ho hu

/-- The warp waits in the phase that it names. -/
theorem bwait_waits (hp : (c.s.bar c.k.teamKey c.barNum).phase = (c.x.imm.toNat % 2 = 1 : Bool)) : Waits i c := by
  rw [Waits, exec_bwait_of_form c.s (ho ▸ he.form), bwait, he.onceTeam_eq ho hm hs ht, if_neg hu, if_pos (by simp [hp])]

variable (hp : (c.s.bar c.k.teamKey c.barNum).phase ≠ (c.x.imm.toNat % 2 = 1 : Bool)) (hset : c.w.settled = true)
include hp hset

/-- After a phase without an error it goes on. -/
theorem bwait_passes (hl : (c.s.bar c.k.teamKey c.barNum).lastErr = false) : Becomes i c (c.with (c.past len)) := by
  have hwrites : writesOf c.op c.x = [] := by rw [ho]; rfl
  rw [Becomes, exec_bwait_of_form c.s (ho ▸ he.form), bwait, he.onceTeam_eq ho hm hs ht, if_neg hu, if_neg (by simp [hp, hset]),
    if_neg (by simp [hl]), Cx.done_eq, Regs.written_none _ hwrites]
  rfl

/-- After a phase with an error it traps COPYERR, and the record of the register is empty again. -/
theorem bwait_copyerr (hl : (c.s.bar c.k.teamKey c.barNum).lastErr = true) :
    ∃ s' : State, exec i c.s = .next (s'.trap c.k c.w ⟨cCopyerr, (tm.cerrs.get CopyErr.zero c.barNum).cause, c.barNum, wholeWarp,
        BitVec.ofNat 64 (tm.cerrs.get CopyErr.zero c.barNum).addr, c.w.r.pc, false, false, false⟩) ∧
      s'.team? c.k.teamKey = some { tm with cerrs := tm.cerrs.put CopyErr.zero c.barNum CopyErr.zero } := by
  refine ⟨_, ?run, State.team?_modTeam ht fun tm => { tm with cerrs := tm.cerrs.put CopyErr.zero c.barNum CopyErr.zero }⟩
  rw [exec_bwait_of_form c.s (ho ▸ he.form), bwait, he.onceTeam_eq ho hm hs ht, if_neg hu, if_neg (by simp [hp, hset]), if_pos hl]
  rfl

end

theorem exec_btest (ho : c.op = .btest) :
    exec i c.s = c.done len (c.putVS 1 (fun _ => BitVec.ofNat 64 (c.s.bar c.k.teamKey c.barNum).word) c.w.r) := by
  rw [exec_btest_of_form c.s (ho ▸ he.form), btest, he.onceTeam_eq ho hm hs ht]

end

/-- Settles O28, instruction by instruction. -/
theorem barrierRegisters : Obligations.BarrierRegisters := by
  intro i c len tm he hs hm ht key n b count sets
  refine ⟨fun ho => ?binit, fun ho => ?barr, fun ho => ?bwait, fun ho ha hx hp => ?btest⟩
  case binit => exact ⟨binit_unfit he hs hm ht ho, binit_sets he hs hm ht ho⟩
  case barr =>
    refine ⟨barr_unfit he hs hm ht ho, fun hpos hle _ hfit hset hacq hf => ?_⟩
    have hsets := barr_sets he hs hm ht ho hpos hle hfit hset hacq hf
    rwa [BarReg.arrive_none] at hsets
  case bwait =>
    exact ⟨bwait_unused he hs hm ht ho, bwait_waits he hs hm ht ho, bwait_passes he hs hm ht ho, bwait_copyerr he hs hm ht ho⟩
  case btest =>
    refine wordTo_of_putVS _ (exec_btest he hs hm ht ho) fun _ => ?_
    rw [loWord_ofNat, BarReg.word_eq ha hx hp]

end Sys2Proof.Machine
end

section
/-! SUPPORT. Copy instructions: the end of an arrival, and what CPY, CPYG, CPYA and CPYQ do; O30 settled. -/

namespace Sys2Proof.Machine

/-! ### The end of a copy instruction (R142, R151) -/

/-- Writes to one predicate register in several threads: each of them reads what was written, and any other thread what it read before. -/
theorem foldl_putE_getP {p : BitVec 4} (hp : p ≠ 15) {l : Nat} {e : Tri} {r : Regs} (ls : List Nat) (h : l ∈ ls ∨ r.getP p.toNat l = e) :
    (ls.foldl (fun r l => putE l (.p p) e r) r).getP p.toNat l = e := by
  have hp15 : p.toNat ≠ 15 := fun h => hp (BitVec.eq_of_toNat_eq h)
  induction ls generalizing r with
  | nil => exact h.resolve_left List.not_mem_nil
  | cons j ls ih =>
    refine ih ?_
    by_cases hj : l = j
    · exact .inr (hj ▸ Regs.getP_setP _ _ _ _ hp15)
    · refine h.imp (fun hm => (List.mem_cons.mp hm).resolve_left hj) fun hr => ?_
      exact (Regs.getP_setP_ne _ _ _ _ _ _ (by unfold regKey; omega)).trans hr

/-- Only predicates are written: no program counter and no count of copies. -/
theorem putE_keeps (l : Nat) (x : Sel2) (e : Tri) (r : Regs) : (putE l x e r).pc = r.pc ∧ (putE l x e r).copySeq = r.copySeq := by
  cases x with
  | p n => exact ⟨Regs.setP_pc .., Regs.setP_copySeq ..⟩
  | reg n => exact ⟨rfl, rfl⟩
  | none => exact ⟨rfl, rfl⟩

/-- The warp is past its copy instruction, has counted it, and under `.try` has e in its predicate destination. -/
def Cx.Counted (c : Cx) (len : Nat) (e : Tri) (t : State) : Prop :=
  ∃ r, t.warp? c.k = some (c.with r) ∧ r.pc = (c.past len).pc ∧ r.copySeq = c.w.r.copySeq + 1 ∧
    (c.x.m 0 1 = 1 → ∀ l ∈ lanesOf c.m, ∀ n, c.x.e = .p n → n ≠ 15 → r.getP n.toNat l = e)

/-- The warp's registers at the end: the copy counted, and under `.try` whether it was accepted. -/
def Cx.copiedRegs (c : Cx) (ok : Bool) : Regs :=
  (lanesOf c.m).foldl (fun r l => if c.x.m 0 1 = 1 then putE l c.x.e (if ok then Tri.tt else Tri.ff) r else r) c.w.r.nextCopy

theorem Cx.copiedRegs_keeps (c : Cx) (ok : Bool) :
    (c.copiedRegs ok).pc = c.w.r.pc ∧ (c.copiedRegs ok).copySeq = c.w.r.copySeq + 1 := by
  refine List.foldlRecOn (motive := fun r : Regs => r.pc = c.w.r.pc ∧ r.copySeq = c.w.r.copySeq + 1) _ _ ⟨rfl, rfl⟩ fun r hr l _ => ?_
  split
  · obtain ⟨hpc, hseq⟩ := putE_keeps l c.x.e (if ok then Tri.tt else Tri.ff) r
    rwa [hpc, hseq]
  · exact hr

theorem Cx.copiedRegs_getP {c : Cx} {ok : Bool} {l : Nat} {n : BitVec 4} (htry : c.x.m 0 1 = 1) (hl : l ∈ lanesOf c.m) (hn : c.x.e = .p n)
    (h15 : n ≠ 15) : (c.copiedRegs ok).getP n.toNat l = if ok then Tri.tt else Tri.ff := by
  simp only [Cx.copiedRegs, htry, hn, if_true]
  exact foldl_putE_getP h15 _ (.inl hl)

/-- A copy instruction ends with a change of its warp alone. -/
theorem Cx.copied_spec (c : Cx) (s : State) (len : Nat) (ok : Bool) :
    ∃ t, c.copied s len ok = .next t ∧ SameMemory s t ∧ c.Counted len (if ok then Tri.tt else Tri.ff) t ∧ t.copies = s.copies := by
  obtain ⟨hpc, hseq⟩ := c.copiedRegs_keeps ok
  have hend : (c.copiedRegs ok).pc + BitVec.ofNat 64 len = (c.past len).pc := by rw [hpc]; rfl
  exact ⟨_, rfl, fun _ => rfl, ⟨_, State.warp?_setWarp .., hend, hseq, fun htry l hl n hn h15 => Cx.copiedRegs_getP htry hl hn h15⟩, rfl⟩

/-! ### An arrival at a copy (R142, R143, R151) -/

/-- What tells CPY, CPYG and CPYA apart in an arrival. -/
def copyMode (op : Op) : Nat := if op = .cpy then 0 else if op = .cpyg then 1 else 2

/-- The warp's arrival: slice, descriptor offset, kind, and the instructions before it. -/
def Cx.arrival (c : Cx) : Arrival :=
  ⟨c.k, c.uniAny c.x.b, if c.m = 0 then 0 else c.uniAny c.x.c, c.uniAny c.x.a, copyMode c.op, c.s.nextId⟩

def Copy.joined (cp : Copy) (a : Arrival) : Copy := { cp with arrivals := cp.arrivals ++ [a] }

/-- The team's copy that the warp's next copy instruction belongs to, as far as others have arrived at it. -/
def Cx.teamCopy (c : Cx) : Option Copy := c.s.waitingCopy c.k.teamKey c.own c.w.r.copySeq

/-- The copy that a first arrival opens. -/
def Cx.opens (c : Cx) (g : Grid) (refused : Bool) : Copy :=
  Copy.fresh c.s.nextId c.k.teamKey c.own c.w.r.copySeq c.w.die (c.w.core / 4) g.l.cls refused

/-- The queue of the launch's class holds 16 copies. -/
def Cx.queueFull (c : Cx) (g : Grid) : Bool := 16 ≤ c.s.entriesOf c.w.die (c.w.core / 4) g.l.cls

/-- The state with the warp's arrival at copy cp in it. -/
def Cx.arrivedAt (c : Cx) (cp : Copy) : State := { c.s with nextId := c.s.nextId + 1 }.setCopy (cp.joined c.arrival)

/-- What the warp's arrival at copy cp leads to. -/
def Cx.arriveAt (c : Cx) (len : Nat) (cp : Copy) : Res :=
  if cp.refused then
    c.copied (if c.s.lastArrival cp c.k then c.s.dropCopy cp.id else { c.s with nextId := c.s.nextId + 1 }.setCopy cp) len false
  else if !c.s.lastArrival cp c.k then c.copied (c.arrivedAt cp) len true
  else match (c.arrivedAt cp).startCopy (cp.joined c.arrival) (c.s.header c.k) c.arrival.off (copyMode c.op) with
    | .wait => .next (c.s.hold' c.k)
    | .trap cause addr => { c with s := c.s.dropCopy cp.id, w := { c.w with r := c.w.r.nextCopy } }.trapIn cause 0 wholeWarp (BitVec.ofNat 64 addr)
    | .go s => c.copied s len true

theorem State.mem_setCopy (s : State) (cp : Copy) : cp ∈ (s.setCopy cp).copies := by simp [State.setCopy]

section
variable {c : Cx} {len : Nat} {cp : Copy}

/-- An arrival at a refused copy is not accepted; the copy is kept for the warps that follow. -/
theorem Cx.arriveAt_refused (hr : cp.refused = true) : ∃ t, c.arriveAt len cp = .next t ∧ SameMemory c.s t ∧ c.Counted len Tri.ff t ∧
    (c.s.lastArrival cp c.k = false → cp ∈ t.copies) := by
  rw [Cx.arriveAt, if_pos hr]
  cases hl : c.s.lastArrival cp c.k with
  | true =>
    obtain ⟨t, hrun, hmem, hcount, -⟩ := c.copied_spec (c.s.dropCopy cp.id) len false
    exact ⟨t, hrun, hmem, hcount, nofun⟩
  | false =>
    obtain ⟨t, hrun, hmem, hcount, hcopies⟩ := c.copied_spec ({ c.s with nextId := c.s.nextId + 1 }.setCopy cp) len false
    exact ⟨t, hrun, hmem, hcount, fun _ => hcopies ▸ State.mem_setCopy ..⟩

/-- An arrival before the last is put with the others. -/
theorem Cx.arriveAt_joins (hr : cp.refused = false) (hl : c.s.lastArrival cp c.k = false) :
    ∃ t, c.arriveAt len cp = .next t ∧ SameMemory c.s t ∧ c.Counted len Tri.tt t ∧ cp.joined c.arrival ∈ t.copies := by
  obtain ⟨t, hrun, hmem, hcount, hcopies⟩ := c.copied_spec (c.arrivedAt cp) len true
  refine ⟨t, ?run, hmem, hcount, hcopies ▸ State.mem_setCopy ..⟩
  rw [Cx.arriveAt, if_neg (by simp [hr]), if_pos (by simp [hl]), hrun]

/-- With the last arrival the copy starts. -/
theorem Cx.arriveAt_starts {s : State} (hr : cp.refused = false) (hl : c.s.lastArrival cp c.k = true)
    (hgo : (c.arrivedAt cp).startCopy (cp.joined c.arrival) (c.s.header c.k) c.arrival.off (copyMode c.op) = .go s) :
    ∃ t, c.arriveAt len cp = .next t ∧ c.Counted len Tri.tt t ∧ t.copies = s.copies := by
  obtain ⟨t, hrun, -, hcount, hcopies⟩ := c.copied_spec s len true
  refine ⟨t, ?run, hcount, hcopies⟩
  rw [Cx.arriveAt, if_neg (by simp [hr]), if_neg (by simp [hl]), hgo]
  exact hrun

end

/-! ### The instructions (R365, R366) -/

section
variable {i : Instr} {c : Cx} {len : Nat}

theorem exec_copy_of_form {op : Op} {x : Ext} (s : State) (h : instrForm i = some (op, x, len)) (ho : op ∈ [Op.cpy, .cpyg, .cpya]) :
    exec i s = cpy (copyMode op) op x len s := by
  simp only [List.mem_cons, List.not_mem_nil, or_false] at ho
  rcases ho with rfl | rfl | rfl
  all_goals
    cases i <;> cases h
    rfl

theorem exec_cpyq_of_form {x : Ext} (s : State) (h : instrForm i = some (.cpyq, x, len)) : exec i s = cpyq .cpyq x len s := by
  cases i <;> cases h
  rfl

section
variable {g : Grid} (he : Executes i c len) (ho : c.op ∈ [Op.cpy, .cpyg, .cpya]) (hs : c.w.sprout = Option.none)
  (hset : c.w.settled = true) (hacq : c.w.acquiring = false)
include he ho hs hset hacq

/-- The warp arrives at the copy of its team that waits for it. -/
theorem exec_copy_joins {cp : Copy} (hcp : c.teamCopy = some cp) : exec i c.s = c.arriveAt len cp := by
  rw [Cx.teamCopy] at hcp
  rw [exec_copy_of_form c.s he.form ho, cpy, he.frame_eq rfl, if_neg (by simp [hs]), if_neg (by simp [hset, hacq])]
  simp only [hcp]
  rfl

variable (hg : c.s.grid? c.k.grid = some g)
include hg

/-- The base form waits where it would open a copy in a full queue. -/
theorem copy_waits (hn : c.teamCopy = none) (hf : c.queueFull g = true) (hb : c.x.m 0 1 = 0) : Waits i c := by
  rw [Cx.teamCopy] at hn
  rw [Cx.queueFull] at hf
  rw [Waits, exec_copy_of_form c.s he.form ho, cpy, he.frame_eq rfl, if_neg (by simp [hs]), if_neg (by simp [hset, hacq])]
  simp only [hg, hn, hf, hb, Option.map_some, Option.getD_some]
  rfl

/-- The first warp opens a copy, refused where the queue is full, and arrives at it. -/
theorem exec_copy_opens (hn : c.teamCopy = none) (htry : c.queueFull g = true → c.x.m 0 1 ≠ 0) :
    exec i c.s = c.arriveAt len (c.opens g (c.queueFull g)) := by
  rw [Cx.teamCopy] at hn
  rw [Cx.queueFull] at htry
  rw [exec_copy_of_form c.s he.form ho, cpy, he.frame_eq rfl, if_neg (by simp [hs]), if_neg (by simp [hset, hacq])]
  simp only [hg, hn, Option.map_some, Option.getD_some]
  rw [if_neg (by simpa using htry)]
  rfl

end

theorem exec_cpyq (he : Executes i c len) (ho : c.op = .cpyq) (hm : c.m ≠ 0) :
    exec i c.s = c.done len (c.putVS 1 (fun _ => BitVec.ofNat 64 (c.copyWord (c.uni32 c.x.b))) c.w.r) := by
  rw [exec_cpyq_of_form c.s (ho ▸ he.form), cpyq, he.frame_eq ho, if_neg hm]

end

/-- Settles O30. With no thread taking part the descriptor's offset is A in the lowest active thread (log 45). -/
theorem copyArrivals : Obligations.CopyArrivals := by
  intro i c len g he hs hg
  refine ⟨fun ho hset hacq => ?copy, fun ho hm => ?cpyq⟩
  case copy =>
    intro old full opens counted mode arrive
    refine ⟨fun hn hf => copy_waits he ho hs hset hacq hg hn (decide_eq_true hf), fun hn hf htry => ?opened, fun cp hcp hr => ?refused,
      fun cp hcp => ?accepted⟩
    case opened =>
      have hfull : c.queueFull g = true := decide_eq_true hf
      rw [exec_copy_opens he ho hs hset hacq hg hn fun _ => by omega, hfull]
      exact Cx.arriveAt_refused rfl
    case refused =>
      rw [exec_copy_joins he ho hs hset hacq hcp]
      obtain ⟨t, hnext, hmem, hcount, -⟩ := Cx.arriveAt_refused (len := len) hr
      exact ⟨t, hnext, hmem, hcount⟩
    case accepted =>
      have hnext : cp.refused = false ∧ exec i c.s = c.arriveAt len cp := by
        rcases hcp with ⟨hcp, hr⟩ | ⟨hn, hf, rfl⟩
        · exact ⟨hr, exec_copy_joins he ho hs hset hacq hcp⟩
        · have hroom : c.queueFull g = false := decide_eq_false hf
          rw [exec_copy_opens he ho hs hset hacq hg hn (by rw [hroom]; nofun), hroom]
          exact ⟨rfl, rfl⟩
      obtain ⟨hr, hnext⟩ := hnext
      rw [hnext]
      exact ⟨fun hl => Cx.arriveAt_joins hr hl, fun hl s' hgo => Cx.arriveAt_starts hr hl hgo⟩
  case cpyq =>
    refine wordTo_of_putVS _ (exec_cpyq he ho hm) fun _ => ?_
    exact (loWord_ofNat _).trans (apply_ite (BitVec.ofNat 32) ..)

end Sys2Proof.Machine
end

section
/-! SUPPORT. Instructions whose whole effect is on registers: what each carries out, that it keeps to its destinations, and O10
settled. -/

namespace Sys2Proof.Machine

/-! ### Legal encodings -/

theorem Ext.mod_of_check {op : Op} {x : Ext} (h : x.check op = none) : (sig op x).mod = true := by
  rw [Ext.check] at h
  obtain ⟨-, h⟩ := next_check h
  obtain ⟨-, h⟩ := next_check h
  obtain ⟨hmod, -⟩ := next_check h
  exact (Bool.and_eq_true_iff.mp (by simpa only [Bool.not_eq_true, Bool.not_eq_false'] using hmod)).1

theorem Ext.posA_of_check {op : Op} {x : Ext} (h : x.check op = none) : (sig op x).a.accepts x.u x.a = true := by
  rw [Ext.check] at h
  obtain ⟨-, h⟩ := next_check h
  obtain ⟨-, h⟩ := next_check h
  obtain ⟨-, h⟩ := next_check h
  obtain ⟨-, h⟩ := next_check h
  obtain ⟨-, h⟩ := next_check h
  obtain ⟨ha, -⟩ := next_check h
  simpa only [Bool.not_eq_true, Bool.not_eq_false'] using ha

theorem tyWidth_of_le {ty : Nat} (h : ty ≤ 3) : tyWidth ty = 32 * tyN ty := by
  interval_cases ty <;> rfl

/-- An operand whose value is 0 has no bit set. -/
theorem asInt_ne_zero {ty : Nat} {x : DWord} (h : ty ≤ 3) (hx : x.setWidth (32 * tyN ty) ≠ 0) : asInt ty x ≠ 0 := by
  have hlow : x.toNat % 2 ^ tyWidth ty ≠ 0 := by
    rw [tyWidth_of_le h]
    exact fun h0 => hx (BitVec.eq_of_toNat_eq (by simpa [BitVec.toNat_setWidth] using h0))
  have hlt : x.toNat % 2 ^ tyWidth ty < 2 ^ tyWidth ty := Nat.mod_lt _ (Nat.two_pow_pos _)
  unfold asInt
  dsimp only
  split <;> omega

/-! ### Registers that an instruction leaves -/

/-- Of the warp's registers only the instruction's destinations read differently, in the threads that take part; the program
counter has not moved yet. -/
def Cx.Kept (c : Cx) (r : Regs) : Prop :=
  OnlyWrites c.nS (writesOf c.op c.x) c.m c.w.r r ∧ RestKept c.w.r r ∧ r.pc = c.w.r.pc

section
variable {c : Cx} {r : Regs}

theorem Cx.Kept.refl (c : Cx) : c.Kept c.w.r :=
  ⟨⟨fun _ _ _ _ => rfl, fun _ _ _ _ => rfl, fun _ _ _ _ => rfl, fun _ _ => rfl⟩, by simp [RestKept], rfl⟩

/-- What keeps to the destinations in one thread that takes part keeps to them. -/
theorem LaneOnly.kept {l : Nat} (h : LaneOnly c.nS (writesOf c.op c.x) l c.w.r r) (hl : l ∈ lanesOf c.m) : c.Kept r := by
  obtain ⟨hv, hf, hp, hs, hrest, hpc⟩ := h
  have hm : ∀ {l'}, l' = l → c.m.getLsbD l' = true := fun h => h ▸ lanesOf_mem hl
  exact ⟨⟨fun n l' hl' hn => hv n l' hl' fun ⟨h, e⟩ => hn ⟨h, hm e⟩, fun n l' hl' hn => hf n l' hl' fun ⟨h, e⟩ => hn ⟨h, hm e⟩,
    fun n l' hl' hn => hp n l' hl' fun ⟨h, e⟩ => hn ⟨h, hm e⟩, hs⟩, hrest, hpc⟩

/-- A write in every thread that takes part. -/
theorem Cx.each_kept {f : Nat → Regs → Regs} (h : ∀ l < 128, ∀ r, LaneOnly c.nS (writesOf c.op c.x) l r (f l r)) : c.Kept (c.each f) :=
  fold_only c.m f c.w.r fun l hl => h l (lanesOf_lt hl)

/-- One or two words to D, in every thread or once. -/
theorem Cx.putVS_kept {n al : Nat} (v : Nat → DWord) (hn : n = 1 ∨ n = 2) (hd : (sig c.op c.x).d = .vs n al) :
    c.Kept (c.putVS n v c.w.r) := by
  have hput : ∀ l < 128, ∀ r, LaneOnly c.nS (writesOf c.op c.x) l r (c.putInt n l c.x.d (v l) r) :=
    fun l hl r => int_put c c.op n al l (v l) r hl hn (.inr hd)
  unfold Cx.putVS
  split
  · split
    · exact .refl c
    · rename_i l ls hls
      have hl : l ∈ lanesOf c.m := hls ▸ List.mem_cons_self
      exact (hput l (lanesOf_lt hl) _).kept hl
  · exact each_kept hput

/-- The instruction writes registers, only its destinations, and moves past its words. -/
def WritesOnly (i : Instr) (c : Cx) (len : Nat) : Prop := ∃ r, exec i c.s = c.done len r ∧ c.Kept r

/-- Tags and the program counter apart, the registers afterwards are those written. -/
theorem WritesOnly.runs {i : Instr} {len : Nat} (h : WritesOnly i c len) :
    ∃ r, Runs i c len r ∧ OnlyWrites c.nS (writesOf c.op c.x) c.m c.w.r r ∧ RestKept c.w.r r := by
  obtain ⟨r, hrun, honly, hrest, hpc⟩ := h
  obtain ⟨u, t, htags⟩ := r.written_eq c.m c.op c.x
  refine ⟨_, ⟨hrun.trans (Cx.done_eq ..), ?_⟩, ?_⟩ <;> rw [htags]
  · exact congrArg (· + BitVec.ofNat 64 len) hpc
  · exact ⟨honly, hrest⟩

end

/-! ### Instructions without a check, thread by thread -/

/-- What an opcode does in one thread, and that it keeps to its destinations there. -/
structure LaneEffect (op : Op) where
  run : Cx → Nat → Regs → Regs
  only : ∀ (c : Cx) (l : Nat) (r : Regs), l < 128 → LaneOnly c.nS (writesOf op c.x) l r (run c l r)

/-- The opcodes that act in each thread alone. -/
def laneEffect : (op : Op) → Option (LaneEffect op)
  | .iadd => some ⟨_, iadd_only⟩
  | .isub => some ⟨_, isub_only⟩
  | .imul => some ⟨_, imul_only⟩
  | .imulh => some ⟨_, imulh_only⟩
  | .imad => some ⟨_, imad_only⟩
  | .imin => some ⟨_, imin_only⟩
  | .imax => some ⟨_, imax_only⟩
  | .iabs => some ⟨_, iabs_only⟩
  | .iand => some ⟨_, iand_only⟩
  | .ior => some ⟨_, ior_only⟩
  | .ixor => some ⟨_, ixor_only⟩
  | .inot => some ⟨_, inot_only⟩
  | .shl => some ⟨_, shl_only⟩
  | .shr => some ⟨_, shr_only⟩
  | .sar => some ⟨_, sar_only⟩
  | .rot => some ⟨_, rot_only⟩
  | .bfx => some ⟨_, bfx_only⟩
  | .bfi => some ⟨_, bfi_only⟩
  | .popc => some ⟨_, popc_only⟩
  | .clz => some ⟨_, clz_only⟩
  | .brev => some ⟨_, brev_only⟩
  | .mov => some ⟨_, mov_only⟩
  | .movl => some ⟨_, movl_only⟩
  | .sel => some ⟨_, sel_only⟩
  | .icmp => some ⟨_, icmp_only⟩
  | .plop => some ⟨_, plop_only⟩
  | .cvti => some ⟨_, cvti_only⟩
  | .idot4 => some ⟨_, idot4_only⟩
  | .fadd => some ⟨_, fadd_only⟩
  | .fsub => some ⟨_, fsub_only⟩
  | .fmul => some ⟨_, fmul_only⟩
  | .ffma => some ⟨_, ffma_only⟩
  | .fdiv => some ⟨_, fdiv_only⟩
  | .fsqrt => some ⟨_, fsqrt_only⟩
  | .fsqr => some ⟨_, fsqr_only⟩
  | .frcp => some ⟨_, frcp_only⟩
  | .frsqrt => some ⟨_, frsqrt_only⟩
  | .fabs => some ⟨_, fabs_only⟩
  | .fneg => some ⟨_, fneg_only⟩
  | .fmin => some ⟨_, fmin_only⟩
  | .fmax => some ⟨_, fmax_only⟩
  | .fhull => some ⟨_, fhull_only⟩
  | .fisect => some ⟨_, fisect_only⟩
  | .fmk => some ⟨_, fmk_only⟩
  | .flo => some ⟨_, flo_only⟩
  | .fhi => some ⟨_, fhi_only⟩
  | .fmid => some ⟨_, fmid_only⟩
  | .frad => some ⟨_, frad_only⟩
  | .fwid => some ⟨_, fwid_only⟩
  | .fmig => some ⟨_, fmig_only⟩
  | .fmag => some ⟨_, fmag_only⟩
  | .fbis => some ⟨_, fbis_only⟩
  | .fcmp => some ⟨_, fcmp_only⟩
  | .fset => some ⟨_, fset_only⟩
  | .fclass => some ⟨_, fclass_only⟩
  | .fdec => some ⟨_, fdec_only⟩
  | .fcvt => some ⟨_, fcvt_only⟩
  | .fcvti => some ⟨_, fcvti_only⟩
  | .fpown => some ⟨_, fpown_only⟩
  | .fldexp => some ⟨_, fldexp_only⟩
  | .fmov => some ⟨_, fmov_only⟩
  | .fsel => some ⟨_, fsel_only⟩
  | .fmovl => some ⟨_, fmovl_only⟩
  | .rmax => some ⟨_, rmax_only⟩
  | .rsum => some ⟨_, rsum_only⟩
  | .rstat => some ⟨_, rstat_only⟩
  | .smxu => some ⟨_, smxu_only⟩
  | .smxa => some ⟨_, smxa_only⟩
  | .rnorm => some ⟨_, rnorm_only⟩
  | .dadd => some ⟨_, dadd_only⟩
  | .dsub => some ⟨_, dsub_only⟩
  | .dmul => some ⟨_, dmul_only⟩
  | .dfma => some ⟨_, dfma_only⟩
  | .ddiv => some ⟨_, ddiv_only⟩
  | .dsqrt => some ⟨_, dsqrt_only⟩
  | .dcmp => some ⟨_, dcmp_only⟩
  | .dcvt => some ⟨_, dcvt_only⟩
  | .fexp => some ⟨_, fexp_only⟩
  | .fexp2 => some ⟨_, fexp2_only⟩
  | .flog => some ⟨_, flog_only⟩
  | .flog2 => some ⟨_, flog2_only⟩
  | .ftanh => some ⟨_, ftanh_only⟩
  | .fsig => some ⟨_, fsig_only⟩
  | .ferf => some ⟨_, ferf_only⟩
  | .fsin => some ⟨_, fsin_only⟩
  | .fcos => some ⟨_, fcos_only⟩
  | .fgelu => some ⟨_, fgelu_only⟩
  | .fsilu => some ⟨_, fsilu_only⟩
  | .fgate => some ⟨_, fgate_only⟩
  | _ => none

/-- Every form of such an opcode carries out its effect in each thread. -/
theorem exec_of_laneEffect {i : Instr} {op : Op} {x : Ext} {len : Nat} {e : LaneEffect op} (s : State) (he : laneEffect op = some e)
    (h : instrForm i = some (op, x, len)) : exec i s = perThread op x len s e.run := by
  cases i <;> cases h <;> cases he <;> rfl

/-! ### The other opcodes -/

/-- The meanings of the opcodes that look at the whole warp, at the machine, or for a trap before they write. -/
def checkedMeaning : Op → Option (Ext → Nat → State → Res)
  | .idiv => some (aluDivide (fun q => q.1) .idiv)
  | .irem => some (aluDivide (fun q => q.2) .irem)
  | .lea => some (lea .lea)
  | .pmov => some fun x len s => frame .pmov x s fun c => c.done len (pmov c)
  | .vote => some (vote .vote)
  | .shfl => some (shfl false .shfl)
  | .fshfl => some (shfl true .fshfl)
  | .matchV => some (matchLanes .matchV)
  | .redux => some (redux .redux)
  | .scan => some (scan .scan)
  | .srd => some (srd .srd)
  | .topo => some (topo .topo)
  | .time => some (time .time)
  | .perf => some (perf .perf)
  | _ => none

theorem exec_of_checkedMeaning {i : Instr} {op : Op} {x : Ext} {len : Nat} {f : Ext → Nat → State → Res} (s : State)
    (hf : checkedMeaning op = some f) (h : instrForm i = some (op, x, len)) : exec i s = f x len s := by
  cases i <;> cases h <;> cases hf <;> rfl

section
variable {i : Instr} {c : Cx} {len : Nat} (he : Executes i c len)
include he

/-- What the instruction's form says, at the fields that it executes with. -/
theorem Executes.exec_checked {op : Op} {f : Ext → Nat → State → Res} (ho : c.op = op) (hf : checkedMeaning op = some f) :
    exec i c.s = f c.x len c.s :=
  exec_of_checkedMeaning c.s hf (ho ▸ he.form)

theorem lane_writes {e : LaneEffect c.op} (h : laneEffect c.op = some e) : WritesOnly i c len := by
  refine ⟨c.each (e.run c), ?_, Cx.each_kept fun l hl r => e.only c l r hl⟩
  rw [exec_of_laneEffect c.s h he.form, perThread, he.frame_eq rfl]

/-- A quotient or remainder is written where every divisor may be divided by (R251). -/
theorem divide_writes {pick : Int × Int → Int} (hop : c.op ∈ [Op.idiv, .irem])
    (hex : exec i c.s = aluDivide pick c.op c.x len c.s)
    (hv : ∀ l ∈ lanesOf c.m, c.src (tyN c.x.ty) l c.x.b ≠ 0 ∨ c.x.m 5 1 = 1) : WritesOnly i c len := by
  have hty : c.x.ty ≤ 3 := by
    have hmod := Ext.mod_of_check he.able.legal
    rcases List.mem_pair.mp hop with ho | ho <;> rw [ho] at hmod
    · exact of_decide_eq_true (Bool.and_eq_true_iff.mp (show (decide (c.x.ty ≤ 3) && c.x.within 0x3f) = true from hmod)).1
    · exact of_decide_eq_true (Bool.and_eq_true_iff.mp (show (decide (c.x.ty ≤ 3) && c.x.within 0x3f) = true from hmod)).1
  have hd : (sig c.op c.x).d = .v (tyN c.x.ty) (tyN c.x.ty) := by
    rcases List.mem_pair.mp hop with ho | ho <;> rw [ho] <;> rfl
  have hnone : ((lanesOf c.m).find? fun l => decide (asInt c.x.ty (c.int (tyN c.x.ty) l c.x.b) = 0) && decide (c.x.m 5 1 = 0)) = none := by
    refine List.find?_eq_none.mpr fun l hl => ?_
    rcases hv l hl with h | h
    · simp [asInt_ne_zero hty h]
    · simp [h]
  rw [WritesOnly, hex, aluDivide, he.frame_eq rfl]
  dsimp only
  rw [hnone]
  exact ⟨_, rfl, Cx.each_kept fun l hl r => int_put c c.op _ _ l _ r hl (tyN_12 _) (.inl hd)⟩

/-- LEA writes the sum, or the places of the scratch bytes where there are any (R254). -/
theorem lea_writes (ho : c.op = .lea)
    (hv : c.x.m 7 2 = 0 ∨ ∀ l ∈ lanesOf c.m, (c.s.scratchLoc c.k c.w (c.x.m 7 2) (leaSum c l).toNat 1).isBad = false) :
    WritesOnly i c len := by
  have hd : (sig c.op c.x).d = .v (tyN c.x.ty) (tyN c.x.ty) := by rw [ho]; rfl
  rw [WritesOnly, he.exec_checked ho rfl, lea, he.frame_eq ho]
  by_cases hmode : c.x.m 7 2 = 0
  · rw [if_pos hmode]
    exact ⟨_, rfl, Cx.each_kept fun l hl r => int_put c c.op _ _ l _ r hl (tyN_12 _) (.inl hd)⟩
  · have hnone : (lanesOf c.m).find? (fun l => (c.s.scratchLoc c.k c.w (c.x.m 7 2) (leaSum c l).toNat 1).isBad) = none :=
      List.find?_eq_none.mpr fun l hl => by simp [hv.resolve_left hmode l hl]
    rw [if_neg hmode]
    dsimp only
    rw [hnone]
    refine ⟨_, rfl, Cx.each_kept fun l hl r => ?_⟩
    split
    · exact int_put_one c c.op _ _ l _ r hl (tyN_pos _) (.inl hd)
    · exact .refl ..

/-! ### Predicate moves, and what the machine tells (R28, R259, R471) -/

omit he in
/-- The predicates of a thread out of one word. -/
theorem unpackPreds_only {nS : Nat} {ws : List (File × Nat)} {l : Nat} (v : Word) (r : Regs) (hl : l < 128)
    (hw : ∀ n < 15, (File.p, n) ∈ ws) : LaneOnly nS ws l r (unpackPreds v l r) :=
  List.foldlRecOn (motive := LaneOnly nS ws l r) _ _ (.refl ..) fun _ hq n hn =>
    hq.trans (.setP _ _ _ hl (hw n (List.mem_range.mp hn)))

omit he in
theorem pmov_kept (ho : c.op = .pmov) : c.Kept (pmov c) := by
  have hsig : sig c.op c.x = sigInt .pmov c.x := by rw [ho]; rfl
  unfold pmov
  split <;> rename_i hmode
  · exact Cx.each_kept fun l hl r => pred_putP l _ r hl (by simp [hsig, sigInt, hmode])
  · exact Cx.putVS_kept _ (.inl rfl) (al := 1) (by simp [hsig, sigInt, hmode])
  · exact Cx.each_kept fun l hl r => pred_putP l _ r hl (by simp [hsig, sigInt, hmode])
  · exact Cx.putVS_kept _ (.inl rfl) (al := 1) (by simp [hsig, sigInt, hmode])
  · refine Cx.each_kept fun l hl r => unpackPreds_only _ r hl fun n hn => ?_
    simp [writesOf, hsig, sigInt, hn]

theorem pmov_writes (ho : c.op = .pmov) : WritesOnly i c len :=
  ⟨pmov c, by rw [he.exec_checked ho rfl, he.frame_eq ho], pmov_kept ho⟩

/-- SRD names a special register (R236), and writes one or two words of it. -/
theorem srd_writes (ho : c.op = .srd) : WritesOnly i c len := by
  have hacc : PK.special.accepts c.x.u c.x.a = true := by
    have h := Ext.posA_of_check he.able.legal
    rw [ho] at h
    exact h
  obtain ⟨q, hq⟩ : ∃ q, c.x.a = .sr q := by
    cases hx : c.x.a with
    | sr q => exact ⟨q, rfl⟩
    | _ => rw [hx] at hacc; cases hacc
  have hbit : c.x.m 0 1 = 0 ∨ c.x.m 0 1 = 1 := Nat.mod_two_eq_zero_or_one _
  have hn : (if decide (c.x.m 0 1 = 1) then 2 else 1) = c.x.m 0 1 + 1 := by rcases hbit with h | h <;> rw [h] <;> rfl
  rw [WritesOnly, he.exec_checked ho rfl, srd, he.frame_eq ho]
  simp only [hq]
  rw [hn]
  exact ⟨_, rfl, Cx.putVS_kept _ (by omega) (al := c.x.m 0 1 + 1) (by rw [ho]; rfl)⟩

theorem topo_writes (ho : c.op = .topo) : WritesOnly i c len := by
  rw [WritesOnly, he.exec_checked ho rfl, topo, he.frame_eq ho]
  exact ⟨_, rfl, Cx.putVS_kept _ (.inl rfl) (al := 1) (by rw [ho]; rfl)⟩

theorem perf_writes (ho : c.op = .perf) : WritesOnly i c len := by
  rw [WritesOnly, he.exec_checked ho rfl, perf, he.frame_eq ho]
  exact ⟨_, rfl, Cx.putVS_kept _ (.inr rfl) (al := 2) (by rw [ho]; rfl)⟩

theorem time_writes (ho : c.op = .time) : WritesOnly i c len := by
  rw [WritesOnly, he.exec_checked ho rfl, time, he.frame_eq ho]
  refine ⟨_, rfl, ?_⟩
  split
  · exact .refl c
  · exact Cx.putVS_kept _ (.inr rfl) (al := 2) (by rw [ho]; rfl)

/-! ### Warp-wide instructions (R385 to R390) -/

/-- With every thread that takes part a member, each writes its result to D and its validity to E. -/
theorem warpWide_writes {op : Op} {f : Cx → Nat → (Regs → Regs) × Tri} (ho : c.op = op) (hex : exec i c.s = warpWide op c.x len c.s f)
    (hv : c.m &&& ~~~c.members = 0) (hE : (sig c.op c.x).e = .predOpt)
    (hf : ∀ l < 128, ∀ r, LaneOnly c.nS (writesOf c.op c.x) l r ((f c l).1 r)) : WritesOnly i c len := by
  rw [WritesOnly, hex, warpWide, he.frame_eq ho]
  dsimp only
  rw [if_neg (not_not.mpr hv), List.foldl_map]
  exact ⟨_, rfl, Cx.each_kept fun l hl r => (hf l hl r).trans (pred_putE l _ _ hl (.inr hE))⟩

omit he in
/-- A combination goes to an F register, or to the words of the type. -/
theorem combine_only (hop : c.op ∈ [Op.redux, .scan]) (l : Nat) (ls : List Nat) (r : Regs) (hl : l < 128) :
    LaneOnly c.nS (writesOf c.op c.x) l r (c.combine l ls r) := by
  have hd : (sig c.op c.x).d = if c.x.m 8 1 = 1 then .f 1 1 else .v (tyN c.x.ty) (tyN c.x.ty) := by
    rcases List.mem_pair.mp hop with ho | ho <;> rw [ho] <;> rfl
  unfold Cx.combine
  dsimp only
  split <;> rename_i hfl
  · rw [if_pos hfl] at hd
    split
    · exact flt_putF l _ r hl (by decide) hd
    · exact flt_putF l _ r hl (by decide) hd
  · rw [if_neg hfl] at hd
    exact int_put c c.op _ _ l _ r hl (tyN_12 _) (.inl hd)

theorem vote_writes (ho : c.op = .vote) (hv : c.m &&& ~~~c.members = 0) : WritesOnly i c len := by
  have hd : (sig c.op c.x).d = if c.x.m 0 3 ≤ 2 then .pred else .v 1 1 := by rw [ho]; rfl
  refine warpWide_writes he ho (he.exec_checked ho rfl) hv (by rw [ho]; rfl) fun l hl r => ?_
  dsimp only
  split <;> rename_i hm
  · exact pred_putP l _ r hl (hd.trans (if_pos hm))
  · exact int_put c c.op 1 1 l _ r hl (.inl rfl) (.inl (hd.trans (if_neg hm)))

theorem shfl_writes (ho : c.op = .shfl) (hv : c.m &&& ~~~c.members = 0) : WritesOnly i c len :=
  warpWide_writes he ho (he.exec_checked ho rfl) hv (by rw [ho]; rfl) fun l hl r =>
    int_put c c.op _ _ l _ r hl (tyN_12 _) (.inl (by rw [ho]; rfl))

theorem fshfl_writes (ho : c.op = .fshfl) (hv : c.m &&& ~~~c.members = 0) : WritesOnly i c len :=
  warpWide_writes he ho (he.exec_checked ho rfl) hv (by rw [ho]; rfl) fun l hl r =>
    flt_putF l _ r hl (n := 1) (al := 1) (by decide) (by rw [ho]; rfl)

theorem matchV_writes (ho : c.op = .matchV) (hv : c.m &&& ~~~c.members = 0) : WritesOnly i c len :=
  warpWide_writes he ho (he.exec_checked ho rfl) hv (by rw [ho]; rfl) fun l hl r =>
    int_put c c.op _ _ l _ r hl (tyN_12 _) (.inl (by rw [ho]; rfl))

theorem redux_writes (ho : c.op = .redux) (hv : c.m &&& ~~~c.members = 0) : WritesOnly i c len :=
  warpWide_writes he ho (he.exec_checked ho rfl) hv (by rw [ho]; rfl) fun l hl r => combine_only (by simp [ho]) l _ r hl

theorem scan_writes (ho : c.op = .scan) (hv : c.m &&& ~~~c.members = 0) : WritesOnly i c len :=
  warpWide_writes he ho (he.exec_checked ho rfl) hv (by rw [ho]; rfl) fun l hl r => combine_only (by simp [ho]) l _ r hl

/-- Each of the opcodes with a check, where its values pass it. -/
theorem checked_writes (hop : (checkedMeaning c.op).isSome = true) (hv : NoValueTrap c) : WritesOnly i c len := by
  unfold NoValueTrap at hv
  cases ho : c.op <;> rw [ho] at hop hv <;> try cases hop
  case idiv => exact divide_writes he (by simp [ho]) (by rw [ho]; exact he.exec_checked ho rfl) hv
  case irem => exact divide_writes he (by simp [ho]) (by rw [ho]; exact he.exec_checked ho rfl) hv
  case lea => exact lea_writes he ho hv
  case pmov => exact pmov_writes he ho
  case vote => exact vote_writes he ho hv
  case shfl => exact shfl_writes he ho hv
  case fshfl => exact fshfl_writes he ho hv
  case matchV => exact matchV_writes he ho hv
  case redux => exact redux_writes he ho hv
  case scan => exact scan_writes he ho hv
  case srd => exact srd_writes he ho
  case topo => exact topo_writes he ho
  case time => exact time_writes he ho
  case perf => exact perf_writes he ho

end

/-- The opcodes with an effect on registers alone act in each thread, or have a check. -/
theorem laneEffect_or_checked : ∀ op ∈ registerOps, (laneEffect op).isSome = true ∨ (checkedMeaning op).isSome = true := by
  decide

/-- Settles O10: an effect in each thread keeps to its destinations there, and the other opcodes are gone through. -/
theorem registerInstructionsComplete : Obligations.RegisterInstructionsComplete := by
  intro i c len he hop hv
  refine WritesOnly.runs ?_
  rcases laneEffect_or_checked c.op hop with h | h
  · obtain ⟨e, hlane⟩ := Option.isSome_iff_exists.mp h
    exact lane_writes he hlane
  · exact checked_writes he h hv

end Sys2Proof.Machine
end

section
/-! SUPPORT. CLOAD of a range that is not declared, and O56 refuted. -/

namespace Sys2Proof.Machine

/-! ### Traps in trap mode (R419, R462) -/

section
variable {s : State} {k : WarpKey} {w : Warp}

/-- A trap in trap mode ends the grid with code 17. -/
theorem State.trap_tmode (t : Trap) (hs : w.sprout = Option.none) (hm : w.r.tmode = true) : s.trap k w t = s.endGrid k.grid 17 := by
  have hs' : w.takeStops.sprout.isSome = false := congrArg Option.isSome hs
  have hm' : w.takeStops.r.tmode = true := hm
  rw [State.trap, hs', hm']
  rfl

/-- No warp of a grid that has ended stands. -/
theorem State.warp?_endGrid (code : Nat) : (s.endGrid k.grid code).warp? k = none := by
  have hgone : ∀ m : Assoc WarpKey Warp, Assoc.find (m.filter fun p => !decide (p.1.grid = k.grid)) k = none := by
    intro m
    induction m with
    | nil => rfl
    | cons p m ih =>
      by_cases hp : p.1.grid = k.grid
      · simpa [hp] using ih
      · have hk : k ≠ p.1 := fun h => hp (h ▸ rfl)
        simpa [hp, Assoc.find, hk] using ih
  exact hgone s.warps

end

/-! ### CLOAD (R182, R472) -/

theorem exec_cload_of_form {i : Instr} {x : Ext} {len : Nat} (s : State) (h : instrForm i = some (.cload, x, len)) :
    exec i s = cload .cload x len s := by
  cases i <;> cases h
  rfl

/-- A range of V, F or S registers that is not declared ends the grid: ALLOC in trap mode. -/
theorem cload_undeclared {i : Instr} {c : Cx} {len : Nat} (he : Executes i c len) (ho : c.op = .cload) (hm : c.m ≠ 0)
    (hs : c.w.sprout = Option.none) (ht : c.w.r.tmode = true) (hk : c.x.m 0 3 ≤ 2)
    (hr : rangeOk (c.s.header c.k) true (c.x.m 0 3) (c.uni32 c.x.b) (c.uni32 c.x.c) = false) :
    exec i c.s = .next (c.s.endGrid c.k.grid 17) := by
  rw [exec_cload_of_form c.s (ho ▸ he.form), cload, contextFrame, trapOnly, he.frame_eq ho, if_neg (by simp [hs, ht])]
  dsimp only
  rw [if_neg hm, if_pos hk, if_pos hk, if_pos (by rw [hr]; rfl), Cx.trapIn, State.precise, State.trap_tmode _ hs ht]

/-! ### The counterexample -/

/-- A warp in trap mode, of one thread, with 100 in S0, and with S0 held empty by a wait at HJOIN. -/
def joiningKey : WarpKey := ⟨1, 0, 0, 0⟩
def joiningWarp : Warp :=
  { Warp.start { Regs.start 0 1 with tstat := 1, s := [(0, 100)] } 32 0 0 0 0 true with wait := .hjoin [⟨.s, 0, 0⟩] }

/-- It has read the line that an image of one S register at address 0 stands in. -/
def joiningState : State :=
  { State.reset with
    warps := [(joiningKey, joiningWarp)], cur := some joiningKey
    looks := [⟨.stream joiningKey 8, 0, 0, 0, some ⟨0, 0, 0, 0, false, 0⟩⟩] }

/-- CLOAD of one S register from S100 on, of 32: the first register stands in S0. -/
def loadS100 : Ext := { Ext.fixed with a := .imm 0, b := .s 0, c := .imm 1, mod := 2 }

/-- The four bytes of the image. -/
theorem joiningState_image : joiningState.lookBytes (.stream joiningKey 8) 0 4 = .val 0 := by
  decide +kernel

theorem loadS100_executes : Executes (.cload loadS100) (cx joiningState joiningKey joiningWarp .cload loadS100) 12 :=
  ⟨rfl, ⟨rfl, by decide, by decide, by decide⟩, rfl, rfl⟩

/-- Refutes O56, in its clause on a CLOAD whose lines have been read. It asks that nothing is outstanding, where the clause on CSAVE asks
that no register is empty. A wait at HJOIN holds registers empty with nothing outstanding (R453): the decode check cannot read the range
then (R182), and the instruction finds it undeclared itself and traps ALLOC, which ends the grid in trap mode (R462), so that
the warp does not go on. -/
theorem not_contextInstructions : ¬ Obligations.ContextInstructions := by
  unfold Obligations.ContextInstructions
  rintro ⟨-, h⟩
  have he := loadS100_executes
  obtain ⟨-, -, hopen⟩ := h _ _ _ he (by decide)
  obtain ⟨-, -, -, himage, -⟩ := hopen (by decide) (by decide)
  obtain ⟨-, hload⟩ := himage (.inr rfl) (by decide) (by decide) (by decide) (by decide)
  obtain ⟨-, hgo⟩ := hload 0 rfl rfl joiningState_image
  obtain ⟨t, r, hrun, -, hwarp, -⟩ := hgo (by decide)
  rw [cload_undeclared he rfl (by decide) rfl rfl (by decide) (by decide)] at hrun
  cases hrun
  rw [State.warp?_endGrid] at hwarp
  cases hwarp

end Sys2Proof.Machine
end

section
/-! SUPPORT. A step: what an issue decodes and runs, and the steps of the part; O3 settled. -/

namespace Sys2Proof.Machine

section
variable {ws : List Word} {i : Instr} {n : Nat}

/-- A decoded instruction is a legal layout's. -/
theorem decode_ok_iff : decode ws = .ok (i, n) ↔ ∃ v, decodeView ws = .ok (v, n) ∧ v.instr = some i := by
  unfold decode
  constructor
  · intro h
    split at h
    · cases h
    · split at h <;> cases h
      exact ⟨_, ‹_›, ‹_›⟩
  · rintro ⟨v, hv, hi⟩
    rw [hv]
    simp only [hi]

/-- Fetched words that decode run as the layout they are (R216). -/
theorem State.runWords_of_decode {s : State} {k : WarpKey} {w : Warp} (h : decode ws = .ok (i, n)) :
    ∃ v : View, v.instr = some i ∧ s.runWords k w ws = s.runInstr k v := by
  obtain ⟨v, hv, hi⟩ := decode_ok_iff.mp h
  exact ⟨v, hi, by rw [State.runWords, hv]⟩

end

/-- With no boundary cause in the warp none is due (R462). -/
theorem Warp.due_none {w : Warp} (h : w.pending.first = none) : w.due = none := by
  rw [Warp.due]
  split
  · split
    · rename_i hhalt
      simp [Boundary.first, hhalt] at h
    · rfl
  · exact h

/-- A warp that may issue, with no cause due and nothing that holds it, fetches and runs. -/
theorem State.issue_eq_fetchRun {s : State} {k : WarpKey} {w : Warp} (hw : s.warp? k = some w) (hm : s.mayIssue k w = true)
    (hd : w.due = none) (hh : w.held = false) :
    s.issue k = (s.readied k (w.readied (s.header k).nS s.now)).fetchRun k (w.readied (s.header k).nS s.now) := by
  simp [State.issue, hw, hm, hd, hh]

/-- Settles O3: an issue is followed down to the words fetched, and a step of the part is read off `step`. -/
theorem stepRunsWhatStands : Obligations.StepRunsWhatStands := by
  refine ⟨?_, ?_⟩
  · intro s s' k rest w ws i n hag s₀ v hw hm hp hh hfetch hdec
    have hstep : step s = s₀.issue k := by rw [step, hag]
    rw [hstep, State.issue_eq_fetchRun hw hm (Warp.due_none hp) hh, State.fetchRun, hfetch]
    obtain ⟨u, hu, hrun⟩ := State.runWords_of_decode hdec (s := s') (k := k) (w := v)
    refine hrun.trans ?_
    simp only [State.runInstr, run_exec u i _ hu] <;> rfl
  · intro s i a rest hag henc
    rw [step, hag]
    simp [henc]

end Sys2Proof.Machine
end

section
/-! SUPPORT. The codes of opcodes and selectors, and the fields of a word: what is packed is read back, and a word is the packing of
its fields. -/

namespace Sys2Proof

/-! ### Codes (R221, R222, R234) -/

theorem Op.ofCode_code (op : Op) : Op.ofCode op.code = some op := by cases op <;> rfl

theorem Op.code_lt (op : Op) : op.code < 256 := by cases op <;> decide

theorem Op.code_of_ofCode {n : Nat} {op : Op} (hn : n < 256) (h : Op.ofCode n = some op) : op.code = n := by
  interval_cases n <;> cases h <;> rfl

theorem SReg.ofIndex_index (r : SReg) : SReg.ofIndex r.index = some r := by cases r <;> rfl

theorem SReg.index_lt (r : SReg) : r.index < 27 := by cases r <;> decide

theorem SReg.index_of_ofIndex {n : Nat} {r : SReg} (h : SReg.ofIndex n = some r) : r.index = n := by
  unfold SReg.ofIndex at h
  split at h <;> cases h <;> rfl

theorem Sel.code_lt (x : Sel) : x.code < 1024 := by
  cases x with
  | sr r => have := r.index_lt; simp only [Sel.code]; omega
  | _ => simp only [Sel.code]; omega

/-- A selector is read back from its code. -/
theorem Sel.ofCode_code (x : Sel) : Sel.ofCode x.code = some x := by
  cases x with
  | sr r =>
    have hlt := r.index_lt
    simp (disch := omega) only [Sel.code, Sel.ofCode, if_neg, dif_neg, if_pos, Nat.add_sub_cancel_left, SReg.ofIndex_index, Option.map_some]
  | lit => rfl
  | _ =>
    simp (disch := omega) only [Sel.code, Sel.ofCode, if_neg, dif_neg, if_pos, dif_pos, Nat.add_sub_cancel_left, BitVec.ofNat_toNat, BitVec.setWidth_eq]

/-- A code that stands for a selector is the selector's. -/
theorem Sel.code_of_ofCode {n : Nat} {x : Sel} (h : Sel.ofCode n = some x) : x.code = n := by
  unfold Sel.ofCode at h
  split_ifs at h
  all_goals simp only [Option.some.injEq, Option.map_eq_some_iff] at h
  iterate 5
    · subst h; simp only [Sel.code, BitVec.toNat_ofNat]; omega
  · obtain ⟨r, hr, rfl⟩ := h
    have hidx := SReg.index_of_ofIndex hr
    simp only [Sel.code]; omega
  iterate 3
    · subst h; simp only [Sel.code, BitVec.toNat_ofNat]; omega

theorem Sel2.code_lt (x : Sel2) : x.code < 256 := by
  cases x <;> simp only [Sel2.code] <;> omega

theorem Sel2.ofCode_code (x : Sel2) : Sel2.ofCode x.code = some x := by
  cases x with
  | none => rfl
  | _ =>
    simp (disch := omega) only [Sel2.code, Sel2.ofCode, if_neg, if_pos, Nat.add_sub_cancel_left, BitVec.ofNat_toNat, BitVec.setWidth_eq]

theorem Sel2.code_of_ofCode {n : Nat} {x : Sel2} (h : Sel2.ofCode n = some x) : x.code = n := by
  unfold Sel2.ofCode at h
  split_ifs at h <;> simp only [Option.some.injEq] at h <;> subst h
  · simp only [Sel2.code, BitVec.toNat_ofNat]; omega
  · simp only [Sel2.code, BitVec.toNat_ofNat]; omega
  · simp only [Sel2.code]; omega

/-! ### Packing fields into a word -/

/-- The number that fields make. -/
def packed (l : List (Nat × Nat)) : Nat := (l.map fun p => p.1 * 2 ^ p.2).sum

/-- Fields from the highest to the lowest, apart from each other and below bit n. -/
def FieldsFit : List (Nat × Nat) → Nat → Prop
  | [], _ => True
  | p :: r, n => p.2 ≤ n ∧ p.1 < 2 ^ (n - p.2) ∧ FieldsFit r p.2

section
variable {l r : List (Nat × Nat)} {n v lo k : Nat}

theorem packed_cons (p : Nat × Nat) (r : List (Nat × Nat)) : packed (p :: r) = p.1 * 2 ^ p.2 + packed r := by simp [packed]

theorem packed_nil (w : Word) : packed [] = w.toNat % 2 ^ 0 := by simp [packed, Nat.mod_one]

theorem packed_lt (h : FieldsFit l n) : packed l < 2 ^ n := by
  induction l generalizing n with
  | nil => simp [packed]
  | cons p r ih =>
    obtain ⟨hle, hp, hr⟩ := h
    have hlt := ih hr
    calc packed (p :: r) < (p.1 + 1) * 2 ^ p.2 := by rw [packed_cons, Nat.succ_mul]; omega
      _ ≤ 2 ^ (n - p.2) * 2 ^ p.2 := Nat.mul_le_mul_right _ hp
      _ = 2 ^ n := by rw [← pow_add, Nat.sub_add_cancel hle]

/-- A field of the packing is read from the number. -/
theorem fld_packFields (h : lo + k ≤ 32) : fld (packFields l) lo k = packed l / 2 ^ lo % 2 ^ k := by
  have hpow : 2 ^ 32 = 2 ^ lo * 2 ^ (32 - lo) := by rw [← pow_add]; congr 1; omega
  rw [fld, packFields, BitVec.toNat_ofNat, hpow, Nat.mod_mul_right_div_self, Nat.mod_mod_of_dvd _ (pow_dvd_pow 2 (by omega))]
  rfl

/-- Higher fields do not touch it. -/
theorem fld_packFields_skip (h : lo + k ≤ n) (hn : lo + k ≤ 32) : fld (packFields ((v, n) :: r)) lo k = fld (packFields r) lo k := by
  have hpow : v * 2 ^ n = 2 ^ lo * (2 ^ k * (v * 2 ^ (n - lo - k))) := by
    rw [show n = lo + (k + (n - lo - k)) by omega, pow_add, pow_add]
    simp only [Nat.add_sub_cancel_left]
    ring
  rw [fld_packFields hn, fld_packFields hn, packed_cons, hpow, Nat.mul_add_div (Nat.two_pow_pos _), Nat.mul_add_mod]

/-- The highest field, with the others below it. -/
theorem fld_packFields_head (hv : v < 2 ^ k) (hr : FieldsFit r lo) (hn : lo + k ≤ 32) : fld (packFields ((v, lo) :: r)) lo k = v := by
  rw [fld_packFields hn, packed_cons, Nat.mul_comm, Nat.mul_add_div (Nat.two_pow_pos _), Nat.div_eq_of_lt (packed_lt hr), Nat.add_zero,
    Nat.mod_eq_of_lt hv]

/-- Above every field there is nothing. -/
theorem fld_packFields_above (h : FieldsFit l lo) (hn : lo + k ≤ 32) : fld (packFields l) lo k = 0 := by
  rw [fld_packFields hn, Nat.div_eq_of_lt (packed_lt h), Nat.zero_mod]

theorem fld_packFields_nil : fld (packFields []) lo k = 0 := by simp [fld, packFields]

/-- A word below bit lo + k is its field at lo and what lies below. -/
theorem packed_cons_fld {w : Word} (h : packed r = w.toNat % 2 ^ lo) : packed ((fld w lo k, lo) :: r) = w.toNat % 2 ^ (lo + k) := by
  rw [packed_cons, h, pow_add, Nat.mod_mul, fld, Nat.mul_comm, Nat.add_comm]

theorem packFields_of_packed {w : Word} (h : packed l = w.toNat % 2 ^ 32) : packFields l = w := by
  refine BitVec.eq_of_toNat_eq ?_
  rw [packFields, BitVec.toNat_ofNat, ← packed, h, Nat.mod_mod, Nat.mod_eq_of_lt w.isLt]

/-- A field that holds 0 may be left out. -/
theorem packFields_zero (n : Nat) (l₁ l₂ : List (Nat × Nat)) : packFields (l₁ ++ (0, n) :: l₂) = packFields (l₁ ++ l₂) := by
  simp [packFields]

end

/-! ### The words of the forms -/

section
variable {w : Word}

theorem fld_lt (w : Word) (lo n : Nat) : fld w lo n < 2 ^ n := Nat.mod_lt _ (Nat.two_pow_pos _)

theorem flag_lt (b : Bool) : (if b = true then 1 else 0) < 2 := by cases b <;> decide

/-- A flag is read from its field. -/
theorem bit_of_fld {i : Nat} {b : Bool} (h : fld w i 1 = if b = true then 1 else 0) : bit w i = b := by
  rw [bit, h]; cases b <;> rfl

theorem flag_bit (w : Word) (i : Nat) : (if bit w i = true then 1 else 0) = fld w i 1 := by
  rcases Nat.lt_succ_iff.mp (fld_lt w i 1) |>.eq_or_lt with h | h
  · simp [bit, h]
  · simp [bit, Nat.lt_one_iff.mp h]

theorem ofNat_fld_toNat (w : Word) (lo k : Nat) : (BitVec.ofNat k (fld w lo k)).toNat = fld w lo k := by
  rw [BitVec.toNat_ofNat, Nat.mod_eq_of_lt (fld_lt w lo k)]

/-- The fields of the first word of a form with D, A, B and a U bit (R217, R218). -/
theorem fld_word0 {u b a d o n : Nat} (hu : u < 2) (hb : b < 128) (ha : a < 128) (hd : d < 128) (ho : o < 256) (hn : n < 4)
    (h : w = packFields [(u, 31), (b, 24), (a, 17), (d, 10), (o, 2), (n, 0)]) :
    fld w 31 1 = u ∧ fld w 24 7 = b ∧ fld w 17 7 = a ∧ fld w 10 7 = d ∧ fld w 2 8 = o ∧ fld w 0 2 = n := by
  subst h
  simp only [fld_packFields_skip, Nat.reduceAdd, Nat.reduceLeDiff]
  refine ⟨?_, ?_, ?_, ?_, ?_, ?_⟩ <;> exact fld_packFields_head (by omega) (by simp [FieldsFit, *]) (by norm_num)

theorem word0_of_fld (w : Word) :
    packFields [(fld w 31 1, 31), (fld w 24 7, 24), (fld w 17 7, 17), (fld w 10 7, 10), (fld w 2 8, 2), (fld w 0 2, 0)] = w :=
  packFields_of_packed (packed_cons_fld (packed_cons_fld (packed_cons_fld (packed_cons_fld (packed_cons_fld (packed_cons_fld (packed_nil w)))))))

/-- The fields of the second word of the extended form (R217, R220). -/
theorem fld_word1 {fo fi tC tB tA gs g c b a d : Nat} (hfo : fo < 2) (hfi : fi < 2) (hC : tC < 2) (hB : tB < 2) (hA : tA < 2) (hgs : gs < 4)
    (hg : g < 16) (hc : c < 1024) (hb : b < 8) (ha : a < 8) (hd : d < 8)
    (h : w = packFields [(fo, 29), (fi, 28), (tC, 27), (tB, 26), (tA, 25), (gs, 23), (g, 19), (c, 9), (b, 6), (a, 3), (d, 0)]) :
    fld w 30 2 = 0 ∧ fld w 29 1 = fo ∧ fld w 28 1 = fi ∧ fld w 27 1 = tC ∧ fld w 26 1 = tB ∧ fld w 25 1 = tA ∧ fld w 23 2 = gs ∧
      fld w 19 4 = g ∧ fld w 9 10 = c ∧ fld w 6 3 = b ∧ fld w 3 3 = a ∧ fld w 0 3 = d := by
  subst h
  refine ⟨fld_packFields_above (by simp [FieldsFit, *]) (by norm_num), ?_⟩
  simp only [fld_packFields_skip, Nat.reduceAdd, Nat.reduceLeDiff]
  refine ⟨?_, ?_, ?_, ?_, ?_, ?_, ?_, ?_, ?_, ?_, ?_⟩ <;> exact fld_packFields_head (by omega) (by simp [FieldsFit, *]) (by norm_num)

theorem word1_of_fld (h : fld w 30 2 = 0) :
    packFields [(fld w 29 1, 29), (fld w 28 1, 28), (fld w 27 1, 27), (fld w 26 1, 26), (fld w 25 1, 25), (fld w 23 2, 23), (fld w 19 4, 19),
      (fld w 9 10, 9), (fld w 6 3, 6), (fld w 3 3, 3), (fld w 0 3, 0)] = w := by
  have hall : packFields ([] ++ (fld w 30 2, 30) :: [(fld w 29 1, 29), (fld w 28 1, 28), (fld w 27 1, 27), (fld w 26 1, 26), (fld w 25 1, 25),
      (fld w 23 2, 23), (fld w 19 4, 19), (fld w 9 10, 9), (fld w 6 3, 6), (fld w 3 3, 3), (fld w 0 3, 0)]) = w :=
    packFields_of_packed (packed_cons_fld (packed_cons_fld (packed_cons_fld (packed_cons_fld (packed_cons_fld (packed_cons_fld
      (packed_cons_fld (packed_cons_fld (packed_cons_fld (packed_cons_fld (packed_cons_fld (packed_cons_fld (packed_nil w)))))))))))))
  rwa [h, packFields_zero] at hall

/-- The fields of the third word (R217, R221). -/
theorem fld_word2 {i e m : Nat} (hi : i < 256) (he : e < 256) (hm : m < 65536) (h : w = packFields [(i, 24), (e, 16), (m, 0)]) :
    fld w 24 8 = i ∧ fld w 16 8 = e ∧ fld w 0 16 = m := by
  subst h
  simp only [fld_packFields_skip, Nat.reduceAdd, Nat.reduceLeDiff]
  refine ⟨?_, ?_, ?_⟩ <;> exact fld_packFields_head (by omega) (by simp [FieldsFit, *]) (by norm_num)

theorem word2_of_fld (w : Word) : packFields [(fld w 24 8, 24), (fld w 16 8, 16), (fld w 0 16, 0)] = w :=
  packFields_of_packed (packed_cons_fld (packed_cons_fld (packed_cons_fld (packed_nil w))))

end

/-- The two literal words make up the literal (R226). -/
theorem litOf_extract (l : DWord) : litOf (l.extractLsb' 0 32) (l.extractLsb' 32 32) = l :=
  BitVec.extractLsb'_append_extractLsb'_eq_extractLsb' (w := 64) (by rfl) |>.trans (by simp)

theorem extract_litOf_lo (lo hi : Word) : (litOf lo hi).extractLsb' 0 32 = lo := by
  rw [litOf, BitVec.extractLsb'_append_eq_right]

theorem extract_litOf_hi (lo hi : Word) : (litOf lo hi).extractLsb' 32 32 = hi := by
  rw [litOf, BitVec.extractLsb'_append_eq_left]

end Sys2Proof
end

section
/-! SUPPORT. Layouts and words: the words of a layout are read as it, and words that are read as a layout are its words; O1
settled. -/

namespace Sys2Proof

open Machine

/-- Opcode of a layout. -/
def View.op : View → Op
  | .base op _ _ _ _ => op
  | .ext op _ => op
  | .litBase op _ _ _ => op
  | .jump op _ => op
  | .jumpX op _ _ _ => op
  | .brc _ _ _ => .brc
  | .brm _ _ _ _ _ _ => .brm

/-- The words of the layout stand at the program counter, with others after them, and are read as the layout. -/
structure View.ReadsBack (v : View) (rest : List Word) (w0 : Word) (t : List Word) : Prop where
  words : v.words ++ rest = w0 :: t
  op : Op.ofCode (fld w0 2 8) = some v.op
  len : lenWords (fld w0 0 2) = v.words.length
  view : readView v.op (w0 :: t) = .ok v

/-! ### Reading by length (R215, R235) -/

section
variable {op : Op} {w0 w1 w2 l0 l1 : Word} {r : List Word}

theorem readView_one (h : fld w0 0 2 = 0) : readView op (w0 :: r) = if op.isJump then .ok (.jump op (BitVec.ofNat 22 (fld w0 10 22)))
    else .ok (.base op (bit w0 31) (BitVec.ofNat 7 (fld w0 24 7)) (BitVec.ofNat 7 (fld w0 17 7)) (BitVec.ofNat 7 (fld w0 10 7))) := by
  simp only [readView, h]

theorem readView_three (h : fld w0 0 2 = 1) : readView op (w0 :: w1 :: w2 :: r) = readLong op w0 w1 w2 none := by
  simp only [readView, h]

theorem readView_lit (h : fld w0 0 2 = 2) : readView op (w0 :: l0 :: l1 :: r) =
    if op ≠ .movl && op ≠ .fmovl then .error .form
    else if fld w0 17 14 ≠ 0 then .error .reservedBits
    else .ok (.litBase op (bit w0 31) (BitVec.ofNat 7 (fld w0 10 7)) (litOf l0 l1)) := by
  simp only [readView, h]

theorem readView_five (h : fld w0 0 2 = 3) : readView op (w0 :: w1 :: w2 :: l0 :: l1 :: r) = readLong op w0 w1 w2 (some (litOf l0 l1)) := by
  simp only [readView, h]

end

/-! ### Reading the words of a layout -/

section
variable {op : Op} {rest : List Word}

theorem readExt_words {x : Ext} {w0 w1 w2 : Word} {n : Nat} (hn : n < 4)
    (h0 : w0 = packFields [(if x.u then 1 else 0, 31), (x.b.code % 128, 24), (x.a.code % 128, 17), (x.d.code % 128, 10), (op.code, 2), (n, 0)])
    (h1 : w1 = packFields [(if x.fzo then 1 else 0, 29), (if x.fzi then 1 else 0, 28), (if x.tC then 1 else 0, 27),
      (if x.tB then 1 else 0, 26), (if x.tA then 1 else 0, 25), (x.gs.toNat, 23), (x.g.toNat, 19), (x.c.code, 9),
      (x.b.code / 128, 6), (x.a.code / 128, 3), (x.d.code / 128, 0)])
    (h2 : w2 = packFields [(x.imm.toNat, 24), (x.e.code, 16), (x.mod.toNat, 0)]) :
    fld w0 2 8 = op.code ∧ fld w0 0 2 = n ∧ readExt w0 w1 w2 x.lit = .ok x := by
  have hcode := fun y : Sel => y.code_lt
  obtain ⟨hu, hb, ha, hd, hop, hlen⟩ := fld_word0 (flag_lt _) (Nat.mod_lt _ (by decide)) (Nat.mod_lt _ (by decide)) (Nat.mod_lt _ (by decide))
    op.code_lt hn h0
  obtain ⟨hr, hfo, hfi, hC, hB, hA, hgs, hg, hc, hb', ha', hd'⟩ := fld_word1 (flag_lt _) (flag_lt _) (flag_lt _) (flag_lt _) (flag_lt _) x.gs.isLt
    x.g.isLt (hcode x.c) (Nat.div_lt_of_lt_mul (hcode x.b)) (Nat.div_lt_of_lt_mul (hcode x.a)) (Nat.div_lt_of_lt_mul (hcode x.d)) h1
  obtain ⟨hi, he, hm⟩ := fld_word2 x.imm.isLt x.e.code_lt x.mod.isLt h2
  have hsel : ∀ y : Sel, Sel.ofCode (y.code / 128 * 128 + y.code % 128) = some y := fun y => by rw [Nat.div_add_mod', Sel.ofCode_code]
  refine ⟨hop, hlen, ?_⟩
  simp only [readExt, hr, hd, hd', ha, ha', hb, hb', hc, hgs, hg, hi, he, hm, hsel, Sel.ofCode_code, Sel2.ofCode_code, bit_of_fld hu, bit_of_fld hfo,
    bit_of_fld hfi, bit_of_fld hC, bit_of_fld hB, bit_of_fld hA, BitVec.ofNat_toNat, BitVec.setWidth_eq, ne_eq, not_true_eq_false, if_false]

/-- A label is a literal that must stand there (R227, R235). -/
theorem Ext.lit_of_only11 {x : Ext} (hop : op ∈ [Op.split, .spawn, .recruit]) (h : x.check op = none) : x.lit.isSome = true := by
  have hlit : x.litOk (sig op x) = true := by
    rw [Ext.check] at h
    obtain ⟨-, h⟩ := next_check h
    obtain ⟨-, h⟩ := next_check h
    obtain ⟨-, h⟩ := next_check h
    obtain ⟨-, h⟩ := next_check h
    obtain ⟨-, h⟩ := next_check h
    obtain ⟨-, h⟩ := next_check h
    obtain ⟨-, h⟩ := next_check h
    obtain ⟨-, h⟩ := next_check h
    obtain ⟨-, h⟩ := next_check h
    obtain ⟨-, h⟩ := next_check h
    obtain ⟨-, h⟩ := next_check h
    obtain ⟨hl, -⟩ := next_check h
    simpa only [Bool.not_eq_true, Bool.not_eq_false'] using hl
  have hlabel : (sig op x).lit = .label := by
    rcases List.mem_cons.mp hop with rfl | hop
    · rfl
    · rcases List.mem_pair.mp hop with rfl | rfl <;> rfl
  cases hx : x.lit with
  | some l => rfl
  | none => simp [Ext.litOk, hx, hlabel] at hlit

theorem readLong_ext {x : Ext} {w0 w1 w2 : Word} {l : Option DWord} (hl : (View.ext op x).legal = true) (hc : x.check op = none)
    (h : readExt w0 w1 w2 l = .ok x) (hlit : l = x.lit) : readLong op w0 w1 w2 l = .ok (.ext op x) := by
  have hjump : op.isJump = false := by
    refine Bool.eq_false_iff.mpr fun h => ?_
    rcases (by simpa [Op.isJump] using h : op = .bra ∨ op = .call) with rfl | rfl <;> exact Bool.false_ne_true hl
  have hbrc : op ≠ .brc := by rintro rfl; exact Bool.false_ne_true hl
  have hbrm : op ≠ .brm := by rintro rfl; exact Bool.false_ne_true hl
  have h11 : (op.only11 && l.isNone) = false := by
    by_cases hop : op ∈ [Op.split, .spawn, .recruit]
    · simp [hlit, Option.isNone_eq_false_iff.mpr (Ext.lit_of_only11 hop hc)]
    · simp only [List.mem_cons, List.not_mem_nil, or_false, not_or] at hop
      simp [Op.only11, hop, hbrc, hbrm]
  simp only [readLong, hjump, hbrc, hbrm, h11, h, Bool.false_eq_true, if_false]
  rfl

/-- A layout of three words that the fields of the words give. -/
theorem readsBack_three {v : View} {w0 w1 w2 : Word} (hw : v.words = [w0, w1, w2]) (hop : fld w0 2 8 = v.op.code) (hlen : fld w0 0 2 = 1)
    (h : readLong v.op w0 w1 w2 none = .ok v) (rest : List Word) : ∃ w0 t, v.ReadsBack rest w0 t :=
  ⟨w0, w1 :: w2 :: rest, by rw [hw]; rfl, by rw [hop, Op.ofCode_code], by rw [hlen, hw]; rfl, by rw [readView_three hlen, h]⟩

theorem readsBack_five {v : View} {w0 w1 w2 : Word} {l : DWord} (hw : v.words = [w0, w1, w2, l.extractLsb' 0 32, l.extractLsb' 32 32])
    (hop : fld w0 2 8 = v.op.code) (hlen : fld w0 0 2 = 3) (h : readLong v.op w0 w1 w2 (some l) = .ok v) (rest : List Word) :
    ∃ w0 t, v.ReadsBack rest w0 t :=
  ⟨w0, w1 :: w2 :: _ :: _ :: rest, by rw [hw]; rfl, by rw [hop, Op.ofCode_code], by rw [hlen, hw]; rfl,
    by rw [readView_five hlen, litOf_extract, h]⟩

theorem readsBack_ext {x : Ext} (hl : (View.ext op x).legal = true) (hc : x.check op = none) (rest : List Word) :
    ∃ w0 t, (View.ext op x).ReadsBack rest w0 t := by
  cases hx : x.lit with
  | none =>
    obtain ⟨hop, hlen, hread⟩ := readExt_words (op := op) (x := x) (n := 1) (by decide) rfl rfl rfl
    exact readsBack_three (v := .ext op x) (by simp only [View.words, Ext.words, hx]; rfl) hop hlen (readLong_ext hl hc (hx ▸ hread) hx.symm) rest
  | some l =>
    obtain ⟨hop, hlen, hread⟩ := readExt_words (op := op) (x := x) (n := 3) (by decide) rfl rfl rfl
    exact readsBack_five (v := .ext op x) (by simp only [View.words, Ext.words, hx]; rfl) hop hlen (readLong_ext hl hc (hx ▸ hread) hx.symm) rest

theorem readsBack_base {u : Bool} {b a d : BitVec 7} (hl : (View.base op u b a d).legal = true) (rest : List Word) :
    ∃ w0 t, (View.base op u b a d).ReadsBack rest w0 t := by
  have hjump : op.isJump = false := by
    refine Bool.eq_false_iff.mpr fun h => ?_
    rcases (by simpa [Op.isJump] using h : op = .bra ∨ op = .call) with rfl | rfl <;> exact Bool.false_ne_true hl
  have hw : packFields [(if u then 1 else 0, 31), (b.toNat, 24), (a.toNat, 17), (d.toNat, 10), (op.code, 2)] =
      packFields [(if u then 1 else 0, 31), (b.toNat, 24), (a.toNat, 17), (d.toNat, 10), (op.code, 2), (0, 0)] :=
    (packFields_zero 0 [_, _, _, _, _] []).symm
  obtain ⟨hu, hb, ha, hd, hop, hlen⟩ := fld_word0 (flag_lt u) b.isLt a.isLt d.isLt op.code_lt (by decide) hw
  refine ⟨_, rest, rfl, by rw [hop]; exact op.ofCode_code, by rw [hlen]; rfl, ?_⟩
  rw [readView_one hlen, View.op, hjump, hb, ha, hd, bit_of_fld hu]
  simp

theorem readsBack_litBase {u : Bool} {d : BitVec 7} {l : DWord} (hl : (View.litBase op u d l).legal = true) (rest : List Word) :
    ∃ w0 t, (View.litBase op u d l).ReadsBack rest w0 t := by
  have hw : packFields [(if u then 1 else 0, 31), (d.toNat, 10), (op.code, 2), (2, 0)] =
      packFields [(if u then 1 else 0, 31), (0, 24), (0, 17), (d.toNat, 10), (op.code, 2), (2, 0)] := by simp [packFields]
  obtain ⟨hu, -, -, hd, hop, hlen⟩ := fld_word0 (flag_lt u) (by decide) (by decide) d.isLt op.code_lt (by decide) hw
  have hzero : fld (packFields [(if u then 1 else 0, 31), (d.toNat, 10), (op.code, 2), (2, 0)]) 17 14 = 0 := by
    rw [fld_packFields_skip (by decide) (by decide)]
    have hcode := op.code_lt
    exact fld_packFields_above (by simp [FieldsFit, hcode, d.isLt]) (by decide)
  have hform : (decide (op ≠ .movl) && decide (op ≠ .fmovl)) = false := by
    simp only [View.legal, Bool.or_eq_true, Bool.and_eq_true, decide_eq_true_eq] at hl
    rcases hl with rfl | ⟨rfl, -⟩ <;> rfl
  refine ⟨_, _ :: _ :: rest, rfl, by rw [hop]; exact op.ofCode_code, by rw [hlen]; rfl, ?_⟩
  rw [readView_lit hlen, View.op, hform, hzero, hd, bit_of_fld hu, litOf_extract]
  simp

theorem readsBack_jump {j : BitVec 22} (hl : (View.jump op j).legal = true) (rest : List Word) :
    ∃ w0 t, (View.jump op j).ReadsBack rest w0 t := by
  have hjump : op.isJump = true := hl
  have hcode := op.code_lt
  have hj : fld (packFields [(j.toNat, 10), (op.code, 2)]) 10 22 = j.toNat := fld_packFields_head j.isLt (by simp [FieldsFit, hcode]) (by decide)
  have hop : fld (packFields [(j.toNat, 10), (op.code, 2)]) 2 8 = op.code := by
    rw [fld_packFields_skip (by decide) (by decide)]
    exact fld_packFields_head hcode trivial (by decide)
  have hlen : fld (packFields [(j.toNat, 10), (op.code, 2)]) 0 2 = 0 := by
    simp only [fld_packFields_skip, Nat.reduceAdd, Nat.reduceLeDiff, fld_packFields_nil]
  refine ⟨_, rest, rfl, by rw [hop]; exact op.ofCode_code, by rw [hlen]; rfl, ?_⟩
  rw [readView_one hlen, View.op, hjump, hj]
  simp

theorem readsBack_jumpX {j : BitVec 22} {g : BitVec 4} {gs : BitVec 2} (hl : (View.jumpX op j g gs).legal = true) (rest : List Word) :
    ∃ w0 t, (View.jumpX op j g gs).ReadsBack rest w0 t := by
  have hjump : op.isJump = true := hl
  have hcode := op.code_lt
  have hj : fld (packFields [(j.toNat, 10), (op.code, 2), (1, 0)]) 10 22 = j.toNat :=
    fld_packFields_head j.isLt (by simp [FieldsFit, hcode]) (by decide)
  have hop : fld (packFields [(j.toNat, 10), (op.code, 2), (1, 0)]) 2 8 = op.code := by
    rw [fld_packFields_skip (by decide) (by decide)]
    exact fld_packFields_head hcode (by simp [FieldsFit]) (by decide)
  have hlen : fld (packFields [(j.toNat, 10), (op.code, 2), (1, 0)]) 0 2 = 1 := by
    simp only [fld_packFields_skip, Nat.reduceAdd, Nat.reduceLeDiff]
    exact fld_packFields_head (by decide) trivial (by decide)
  have hgs : fld (packFields [(gs.toNat, 23), (g.toNat, 19)]) 23 2 = gs.toNat := fld_packFields_head gs.isLt (by simp [FieldsFit, g.isLt]) (by decide)
  have hg : fld (packFields [(gs.toNat, 23), (g.toNat, 19)]) 19 4 = g.toNat := by
    rw [fld_packFields_skip (by decide) (by decide)]
    exact fld_packFields_head g.isLt trivial (by decide)
  have hlow : (packFields [(gs.toNat, 23), (g.toNat, 19)]).toNat % 2 ^ 19 = 0 := by
    have h : fld (packFields [(gs.toNat, 23), (g.toNat, 19)]) 0 19 = 0 := by
      simp only [fld_packFields_skip, Nat.reduceAdd, Nat.reduceLeDiff, fld_packFields_nil]
    simpa [fld] using h
  have hhigh : fld (packFields [(gs.toNat, 23), (g.toNat, 19)]) 25 7 = 0 := fld_packFields_above (by simp [FieldsFit, g.isLt, gs.isLt]) (by decide)
  refine readsBack_three rfl hop hlen ?_ rest
  simp only [readLong, View.op, hjump, hlow, hhigh, hj, hg, hgs]
  simp

theorem readsBack_brc {c : BitVec 4} {tC : Bool} {l : DWord} (rest : List Word) : ∃ w0 t, (View.brc c tC l).ReadsBack rest w0 t := by
  refine readsBack_five rfl rfl rfl ?_ rest
  have hfields : ∀ (c : BitVec 4) (tC : Bool), let w := packFields [(if tC then 1 else 0, 27), (15, 19), (0x280 + c.toNat, 9)]
      fld w 0 9 = 0 ∧ fld w 13 6 = 0x28 ∧ fld w 19 6 = 15 ∧ fld w 25 2 = 0 ∧ fld w 28 4 = 0 ∧ BitVec.ofNat 4 (fld w 9 4) = c ∧ bit w 27 = tC := by
    decide
  obtain ⟨h0, h13, h19, h25, h28, h9, h27⟩ := hfields c tC
  have hw0 : fld (packFields [(Op.brc.code, 2), (3, 0)]) 10 22 = 0 := by decide
  simp only [readLong, View.op, hw0, h0, h13, h19, h25, h28, h9, h27]
  simp [Op.isJump]

theorem readsBack_brm {p3 p2 p1 p0 : BitVec 4} {jn : BitVec 16} {l : DWord} (rest : List Word) :
    ∃ w0 t, (View.brm p3 p2 p1 p0 jn l).ReadsBack rest w0 t := by
  refine readsBack_five rfl rfl rfl ?_ rest
  have hw0 : fld (packFields [(Op.brm.code, 2), (3, 0)]) 10 22 = 0 := by decide
  have h0 : fld (packFields [(p3.toNat, 21), (p2.toNat, 17), (p1.toNat, 13), (p0.toNat, 9)]) 0 9 = 0 := by
    simp only [fld_packFields_skip, Nat.reduceAdd, Nat.reduceLeDiff, fld_packFields_nil]
  have h25 : fld (packFields [(p3.toNat, 21), (p2.toNat, 17), (p1.toNat, 13), (p0.toNat, 9)]) 25 7 = 0 :=
    fld_packFields_above (by simp [FieldsFit, p3.isLt, p2.isLt, p1.isLt, p0.isLt]) (by decide)
  have hp : let w := packFields [(p3.toNat, 21), (p2.toNat, 17), (p1.toNat, 13), (p0.toNat, 9)]
      fld w 21 4 = p3.toNat ∧ fld w 17 4 = p2.toNat ∧ fld w 13 4 = p1.toNat ∧ fld w 9 4 = p0.toNat := by
    simp only [fld_packFields_skip, Nat.reduceAdd, Nat.reduceLeDiff]
    refine ⟨?_, ?_, ?_, ?_⟩ <;> exact fld_packFields_head (BitVec.isLt _) (by simp [FieldsFit, p2.isLt, p1.isLt, p0.isLt]) (by decide)
  obtain ⟨h21, h17, h13, h9⟩ := hp
  have hj : fld (packFields [(jn.toNat, 0)]) 0 16 = jn.toNat := fld_packFields_head jn.isLt trivial (by decide)
  have hj' : fld (packFields [(jn.toNat, 0)]) 16 16 = 0 := fld_packFields_above (by simp [FieldsFit, jn.isLt]) (by decide)
  simp only [readLong, View.op, hw0, h0, h25, h21, h17, h13, h9, hj, hj']
  simp [Op.isJump]

end

/-- The words of a legal layout are read as it. -/
theorem View.readsBack {v : View} (hl : v.legal = true) (hc : v.check = none) (rest : List Word) : ∃ w0 t, v.ReadsBack rest w0 t := by
  cases v with
  | base op u b a d => exact readsBack_base hl rest
  | ext op x => exact readsBack_ext hl hc rest
  | litBase op u d l => exact readsBack_litBase hl rest
  | jump op j => exact readsBack_jump hl rest
  | jumpX op j g gs => exact readsBack_jumpX hl rest
  | brc c tC l => exact readsBack_brc rest
  | brm p3 p2 p1 p0 jn l => exact readsBack_brm rest

theorem decodeView_words {v : View} (hl : v.legal = true) (hc : v.check = none) (rest : List Word) :
    decodeView (v.words ++ rest) = .ok (v, v.words.length) := by
  obtain ⟨w0, t, hw, hop, hlen, hview⟩ := View.readsBack hl hc rest
  simp only [hw, decodeView, hop, hview, hc, hl, hlen, if_true]

/-- The layout of an instruction is legal, and is that instruction's. -/
theorem Instr.legal_of_view {i : Instr} {v : View} (h : i.view = some v) : v.legal = true ∧ v.instr = some i := by
  cases i <;> cases h <;> exact ⟨rfl, rfl⟩

/-- Settles O1: the words of a layout are read as it, form by form. -/
theorem decodeInvertsEncode : Obligations.DecodeInvertsEncode := by
  intro i rest hwf henc
  obtain ⟨v, hv⟩ := Option.isSome_iff_exists.mp henc
  obtain ⟨hl, hi⟩ := Instr.legal_of_view hv
  have hc : v.check = none := by simpa [Instr.wf, Instr.bad, hv] using hwf
  have hwords : encode i = v.words := by rw [encode, hv]
  rw [hwords, Machine.decode_ok_iff]
  exact ⟨v, decodeView_words hl hc rest, hi⟩

end Sys2Proof
end

section
/-! SUPPORT. Words that are read as a layout are its words; O2 settled. -/

namespace Sys2Proof

open Machine

/-- The words of a literal, where there is one. -/
def litWords : Option DWord → List Word
  | some l => [l.extractLsb' 0 32, l.extractLsb' 32 32]
  | none => []

section
variable {op : Op} {w0 w1 w2 : Word} {l : Option DWord} {v : View}

/-- A field that holds 0 needs no entry in the packing. -/
theorem packed_skip_fld {w : Word} {r : List (Nat × Nat)} {lo k : Nat} (h0 : fld w lo k = 0) (h : packed r = w.toNat % 2 ^ lo) :
    packed r = w.toNat % 2 ^ (lo + k) := by
  rw [← packed_cons_fld h, packed_cons, h0, Nat.zero_mul, Nat.zero_add]

theorem Sel.code_parts {y : Sel} {m k : Nat} (hk : k < 128) (h : Sel.ofCode (m * 128 + k) = some y) : y.code % 128 = k ∧ y.code / 128 = m := by
  rw [Sel.code_of_ofCode h]
  omega

/-- The first word of a form whose operands stand in the words after it (R231, R232). -/
theorem opcodeWord (hzero : fld w0 10 22 = 0) {n : Nat} (hop : op.code = fld w0 2 8) (hlen : fld w0 0 2 = n) :
    packFields [(op.code, 2), (n, 0)] = w0 := by
  rw [hop, ← hlen]
  exact packFields_of_packed (packed_skip_fld hzero (packed_cons_fld (packed_cons_fld (packed_nil w0))))

theorem words_of_readExt {x : Ext} (h : readExt w0 w1 w2 l = .ok x) (hop : op.code = fld w0 2 8)
    (hlen : fld w0 0 2 = if l.isSome then 3 else 1) : x.words op = [w0, w1, w2] ++ litWords l := by
  unfold readExt at h
  split at h
  · cases h
  rename_i hr
  split at h
  case h_2 => cases h
  rename_i d a b c e hd ha hb hc he
  cases h
  obtain ⟨hd0, hd1⟩ := Sel.code_parts (fld_lt w0 10 7) hd
  obtain ⟨ha0, ha1⟩ := Sel.code_parts (fld_lt w0 17 7) ha
  obtain ⟨hb0, hb1⟩ := Sel.code_parts (fld_lt w0 24 7) hb
  simp only [Ext.words, flag_bit, ofNat_fld_toNat, Sel.code_of_ofCode hc, Sel2.code_of_ofCode he, hop, ← hlen, hd0, hd1, ha0, ha1, hb0, hb1,
    word0_of_fld, word1_of_fld (not_not.mp hr), word2_of_fld]
  cases l <;> rfl

theorem words_of_brc (h0 : fld w1 0 9 = 0) (h13 : fld w1 13 6 = 0x28) (h19 : fld w1 19 6 = 15) (h25 : fld w1 25 2 = 0) (h28 : fld w1 28 4 = 0) :
    packFields [(if bit w1 27 then 1 else 0, 27), (15, 19), (0x280 + (BitVec.ofNat 4 (fld w1 9 4)).toNat, 9)] = w1 := by
  have h9 : 0x280 + fld w1 9 4 = fld w1 9 10 := by simp only [fld] at h13 ⊢; omega
  rw [flag_bit, ofNat_fld_toNat, h9, ← h19]
  exact packFields_of_packed (packed_skip_fld h28 (packed_cons_fld (packed_skip_fld h25 (packed_cons_fld (packed_cons_fld
    (packed_skip_fld h0 (packed_nil w1)))))))

theorem words_of_brm (h0 : fld w1 0 9 = 0) (h25 : fld w1 25 7 = 0) :
    packFields [((BitVec.ofNat 4 (fld w1 21 4)).toNat, 21), ((BitVec.ofNat 4 (fld w1 17 4)).toNat, 17), ((BitVec.ofNat 4 (fld w1 13 4)).toNat, 13),
      ((BitVec.ofNat 4 (fld w1 9 4)).toNat, 9)] = w1 := by
  simp only [ofNat_fld_toNat]
  exact packFields_of_packed (packed_skip_fld h25 (packed_cons_fld (packed_cons_fld (packed_cons_fld (packed_cons_fld
    (packed_skip_fld h0 (packed_nil w1)))))))

theorem words_of_readLong (h : readLong op w0 w1 w2 l = .ok v) (hop : op.code = fld w0 2 8)
    (hlen : fld w0 0 2 = if l.isSome then 3 else 1) : v.words = [w0, w1, w2] ++ litWords l := by
  unfold readLong at h
  split_ifs at h with hjump hlit hzero hbrc hzero hbrm hzero h11
  · simp only [Bool.or_eq_true, decide_eq_true_eq, not_or, not_not] at hzero
    obtain ⟨⟨hlow, hhigh⟩, rfl⟩ := hzero
    cases h
    have hnone : l = none := by simpa using hlit
    subst hnone
    have hlow' : packed [] = w1.toNat % 2 ^ 19 := by rw [hlow]; rfl
    have hw0 : packFields [(fld w0 10 22, 10), (fld w0 2 8, 2), (fld w0 0 2, 0)] = w0 :=
      packFields_of_packed (packed_cons_fld (packed_cons_fld (packed_cons_fld (packed_nil w0))))
    have hw1 : packFields [(fld w1 23 2, 23), (fld w1 19 4, 19)] = w1 :=
      packFields_of_packed (packed_skip_fld hhigh (packed_cons_fld (packed_cons_fld hlow')))
    simp only [View.words, ofNat_fld_toNat, hop, hw1]
    rw [hlen] at hw0
    exact congrArg (fun w => [w, w1, 0]) hw0
  · split at h <;> cases h
  · split at h <;> cases h
    simp only [Bool.or_eq_true, decide_eq_true_eq, not_or, not_not] at hzero
    obtain ⟨⟨⟨⟨⟨⟨hz, h0⟩, h13⟩, h19⟩, h25⟩, h28⟩, rfl⟩ := hzero
    subst hbrc
    simp only [View.words, words_of_brc h0 h13 h19 h25 h28, opcodeWord (n := 3) hz hop hlen]
    rfl
  · split at h <;> cases h
  · split at h <;> cases h
    simp only [Bool.or_eq_true, decide_eq_true_eq, not_or, not_not] at hzero
    obtain ⟨⟨⟨hz, h0⟩, h25⟩, h16⟩ := hzero
    subst hbrm
    have hw2 : packFields [((BitVec.ofNat 16 (fld w2 0 16)).toNat, 0)] = w2 := by
      rw [ofNat_fld_toNat]
      exact packFields_of_packed (packed_skip_fld h16 (packed_cons_fld (packed_nil w2)))
    simp only [View.words, words_of_brm h0 h25, hw2, opcodeWord (n := 3) hz hop hlen]
    rfl
  · obtain ⟨x, hx, rfl⟩ : ∃ x, readExt w0 w1 w2 l = .ok x ∧ View.ext op x = v := by
      cases hx : readExt w0 w1 w2 l with
      | error e => rw [hx] at h; cases h
      | ok x => rw [hx] at h; cases h; exact ⟨x, rfl, rfl⟩
    exact words_of_readExt hx hop hlen

theorem words_of_readView {ws : List Word} (hop : Op.ofCode (fld w0 2 8) = some op) (h : readView op (w0 :: ws) = .ok v) :
    v.words = (w0 :: ws).take (lenWords (fld w0 0 2)) := by
  have hcode := Op.code_of_ofCode (fld_lt w0 2 8) hop
  simp only [readView] at h
  split at h
  · rename_i hlen
    rw [hlen]
    have hpack := packFields_of_packed (packed_cons_fld (k := 22) (packed_cons_fld (k := 8) (packed_skip_fld hlen (packed_nil w0))))
    have hpack' := packFields_of_packed (packed_cons_fld (k := 1) (packed_cons_fld (k := 7) (packed_cons_fld (k := 7) (packed_cons_fld (k := 7)
      (packed_cons_fld (k := 8) (packed_skip_fld hlen (packed_nil w0)))))))
    split at h <;> cases h
    · simp only [View.words, ofNat_fld_toNat, hcode]
      exact congrArg (fun w => [w]) hpack
    · simp only [View.words, ofNat_fld_toNat, flag_bit, hcode]
      exact congrArg (fun w => [w]) hpack'
  · rename_i w1 w2 r hlen
    rw [words_of_readLong h hcode hlen, hlen]
    rfl
  · rename_i l0 l1 r hlen
    rw [hlen]
    split_ifs at h with hform hzero
    cases h
    have hpack := packFields_of_packed (packed_cons_fld (k := 1) (packed_skip_fld (not_not.mp hzero) (packed_cons_fld (k := 7)
      (packed_cons_fld (k := 8) (packed_cons_fld (k := 2) (packed_nil w0))))))
    rw [hlen] at hpack
    simp only [View.words, ofNat_fld_toNat, flag_bit, hcode, extract_litOf_lo, extract_litOf_hi]
    exact congrArg (fun w => [w, l0, l1]) hpack
  · rename_i w1 w2 l0 l1 r hlen
    rw [words_of_readLong h hcode hlen, hlen, litWords, extract_litOf_lo, extract_litOf_hi]
    rfl
  · cases h

end

/-- Words that decode are the words of a legal layout that passes the checks of R236. -/
theorem words_of_decodeView {ws : List Word} {v : View} {n : Nat} (h : decodeView ws = .ok (v, n)) : v.words = ws.take n ∧ v.check = none := by
  unfold decodeView at h
  split at h
  · cases h
  · rename_i w0 r
    split at h
    · cases h
    · rename_i op hop
      split at h
      · cases h
      · rename_i u hu
        split at h
        · cases h
        · rename_i hc
          split_ifs at h
          cases h
          exact ⟨words_of_readView hop hu, hc⟩

/-- Settles O2: the words that a layout was read from are its words, form by form. -/
theorem encodeInvertsDecode : Obligations.EncodeInvertsDecode := by
  intro ws i n h
  obtain ⟨v, hv, hi⟩ := decode_ok_iff.mp h
  have hview := View.view_of_instr v i hi
  obtain ⟨hw, hc⟩ := words_of_decodeView hv
  exact ⟨by simp only [encode, hview, hw], by simp [Instr.wf, Instr.bad, hview, hc]⟩

end Sys2Proof
end

section
/-! SUPPORT. Dyadics as reals, the values of a format in order, and the roundings of R188: RoundDown lies at or below the real that a cut
stands for, RoundUp at or above. -/

namespace Sys2Proof.Machine

/-! ### Dyadics -/

namespace Dy

@[simp] theorem real_zero : Dy.zero.real = 0 := by simp [Dy.zero, Dy.real]

theorem real_eq_zero_iff {a : Dy} : a.real = 0 ↔ a.m = 0 := by simp [Dy.real, zpow_ne_zero]

@[simp] theorem real_ofInt (n : Int) : (Dy.ofInt n).real = n := by simp [Dy.ofInt, Dy.real]

@[simp] theorem real_neg (a : Dy) : a.neg.real = -a.real := by simp [Dy.neg, Dy.real]

@[simp] theorem real_abs (a : Dy) : a.abs.real = |a.real| := by
  simp [Dy.abs, Dy.real, abs_mul, abs_of_pos (zpow_pos (two_pos (α := ℝ)) a.e)]

@[simp] theorem real_mul (a b : Dy) : (a.mul b).real = a.real * b.real := by
  simp only [Dy.mul, Dy.real, zpow_add₀ (two_ne_zero (α := ℝ)), Int.cast_mul]
  ring

@[simp] theorem real_scale (a : Dy) (n : Int) : (a.scale n).real = a.real * 2 ^ n := by
  simp only [Dy.scale, Dy.real, zpow_add₀ (two_ne_zero (α := ℝ))]
  ring

/-- A power of two as a number of halvings of a coarser one. -/
theorem pow_sub_mul {e e' : Int} (h : e ≤ e') : (2 : ℝ) ^ (e' - e).toNat * 2 ^ e = 2 ^ e' := by
  rw [← zpow_natCast, Int.toNat_of_nonneg (by omega), ← zpow_add₀ (two_ne_zero (α := ℝ)), Int.sub_add_cancel]

@[simp] theorem real_add (a b : Dy) : (a.add b).real = a.real + b.real := by
  unfold Dy.add
  split_ifs with ha hb he
  · rw [real_eq_zero_iff.mpr ha, zero_add]
  · rw [real_eq_zero_iff.mpr hb, add_zero]
  · simp only [Dy.real, Int.cast_add, Int.cast_mul, Int.cast_pow, Int.cast_ofNat, add_mul, mul_assoc, pow_sub_mul he]
  · simp only [Dy.real, Int.cast_add, Int.cast_mul, Int.cast_pow, Int.cast_ofNat, add_mul, mul_assoc, pow_sub_mul (le_of_not_ge he)]

@[simp] theorem real_sub (a b : Dy) : (a.sub b).real = a.real - b.real := by rw [Dy.sub, real_add, real_neg, sub_eq_add_neg]

/-- The sign of a dyadic is its mantissa's. -/
theorem real_pos_iff {a : Dy} : 0 < a.real ↔ 0 < a.m := by simp [Dy.real, mul_pos_iff_of_pos_right (zpow_pos (two_pos (α := ℝ)) a.e)]

theorem real_neg_iff {a : Dy} : a.real < 0 ↔ a.m < 0 := by
  simp [Dy.real, mul_neg_iff, zpow_pos (two_pos (α := ℝ)) a.e, (zpow_pos (two_pos (α := ℝ)) a.e).not_gt]

/-- The leading bit of a dyadic bounds its size. -/
theorem abs_real_bounds {a : Dy} (h : a.m ≠ 0) :
    (2 : ℝ) ^ ((a.m.natAbs.log2 : Int) + a.e) ≤ |a.real| ∧ |a.real| < 2 ^ ((a.m.natAbs.log2 : Int) + a.e + 1) := by
  have hpos := zpow_pos (two_pos (α := ℝ)) a.e
  have habs : |a.real| = (a.m.natAbs : ℝ) * 2 ^ a.e := by
    rw [Dy.real, abs_mul, abs_of_pos hpos, Nat.cast_natAbs, Int.cast_abs]
  have hne : a.m.natAbs ≠ 0 := Int.natAbs_ne_zero.mpr h
  rw [habs, show (a.m.natAbs.log2 : Int) + a.e + 1 = ((a.m.natAbs.log2 + 1 : Nat) : Int) + a.e by push_cast; ring,
    zpow_add₀ (two_ne_zero (α := ℝ)), zpow_add₀ (two_ne_zero (α := ℝ)), zpow_natCast, zpow_natCast]
  constructor
  · exact mul_le_mul_of_nonneg_right (by exact_mod_cast Nat.log2_self_le hne) hpos.le
  · exact mul_lt_mul_of_pos_right (by exact_mod_cast Nat.lt_log2_self) hpos

end Dy

/-- A smaller leading bit means a smaller size. -/
theorem Dy.abs_lt_abs_of_log {a b : Dy} (ha : a.m ≠ 0) (hb : b.m ≠ 0)
    (h : (a.m.natAbs.log2 : Int) + a.e < (b.m.natAbs.log2 : Int) + b.e) : |a.real| < |b.real| :=
  calc |a.real| < 2 ^ ((a.m.natAbs.log2 : Int) + a.e + 1) := (abs_real_bounds ha).2
    _ ≤ 2 ^ ((b.m.natAbs.log2 : Int) + b.e) := zpow_le_zpow_right₀ one_le_two (by omega)
    _ ≤ |b.real| := (abs_real_bounds hb).1

/-- Comparisons that agree in both directions are one. -/
theorem compare_congr {α β : Type} [LinearOrder α] [LinearOrder β] {x y : α} {x' y' : β} (h : x < y ↔ x' < y') (h' : y < x ↔ y' < x') :
    compare x y = compare x' y' := by
  rcases lt_trichotomy x y with hlt | heq | hgt
  · rw [compare_lt_iff_lt.mpr hlt, compare_lt_iff_lt.mpr (h.mp hlt)]
  · have heq' : x' = y' := le_antisymm (not_lt.mp fun hh => (h'.mpr hh).ne heq.symm) (not_lt.mp fun hh => (h.mpr hh).ne heq)
    rw [compare_eq_iff_eq.mpr heq, compare_eq_iff_eq.mpr heq']
  · rw [compare_gt_iff_gt.mpr hgt, compare_gt_iff_gt.mpr (h'.mp hgt)]

/-- Dyadics that are not of one sign, by their signs. -/
theorem Dy.compare_sign {a b : Dy} (h : a.m = 0 ∨ b.m = 0 ∨ (a.m < 0 ∧ 0 < b.m) ∨ (0 < a.m ∧ b.m < 0)) :
    compare a.m.sign b.m.sign = compare a.real b.real := by
  have key : ∀ {a b : Dy}, (a.m = 0 ∨ b.m = 0 ∨ (a.m < 0 ∧ 0 < b.m) ∨ (0 < a.m ∧ b.m < 0)) → (a.m.sign < b.m.sign ↔ a.real < b.real) := by
    intro a b h
    rcases h with h | h | ⟨h, h'⟩ | ⟨h, h'⟩
    · rw [real_eq_zero_iff.mpr h, h, Int.sign_zero, Int.sign_pos_iff, real_pos_iff]
    · rw [real_eq_zero_iff.mpr h, h, Int.sign_zero, Int.sign_neg_iff, real_neg_iff]
    · rw [Int.sign_eq_neg_one_of_neg h, Int.sign_eq_one_of_pos h']
      exact iff_of_true (by decide) ((real_neg_iff.mpr h).trans (real_pos_iff.mpr h'))
    · rw [Int.sign_eq_one_of_pos h, Int.sign_eq_neg_one_of_neg h']
      exact iff_of_false (by decide) ((real_neg_iff.mpr h').trans (real_pos_iff.mpr h)).not_gt
  exact compare_congr (key h) (key (by tauto))

/-- Comparing dyadics compares the reals (R188). -/
theorem Dy.cmp_eq (a b : Dy) : a.cmp b = compare a.real b.real := by
  unfold Dy.cmp
  split <;> rename_i hsign
  · refine compare_sign ?_
    simp only [Bool.or_eq_true, decide_eq_true_eq, ne_eq, eq_iff_iff] at hsign
    omega
  have hne : a.m ≠ 0 ∧ b.m ≠ 0 ∧ (a.m < 0 ↔ b.m < 0) := by
    simp only [Bool.or_eq_true, decide_eq_true_eq, ne_eq, eq_iff_iff] at hsign
    tauto
  obtain ⟨ha, hb, hs⟩ := hne
  have key : ∀ {x y : Dy}, x.m ≠ 0 → y.m ≠ 0 → (x.m < 0 ↔ y.m < 0) → (x.m.natAbs.log2 : Int) + x.e < (y.m.natAbs.log2 : Int) + y.e →
      (if x.m < 0 then y.real < x.real else x.real < y.real) := by
    intro x y hx hy hxy hlog
    have hlt := abs_lt_abs_of_log hx hy hlog
    split_ifs with hneg
    · rwa [abs_of_neg (real_neg_iff.mpr hneg), abs_of_neg (real_neg_iff.mpr (hxy.mp hneg)), neg_lt_neg_iff] at hlt
    · rwa [abs_of_pos (real_pos_iff.mpr (by omega)), abs_of_pos (real_pos_iff.mpr (by omega))] at hlt
  dsimp only
  rcases lt_trichotomy ((a.m.natAbs.log2 : Int) + a.e) ((b.m.natAbs.log2 : Int) + b.e) with hlog | hlog | hlog
  · rw [if_pos hlog]
    have hlt := key ha hb hs hlog
    split_ifs at hlt ⊢
    · exact (compare_gt_iff_gt.mpr hlt).symm
    · exact (compare_lt_iff_lt.mpr hlt).symm
  · rw [if_neg hlog.not_lt, if_neg hlog.not_gt]
    refine compare_congr ?_ ?_
    · rw [← real_neg_iff, real_sub, sub_neg]
    · rw [← real_pos_iff, real_sub, sub_pos]
  · rw [if_neg hlog.not_gt, if_pos hlog]
    have hlt := key hb ha hs.symm hlog
    simp only [← hs] at hlt
    split_ifs at hlt ⊢
    · exact (compare_lt_iff_lt.mpr hlt).symm
    · exact (compare_gt_iff_gt.mpr hlt).symm

theorem Dy.le_iff {a b : Dy} : a.le b = true ↔ a.real ≤ b.real := by
  simp [Dy.le, Dy.cmp_eq, compare_gt_iff_gt]

/-! ### Values of a format (R185) -/

namespace Fmt

/-- The value of a code, by its exponent x and its fraction r. -/
theorem real_mag (f : Fmt) {x r : Nat} (hr : r < 2 ^ f.frac) : (f.mag (2 ^ f.frac * x + r)).real =
    if x = 0 then (r : ℝ) * 2 ^ (1 - f.bias - f.frac) else ((2 ^ f.frac + r : Nat) : ℝ) * 2 ^ ((x : Int) - f.bias - f.frac) := by
  have hx : (2 ^ f.frac * x + r) / 2 ^ f.frac = x := by rw [Nat.mul_add_div (Nat.two_pow_pos _), Nat.div_eq_of_lt hr, Nat.add_zero]
  have hm : (2 ^ f.frac * x + r) % 2 ^ f.frac = r := by rw [Nat.mul_add_mod, Nat.mod_eq_of_lt hr]
  rw [Fmt.mag, hx, hm]
  split_ifs <;> simp only [Dy.real, Int.cast_natCast]

@[simp] theorem real_mag_zero (f : Fmt) : (f.mag 0).real = 0 := by simp [Fmt.mag, Dy.real]

/-- The next code has a larger value: it is the next fraction, or fraction 0 of the next exponent. -/
theorem real_mag_lt_succ (f : Fmt) (c : Nat) : (f.mag c).real < (f.mag (c + 1)).real := by
  obtain ⟨x, r, hr, rfl⟩ : ∃ x r, r < 2 ^ f.frac ∧ c = 2 ^ f.frac * x + r := ⟨_, _, Nat.mod_lt _ (Nat.two_pow_pos _), (Nat.div_add_mod c (2 ^ f.frac)).symm⟩
  have hpos := fun e : Int => zpow_pos (two_pos (α := ℝ)) e
  rcases Nat.lt_or_ge (r + 1) (2 ^ f.frac) with hlt | hge
  · rw [Nat.add_assoc, real_mag f hr, real_mag f hlt]
    split_ifs
    · exact mul_lt_mul_of_pos_right (by exact_mod_cast Nat.lt_succ_self r) (hpos _)
    · exact mul_lt_mul_of_pos_right (by exact_mod_cast Nat.lt_succ_self _) (hpos _)
  · have hnext : 2 ^ f.frac * x + r + 1 = 2 ^ f.frac * (x + 1) + 0 := by rw [Nat.mul_succ]; omega
    rw [hnext, real_mag f hr, real_mag f (Nat.two_pow_pos _), if_neg (Nat.succ_ne_zero x), Nat.add_zero]
    split_ifs with hx
    · subst hx
      exact mul_lt_mul_of_pos_right (by exact_mod_cast hr) (hpos _)
    · have hexp : ((x + 1 : Nat) : Int) - f.bias - f.frac = 1 + (x - f.bias - f.frac) := by push_cast; ring
      rw [hexp, zpow_one_add₀ (two_ne_zero (α := ℝ)), ← mul_assoc]
      exact mul_lt_mul_of_pos_right (by exact_mod_cast (by omega : 2 ^ f.frac + r < 2 ^ f.frac * 2)) (hpos _)

theorem real_mag_strictMono (f : Fmt) : StrictMono fun c => (f.mag c).real := strictMono_nat_of_lt_succ f.real_mag_lt_succ

theorem real_mag_nonneg (f : Fmt) (c : Nat) : 0 ≤ (f.mag c).real :=
  f.real_mag_zero ▸ f.real_mag_strictMono.monotone (Nat.zero_le c)

theorem real_mag_pos {f : Fmt} {c : Nat} (h : 0 < c) : 0 < (f.mag c).real := f.real_mag_zero ▸ f.real_mag_strictMono h

/-- The value at a place in the order of the format. -/
noncomputable def valueAt (f : Fmt) (k : Int) : ℝ := if k < 0 then -(f.mag k.natAbs).real else (f.mag k.natAbs).real

theorem valueAt_strictMono (f : Fmt) : StrictMono f.valueAt := by
  intro j k hjk
  unfold Fmt.valueAt
  have hmono := f.real_mag_strictMono
  split_ifs with hj hk hk
  · exact neg_lt_neg (hmono (by omega))
  · exact (neg_neg_of_pos (real_mag_pos (by omega))).trans_le (f.real_mag_nonneg _)
  · omega
  · exact hmono (by omega)

@[simp] theorem valueAt_zero (f : Fmt) : f.valueAt 0 = 0 := by simp [Fmt.valueAt]

/-- The largest code lies below the places of the infinities. -/
theorem top_lt (f : Fmt) : f.top < 2 ^ 64 := by cases f <;> decide

/-- The formats of registers: FP32, and FP64 in pairs (R171). -/
def isReg (f : Fmt) : Prop := f = .fp32 ∨ f = .fp64

end Fmt

/-! ### Points (R185, R194) -/

namespace Pt

variable {f : Fmt} {p q : Pt}

/-- A point of the format that is no NaN. -/
def Good (f : Fmt) : Pt → Prop
  | .nan => False
  | .inf _ => True
  | .fin _ c => c ≤ f.top

theorem key_fin (neg : Bool) (c : Nat) : (Pt.fin neg c).key = if neg then -(c : Int) else c := rfl

theorem ext_fin (f : Fmt) (neg : Bool) (c : Nat) : (Pt.fin neg c).ext f = (f.valueAt (Pt.fin neg c).key : EReal) := by
  rw [key_fin]
  cases neg with
  | false => simp [Pt.ext, Fmt.valueAt]
  | true =>
    rcases Nat.eq_zero_or_pos c with rfl | hc
    · simp [Pt.ext]
    · simp [Pt.ext, Fmt.valueAt, hc]

theorem Good.ne_nan (h : p.Good f) : p ≠ .nan := by rintro rfl; exact h

theorem key_lt_of_fin {neg : Bool} {c : Nat} (h : (Pt.fin neg c).Good f) : -(2 ^ 64) < (Pt.fin neg c).key ∧ (Pt.fin neg c).key < 2 ^ 64 := by
  have htop := f.top_lt
  have hc : c ≤ f.top := h
  rw [key_fin]
  split <;> constructor <;> push_cast <;> omega

/-- The order of places is the order of values. -/
theorem key_lt_iff (hp : p.Good f) (hq : q.Good f) : p.key < q.key ↔ p.ext f < q.ext f := by
  cases p with
  | nan => exact hp.elim
  | inf n =>
    cases q with
    | nan => exact hq.elim
    | inf m => cases n <;> cases m <;> simp [Pt.key, Pt.ext]
    | fin m d =>
      obtain ⟨hlo, hhi⟩ := key_lt_of_fin hq
      rw [ext_fin]
      cases n with
      | true => exact iff_of_true hlo (EReal.bot_lt_coe _)
      | false => exact iff_of_false hhi.not_gt not_top_lt
  | fin n c =>
    obtain ⟨hlo, hhi⟩ := key_lt_of_fin hp
    cases q with
    | nan => exact hq.elim
    | inf m =>
      rw [ext_fin]
      cases m with
      | true => exact iff_of_false hlo.not_gt not_lt_bot
      | false => exact iff_of_true hhi (EReal.coe_lt_top _)
    | fin m d => rw [ext_fin, ext_fin, EReal.coe_lt_coe_iff, f.valueAt_strictMono.lt_iff_lt]

theorem key_le_iff (hp : p.Good f) (hq : q.Good f) : p.key ≤ q.key ↔ p.ext f ≤ q.ext f := by
  rw [← not_lt, ← not_lt, key_lt_iff hq hp]

theorem key_eq_iff (hp : p.Good f) (hq : q.Good f) : p.key = q.key ↔ p.ext f = q.ext f := by
  rw [le_antisymm_iff, le_antisymm_iff, key_le_iff hp hq, key_le_iff hq hp]

theorem lt_iff (hp : p.Good f) (hq : q.Good f) : p.lt q = true ↔ p.ext f < q.ext f := by
  rw [Pt.lt, decide_eq_true_iff, key_lt_iff hp hq]

theorem le_iff (hp : p.Good f) (hq : q.Good f) : p.le q = true ↔ p.ext f ≤ q.ext f := by
  rw [Pt.le, decide_eq_true_iff, key_le_iff hp hq]

theorem Good.zero : Pt.zero.Good f := Nat.zero_le _

@[simp] theorem ext_zero (f : Fmt) : Pt.zero.ext f = 0 := by simp [Pt.zero, Pt.ext]

/-- The sign of a place is the sign of the value. -/
theorem key_nonneg_iff (hp : p.Good f) : 0 ≤ p.key ↔ 0 ≤ p.ext f := by
  rw [← ext_zero f, ← key_le_iff Good.zero hp]; rfl

theorem key_pos_iff (hp : p.Good f) : 0 < p.key ↔ 0 < p.ext f := by
  rw [← ext_zero f, ← key_lt_iff Good.zero hp]; rfl

theorem key_nonpos_iff (hp : p.Good f) : p.key ≤ 0 ↔ p.ext f ≤ 0 := by
  rw [← ext_zero f, ← key_le_iff hp Good.zero]; rfl

theorem key_neg_iff (hp : p.Good f) : p.key < 0 ↔ p.ext f < 0 := by
  rw [← ext_zero f, ← key_lt_iff hp Good.zero]; rfl

/-! ### Signs of zero, and reflection -/

theorem Good.posZero (h : p.Good f) : p.posZero.Good f := by
  unfold Pt.posZero; split
  · exact Nat.zero_le _
  · exact h

@[simp] theorem ext_posZero (f : Fmt) (p : Pt) : p.posZero.ext f = p.ext f := by
  unfold Pt.posZero; split
  · simp [Pt.ext]
  · rfl

theorem Good.flip (h : p.Good f) : p.flip.Good f := by cases p <;> exact h

theorem ext_flip (f : Fmt) (p : Pt) : p.flip.ext f = -(p.ext f) := by
  cases p with
  | nan => simp [Pt.flip, Pt.ext]
  | inf n => cases n <;> simp [Pt.flip, Pt.ext]
  | fin n c => cases n <;> simp [Pt.flip, Pt.ext]

theorem Good.min (hp : p.Good f) (hq : q.Good f) : (p.min q).Good f := by unfold Pt.min; split <;> assumption

theorem Good.max (hp : p.Good f) (hq : q.Good f) : (p.max q).Good f := by unfold Pt.max; split <;> assumption

theorem ext_min (hp : p.Good f) (hq : q.Good f) : (p.min q).ext f = p.ext f ⊓ q.ext f := by
  unfold Pt.min
  split <;> rename_i h
  · exact (min_eq_left ((le_iff hp hq).mp h)).symm
  · exact (min_eq_right (le_of_not_ge fun hh => h ((le_iff hp hq).mpr hh))).symm

theorem ext_max (hp : p.Good f) (hq : q.Good f) : (p.max q).ext f = p.ext f ⊔ q.ext f := by
  unfold Pt.max
  split <;> rename_i h
  · exact (max_eq_right ((le_iff hp hq).mp h)).symm
  · exact (max_eq_left (le_of_not_ge fun hh => h ((le_iff hp hq).mpr hh))).symm

/-! ### Codes (R185, R186) -/

theorem good_decode {f : Fmt} {c : Nat} (h : f.decode c ≠ .nan) : (f.decode c).Good f := by
  unfold Fmt.decode at h ⊢
  dsimp only at h ⊢
  split_ifs at h ⊢
  · assumption
  · trivial
  · exact h rfl

/-- A sign bit above a code of fewer bits. -/
theorem code_parts {f : Fmt} (neg : Bool) {c : Nat} (h : c < f.signBit) :
    decide (((if neg then f.signBit else 0) + c) / f.signBit % 2 = 1) = neg ∧ ((if neg then f.signBit else 0) + c) % f.signBit = c := by
  have hpos : 0 < f.signBit := Nat.two_pow_pos _
  cases neg with
  | false => simp [Nat.div_eq_of_lt h, Nat.mod_eq_of_lt h]
  | true => simp [Nat.add_div_left _ hpos, Nat.div_eq_of_lt h, Nat.mod_eq_of_lt h]

/-- A point of a register's format is read back from its code. -/
theorem decode_encode (hf : f.isReg) (h : p.Good f) : f.decode (f.encode p) = p := by
  have htop : f.top + 1 < f.signBit ∧ f.hasInf = true := by rcases hf with rfl | rfl <;> exact ⟨by decide, rfl⟩
  cases p with
  | nan => exact h.elim
  | inf n =>
    obtain ⟨hneg, hmod⟩ := code_parts n htop.1
    simp [Fmt.encode, Fmt.decode, htop.2, hmod, hneg]
  | fin n c =>
    have hc : c ≤ f.top := h
    obtain ⟨hneg, hmod⟩ := code_parts n (show c < f.signBit by omega)
    simp only [Fmt.encode, Fmt.decode, hmod, hc, if_true]
    exact congrArg (Pt.fin · c) hneg

/-- A point's code fits in the format's bits. -/
theorem encode_lt (hf : f.isReg) (h : p.Good f) : f.encode p < 2 ^ f.bits := by
  have htop : f.top + 1 < f.signBit ∧ f.hasInf = true ∧ 2 ^ f.bits = 2 * f.signBit := by rcases hf with rfl | rfl <;> exact ⟨by decide, rfl, by decide⟩
  cases p with
  | nan => exact h.elim
  | inf n => simp only [Fmt.encode, htop]; split <;> simp <;> omega
  | fin n c =>
    have hc : c ≤ f.top := h
    simp only [Fmt.encode, htop]; split <;> omega

end Pt

end Sys2Proof.Machine
end

section
/-! SUPPORT. The roundings of R188 about the real that a cut stands for, bounds as extended reals, and intervals as they are read,
flushed and written. -/

namespace Sys2Proof.Machine

/-! ### Cuts -/

/-- The cut compares dyadics with the real. -/
def Cut.Is (x : Cut) (r : ℝ) : Prop := ∀ v : Dy, x v = compare v.real r

section
variable {f : Fmt} {x : Cut} {r : ℝ}

theorem Dy.cut_is (a : Dy) : Cut.Is a.cut a.real := fun v => v.cmp_eq a

theorem Cut.Is.neg (h : x.Is r) : Cut.Is (cutNeg x) (-r) := by
  intro v
  rw [cutNeg, h, Dy.real_neg, ← Std.OrientedCmp.eq_swap (cmp := compare)]
  exact compare_congr lt_neg neg_lt

theorem cutRatio_is {p q : Dy} (hq : 0 < q.real) : Cut.Is (cutRatio p q) (p.real / q.real) := by
  intro v
  rw [cutRatio, Dy.cmp_eq, Dy.real_mul]
  exact compare_congr (lt_div_iff₀ hq).symm (div_lt_iff₀ hq).symm

theorem cutSqrt_is {u : Dy} (hu : 0 ≤ u.real) : Cut.Is (cutSqrt u) (Real.sqrt u.real) := by
  intro v
  unfold cutSqrt
  split <;> rename_i hv
  · exact (compare_lt_iff_lt.mpr ((Dy.real_neg_iff.mpr hv).trans_le (Real.sqrt_nonneg _))).symm
  · have hv' : 0 ≤ v.real := not_lt.mp fun h => hv (Dy.real_neg_iff.mp h)
    rw [Dy.cmp_eq, Dy.real_mul, ← sq]
    exact compare_congr (Real.lt_sqrt hv').symm (Real.sqrt_lt hu hv').symm

/-! ### Rounding (R188) -/

/-- The search ends at a code at most M for which p holds, and the next code is past M or fails p. -/
theorem searchCode_spec {p : Nat → Bool} {M : Nat} (n : Nat) : ∀ a, a ≤ M → p a = true → (M < a + 2 ^ n ∨ p (a + 2 ^ n) = false) →
    searchCode p M n a ≤ M ∧ p (searchCode p M n a) = true ∧ (searchCode p M n a = M ∨ p (searchCode p M n a + 1) = false) := by
  induction n with
  | zero =>
    intro a hM hp hnext
    exact ⟨hM, hp, hnext.imp (fun h => by simp only [searchCode]; omega) id⟩
  | succ n ih =>
    intro a hM hp hnext
    rw [searchCode]
    split <;> rename_i hstep
    · rw [Bool.and_eq_true, decide_eq_true_iff] at hstep
      refine ih _ hstep.1 hstep.2 ?_
      rwa [Nat.add_assoc, ← Nat.two_mul, ← Nat.pow_succ']
    · refine ih _ hM hp ?_
      rw [Bool.and_eq_true, decide_eq_true_iff, not_and_or, not_le, Bool.not_eq_true] at hstep
      exact hstep

theorem Fmt.top_lt_bits (f : Fmt) : f.top < 2 ^ f.bits := by cases f <;> decide

/-- Searched from 0, with p true there. -/
theorem searchCode_top {p : Nat → Bool} (f : Fmt) (h : p 0 = true) : searchCode p f.top f.bits 0 ≤ f.top ∧
    p (searchCode p f.top f.bits 0) = true ∧ (searchCode p f.top f.bits 0 = f.top ∨ p (searchCode p f.top f.bits 0 + 1) = false) :=
  searchCode_spec _ 0 (Nat.zero_le _) h (.inl (by rw [Nat.zero_add]; exact f.top_lt_bits))

/-- A code search never passes the largest code, whatever it searches. -/
theorem searchCode_le {p : Nat → Bool} {M : Nat} (n a : Nat) (h : a ≤ M) : searchCode p M n a ≤ M := by
  induction n generalizing a with
  | zero => exact h
  | succ n ih =>
    rw [searchCode]
    split <;> rename_i hstep
    · rw [Bool.and_eq_true, decide_eq_true_iff] at hstep
      exact ih _ hstep.1
    · exact ih _ h

theorem roundDown_good (f : Fmt) (x : Cut) : (roundDown f x).Good f := by
  unfold roundDown
  split_ifs
  · exact Nat.zero_le _
  · exact searchCode_le _ _ (Nat.zero_le _)
  · dsimp only
    split_ifs with htop
    · trivial
    · exact Nat.succ_le_of_lt (lt_of_le_of_ne (searchCode_le _ _ (Nat.zero_le _)) htop)

/-- RoundDown is at or below the real. -/
theorem roundDown_le (h : x.Is r) : (roundDown f x).ext f ≤ r := by
  have h : ∀ v : Dy, x v = compare v.real r := h
  unfold roundDown
  rw [h, Dy.real_zero]
  split_ifs with hzero hpos
  · simp [Pt.ext, ← compare_eq_iff_eq.mp hzero]
  · obtain ⟨-, hle, -⟩ := searchCode_top (p := fun c => decide (x (f.mag c) ≠ .gt)) f (by
      simp only [h, Fmt.real_mag_zero, hpos]; rfl)
    refine EReal.coe_le_coe_iff.mpr (not_lt.mp fun hlt => of_decide_eq_true hle ?_)
    rw [h]
    exact compare_gt_iff_gt.mpr hlt
  · have hneg : r < 0 := by
      rcases lt_trichotomy 0 r with hr | hr | hr
      · exact absurd (compare_lt_iff_lt.mpr hr) hpos
      · exact absurd (compare_eq_iff_eq.mpr hr) hzero
      · exact hr
    obtain ⟨-, -, hnext⟩ := searchCode_top (p := fun c => decide (x (f.mag c).neg = .gt)) f (by
      simpa [h, compare_gt_iff_gt] using hneg)
    dsimp only
    split_ifs with htop
    · exact bot_le
    · refine EReal.coe_le_coe_iff.mpr (not_lt.mp fun hlt => of_decide_eq_false (hnext.resolve_left htop) ?_)
      rw [h, Dy.real_neg]
      exact compare_gt_iff_gt.mpr hlt

theorem roundUp_good (f : Fmt) (x : Cut) : (roundUp f x).Good f := by
  unfold roundUp
  split_ifs
  · exact Nat.zero_le _
  · exact (roundDown_good f _).flip

/-- RoundUp is at or above the real. -/
theorem le_roundUp (h : x.Is r) : (r : EReal) ≤ (roundUp f x).ext f := by
  unfold roundUp
  rw [h, Dy.real_zero]
  split_ifs with hzero
  · simp [Pt.ext, ← compare_eq_iff_eq.mp hzero]
  · rw [Pt.ext_flip, EReal.le_neg]
    exact_mod_cast roundDown_le h.neg

end

/-! ### Bounds as extended reals -/

namespace XR

/-- The extended real of a bound. -/
noncomputable def toE : XR → EReal
  | .ninf => ⊥
  | .fin d => (d.real : EReal)
  | .pinf => ⊤

theorem toE_toXR {f : Fmt} {p : Pt} (h : p.Good f) : (p.toXR f).toE = p.ext f := by
  cases p with
  | nan => exact h.elim
  | inf n => cases n <;> rfl
  | fin n c => cases n <;> simp [Pt.toXR, toE, Pt.ext]

@[simp] theorem toE_neg (a : XR) : a.neg.toE = -a.toE := by cases a <;> simp [XR.neg, toE]

/-- The sum of bounds that are not opposite infinities. -/
theorem toE_add {a b : XR} (h : ¬ (a = .ninf ∧ b = .pinf)) (h' : ¬ (a = .pinf ∧ b = .ninf)) : (a.add b).toE = a.toE + b.toE := by
  cases a <;> cases b <;> simp_all [XR.add, toE]

theorem le_iff (a b : XR) : a.le b = true ↔ a.toE ≤ b.toE := by
  cases a <;> cases b <;> simp [XR.le, toE, Dy.le_iff]

theorem toE_min (a b : XR) : (XR.min a b).toE = a.toE ⊓ b.toE := by
  unfold XR.min
  split <;> rename_i h
  · exact (min_eq_left ((le_iff a b).mp h)).symm
  · exact (min_eq_right (le_of_not_ge fun hh => h ((le_iff a b).mpr hh))).symm

theorem toE_max (a b : XR) : (XR.max a b).toE = a.toE ⊔ b.toE := by
  unfold XR.max
  split <;> rename_i h
  · exact (max_eq_right ((le_iff a b).mp h)).symm
  · exact (max_eq_left (le_of_not_ge fun hh => h ((le_iff a b).mpr hh))).symm

theorem sign_pos_iff (a : XR) : 0 < a.sign ↔ 0 < a.toE := by
  cases a <;> simp [XR.sign, toE, Int.sign_pos_iff, Dy.real_pos_iff]

theorem sign_neg_iff (a : XR) : a.sign < 0 ↔ a.toE < 0 := by
  cases a <;> simp [XR.sign, toE, Int.sign_neg_iff, Dy.real_neg_iff]

theorem sign_eq_zero_iff (a : XR) : a.sign = 0 ↔ a.toE = 0 := by
  cases a <;> simp [XR.sign, toE, Int.sign_eq_zero_iff_zero, Dy.real_eq_zero_iff]

/-- An infinite bound times another, by the other's sign; 0 where it is 0. -/
theorem mul_inf {a : XR} (h : a = .ninf ∨ a = .pinf) (b : XR) :
    (if a.sign * b.sign = 0 then XR.fin Dy.zero else if 0 < a.sign * b.sign then .pinf else .ninf).toE = a.toE * b.toE := by
  have hninf : XR.ninf.sign = -1 ∧ XR.ninf.toE = ⊥ := ⟨rfl, rfl⟩
  have hpinf : XR.pinf.sign = 1 ∧ XR.pinf.toE = ⊤ := ⟨rfl, rfl⟩
  have hfin : (XR.fin Dy.zero).toE = 0 := by simp [toE]
  rcases h with rfl | rfl <;> rcases lt_trichotomy b.toE 0 with hb | hb | hb
  · have hs := (sign_neg_iff b).mpr hb
    rw [hninf.1, hninf.2, EReal.bot_mul_of_neg hb, if_neg (by omega), if_pos (by omega)]; rfl
  · have hs := (sign_eq_zero_iff b).mpr hb
    rw [hninf.1, hb, mul_zero, if_pos (by omega)]; exact hfin
  · have hs := (sign_pos_iff b).mpr hb
    rw [hninf.1, hninf.2, EReal.bot_mul_of_pos hb, if_neg (by omega), if_neg (by omega)]; rfl
  · have hs := (sign_neg_iff b).mpr hb
    rw [hpinf.1, hpinf.2, EReal.top_mul_of_neg hb, if_neg (by omega), if_neg (by omega)]; rfl
  · have hs := (sign_eq_zero_iff b).mpr hb
    rw [hpinf.1, hb, mul_zero, if_pos (by omega)]; exact hfin
  · have hs := (sign_pos_iff b).mpr hb
    rw [hpinf.1, hpinf.2, EReal.top_mul_of_pos hb, if_neg (by omega), if_pos (by omega)]; rfl

theorem toE_mul (a b : XR) : (a.mul b).toE = a.toE * b.toE := by
  cases a with
  | ninf => rw [← mul_inf (.inl rfl)]; cases b <;> rfl
  | pinf => rw [← mul_inf (.inr rfl)]; cases b <;> rfl
  | fin d =>
    cases b with
    | fin e => simp [XR.mul, toE]
    | ninf => rw [mul_comm, ← mul_inf (.inl rfl), Int.mul_comm]; rfl
    | pinf => rw [mul_comm, ← mul_inf (.inr rfl), Int.mul_comm]; rfl

theorem down_good (f : Fmt) (a : XR) : (a.down f).Good f := by
  cases a with
  | ninf => trivial
  | fin d => exact roundDown_good f _
  | pinf => exact le_rfl

theorem up_good (f : Fmt) (a : XR) : (a.up f).Good f := by
  cases a with
  | ninf => exact le_rfl
  | fin d => exact roundUp_good f _
  | pinf => trivial

theorem down_le (f : Fmt) (a : XR) : (a.down f).ext f ≤ a.toE := by
  cases a with
  | ninf => exact bot_le
  | fin d => exact roundDown_le d.cut_is
  | pinf => exact le_top

theorem le_up (f : Fmt) (a : XR) : a.toE ≤ (a.up f).ext f := by
  cases a with
  | ninf => exact bot_le
  | fin d => exact le_roundUp d.cut_is
  | pinf => exact le_rfl

end XR

/-! ### The product of bounds -/

section
variable {a b c d x y : EReal}

theorem mul_le_mul_of_nonpos_left' (h : a ≤ b) (hx : x ≤ 0) : x * b ≤ x * a := by
  rw [← EReal.neg_le_neg_iff, ← EReal.neg_mul, ← EReal.neg_mul]
  exact mul_le_mul_of_nonneg_left h (EReal.neg_nonneg.mpr hx)

/-- With one factor fixed the other's ends bound the product. -/
theorem mul_between (x : EReal) (hc : c ≤ y) (hd : y ≤ d) : x * c ⊓ x * d ≤ x * y ∧ x * y ≤ x * c ⊔ x * d := by
  rcases le_total 0 x with hx | hx
  · exact ⟨inf_le_of_left_le (mul_le_mul_of_nonneg_left hc hx), le_sup_of_le_right (mul_le_mul_of_nonneg_left hd hx)⟩
  · exact ⟨inf_le_of_right_le (mul_le_mul_of_nonpos_left' hd hx), le_sup_of_le_left (mul_le_mul_of_nonpos_left' hc hx)⟩

/-- The four products of the ends bound the product. -/
theorem mul_corners (ha : a ≤ x) (hb : x ≤ b) (hc : c ≤ y) (hd : y ≤ d) :
    (a * c ⊓ a * d) ⊓ (b * c ⊓ b * d) ≤ x * y ∧ x * y ≤ (a * c ⊔ a * d) ⊔ (b * c ⊔ b * d) := by
  obtain ⟨hlo, hhi⟩ := mul_between y ha hb
  obtain ⟨halo, hahi⟩ := mul_between a hc hd
  obtain ⟨hblo, hbhi⟩ := mul_between b hc hd
  simp only [mul_comm y] at hlo hhi
  exact ⟨(inf_le_inf halo hblo).trans hlo, hhi.trans (sup_le_sup hahi hbhi)⟩

end

end Sys2Proof.Machine
end

section
/-! SUPPORT. Intervals as R194 reads them: flushing only widens them (R207), what is written is read back (R193), and the operations of
R263 hold the real results (R202). -/

namespace Sys2Proof.Machine

namespace Iv

variable {f : Fmt} {x y z : Iv} {u v w : ℝ}

/-! ### Reading, flushing and writing -/

/-- NaI, empty, or bounds that are no NaN with a decoration that stands for a set. -/
def Good (f : Fmt) : Iv → Prop
  | .mk a b d => a.Good f ∧ b.Good f ∧ d ≠ Dec.ill
  | _ => True

/-- An interval with a real in it, as its bounds give it. -/
structure Within (f : Fmt) (a b : Pt) (d : Dec) (u : ℝ) : Prop where
  low : a.Good f
  high : b.Good f
  dec : d ≠ Dec.ill
  le : a.ext f ≤ u
  ge : (u : EReal) ≤ b.ext f

/-- A real lies in the interval, whose bounds are no NaN. -/
def Has (f : Fmt) (x : Iv) (u : ℝ) : Prop := ∃ a b d, x = .mk a b d ∧ Within f a b d u

theorem Good.has (hg : x.Good f) (h : x.Holds f u) : x.Has f u := by
  obtain ⟨a, b, d, rfl, hle, hge⟩ := h
  obtain ⟨ha, hb, hd⟩ := hg
  exact ⟨a, b, d, rfl, ha, hb, hd, hle, hge⟩

/-- Points that lie on both sides of a real are the bounds of an interval around it. -/
theorem Within.ofPts_has {a b : Pt} {d : Dec} (h : Within f a b d u) : (Iv.ofPts f a b d).Has f u := by
  have hab : ¬ b.lt a = true := fun hlt => ((Pt.lt_iff h.high h.low).mp hlt).not_ge (h.le.trans h.ge)
  have key : (if b.lt a = true then Iv.nai else .mk a.posZero b.posZero (if d = Dec.com && !(a.isFin && b.isFin) then Dec.dfn else d)).Has f u := by
    rw [if_neg hab]
    refine ⟨_, _, _, rfl, h.low.posZero, h.high.posZero, ?_, by simpa using h.le, by simpa using h.ge⟩
    split
    · decide
    · exact h.dec
  cases a with
  | nan => exact h.low.elim
  | inf n =>
    cases n with
    | false => exact absurd h.le (not_le.mpr (EReal.coe_lt_top u))
    | true =>
      cases b with
      | nan => exact h.high.elim
      | fin m c => exact key
      | inf m =>
        cases m with
        | false => exact key
        | true => exact absurd h.ge (not_le.mpr (EReal.bot_lt_coe u))
  | fin n c =>
    cases b with
    | nan => exact h.high.elim
    | fin m e => exact key
    | inf m =>
      cases m with
      | false => exact key
      | true => exact absurd h.ge (not_le.mpr (EReal.bot_lt_coe u))

theorem ofPts_good {a b : Pt} {d : Dec} (ha : a ≠ .nan → a.Good f) (hb : b ≠ .nan → b.Good f) (hd : d ≠ Dec.ill) : (Iv.ofPts f a b d).Good f := by
  have htrv : Dec.trv ≠ Dec.ill := by decide
  unfold Iv.ofPts
  split
  · trivial
  · trivial
  · trivial
  · exact ⟨le_rfl, trivial, htrv⟩
  · exact ⟨trivial, le_rfl, htrv⟩
  · rename_i hna hnb _ _ _
    split
    · trivial
    · refine ⟨(ha hna).posZero, (hb hnb).posZero, ?_⟩
      split
      · decide
      · exact hd

/-- What R194 reads. -/
theorem good_read (f : Fmt) (r : Raw) : (r.read f).Good f := by
  unfold Raw.read
  split
  · trivial
  · exact ofPts_good Pt.good_decode Pt.good_decode ‹_›

end Iv

section
variable {f : Fmt} {p : Pt}

theorem Fmt.normal_le_top (hf : f.isReg) : f.normal ≤ f.top := by rcases hf with rfl | rfl <;> decide

/-- A subnormal point lies between 0 and the normal threshold of its sign. -/
theorem Pt.subnormal_iff : p.subnormal f = true ↔ ∃ n c, p = .fin n c ∧ 0 < c ∧ c < f.normal := by
  cases p <;> simp [Pt.subnormal]

theorem Pt.Good.flushLo (hf : f.isReg) (h : p.Good f) : (p.flushLo f).Good f := by
  unfold Pt.flushLo
  split_ifs
  · exact Fmt.normal_le_top hf
  · exact Nat.zero_le _
  · exact h

theorem Pt.Good.flushHi (hf : f.isReg) (h : p.Good f) : (p.flushHi f).Good f := by
  unfold Pt.flushHi
  split_ifs
  · exact Nat.zero_le _
  · exact Fmt.normal_le_top hf
  · exact h

theorem Pt.flushLo_le (hf : f.isReg) (h : p.Good f) : (p.flushLo f).ext f ≤ p.ext f := by
  rw [← key_le_iff (h.flushLo hf) h]
  unfold Pt.flushLo
  split_ifs with hsub hneg
  · obtain ⟨n, c, rfl, hc, hlt⟩ := Pt.subnormal_iff.mp hsub
    rw [Pt.key_fin] at hneg ⊢
    cases n <;> simp only [Bool.false_eq_true, if_true, if_false, Pt.key_fin] at hneg ⊢ <;> omega
  · exact not_lt.mp hneg
  · exact le_rfl

theorem Pt.le_flushHi (hf : f.isReg) (h : p.Good f) : p.ext f ≤ (p.flushHi f).ext f := by
  rw [← key_le_iff h (h.flushHi hf)]
  unfold Pt.flushHi
  split_ifs with hsub hneg
  · exact hneg.le
  · obtain ⟨n, c, rfl, hc, hlt⟩ := Pt.subnormal_iff.mp hsub
    rw [Pt.key_fin] at hneg ⊢
    cases n <;> simp only [Bool.false_eq_true, if_true, if_false, Pt.key_fin] at hneg ⊢ <;> omega
  · exact le_rfl

end

namespace Iv

variable {f : Fmt} {x y z : Iv} {u v w : ℝ}

theorem Good.flush (hf : f.isReg) (on : Bool) (h : x.Good f) : (x.flush f on).Good f := by
  cases x with
  | nai => exact h
  | empty => exact h
  | mk a b d =>
    cases on with
    | false => exact h
    | true => exact ⟨h.1.flushLo hf, h.2.1.flushHi hf, h.2.2⟩

/-- Flushing only widens (R207). -/
theorem Has.flush (hf : f.isReg) (on : Bool) (h : x.Has f u) : (x.flush f on).Has f u := by
  obtain ⟨a, b, d, rfl, h⟩ := h
  cases on with
  | false => exact ⟨a, b, d, rfl, h⟩
  | true => exact ⟨_, _, d, rfl, h.low.flushLo hf, h.high.flushHi hf, h.dec, (Pt.flushLo_le hf h.low).trans h.le, h.ge.trans (Pt.le_flushHi hf h.high)⟩

theorem Has.holds (h : x.Has f u) : x.Holds f u := by
  obtain ⟨a, b, d, rfl, h⟩ := h
  exact ⟨a, b, d, rfl, h.le, h.ge⟩

/-- A set that is written is read back around what it holds (R193, R194). -/
theorem Has.read_write (hf : f.isReg) (h : x.Has f u) : ((x.write f).read f).Has f u := by
  obtain ⟨a, b, d, rfl, h⟩ := h
  rw [Iv.write, Raw.read, if_neg h.dec]
  dsimp only
  rw [Pt.decode_encode hf h.low.posZero, Pt.decode_encode hf h.high.posZero]
  exact Within.ofPts_has ⟨h.low.posZero, h.high.posZero, h.dec, by simpa using h.le, by simpa using h.ge⟩

theorem read_write_nai (f : Fmt) : (Iv.nai.write f).read f = .nai := rfl

theorem read_write_empty (hf : f.isReg) : (Iv.empty.write f).read f = .empty := by
  have hdec : ∀ n, f.decode (f.encode (.inf n)) = .inf n := fun n => Pt.decode_encode hf trivial
  rw [Iv.write, Raw.read, if_neg (by decide : Dec.trv ≠ Dec.ill)]
  dsimp only
  rw [hdec, hdec]
  rfl

/-! ### Results of R263 -/

theorem Dec.min_ne_ill {d e : Dec} (hd : d ≠ Dec.ill) (he : e ≠ Dec.ill) : Dec.min d e ≠ Dec.ill := by
  unfold Dec.min
  split <;> assumption

/-- A result whose rounded bounds lie on both sides of a real has it. -/
theorem has_result {ds : Dec} {undef bounded : Bool} {lo hi : Pt} (hds : ds ≠ Dec.ill) (hlo : lo.Good f) (hhi : hi.Good f)
    (hle : lo.ext f ≤ u) (hge : (u : EReal) ≤ hi.ext f) : (Iv.result ds undef bounded lo hi).Has f u := by
  refine ⟨_, _, _, rfl, hlo.posZero, hhi.posZero, Dec.min_ne_ill hds ?_, by simpa using hle, by simpa using hge⟩
  split_ifs <;> decide

/-- Bounds that are rounded outwards hold what lies between them. -/
theorem has_result_rounded {ds : Dec} {undef bounded : Bool} {lo hi : XR} (hds : ds ≠ Dec.ill) (hle : lo.toE ≤ u) (hge : (u : EReal) ≤ hi.toE) :
    (Iv.result ds undef bounded (lo.down f) (hi.up f)).Has f u :=
  has_result hds (XR.down_good f lo) (XR.up_good f hi) ((XR.down_le f lo).trans hle) (hge.trans (XR.le_up f hi))

end Iv

namespace XR

variable {a b c d : XR} {u v : ℝ}

/-- Lower bounds of two reals add up to one of the sum. -/
theorem add_le (ha : a.toE ≤ u) (hb : b.toE ≤ v) : (a.add b).toE ≤ ((u + v : ℝ) : EReal) := by
  have hne : ∀ {a : XR} {u : ℝ}, a.toE ≤ u → a ≠ .pinf := by rintro _ u h rfl; exact (EReal.coe_lt_top u).not_ge h
  rw [toE_add (fun h => hne hb h.2) (fun h => hne ha h.1), EReal.coe_add]
  exact add_le_add ha hb

theorem le_add (ha : (u : EReal) ≤ a.toE) (hb : (v : EReal) ≤ b.toE) : ((u + v : ℝ) : EReal) ≤ (a.add b).toE := by
  have hne : ∀ {a : XR} {u : ℝ}, (u : EReal) ≤ a.toE → a ≠ .ninf := by rintro _ u h rfl; exact (EReal.bot_lt_coe u).not_ge h
  rw [toE_add (fun h => hne ha h.1) (fun h => hne hb h.2), EReal.coe_add]
  exact add_le_add ha hb

/-- The bounds of a product set hold the products. -/
theorem mulBounds_mem (ha : a.toE ≤ u) (hb : (u : EReal) ≤ b.toE) (hc : c.toE ≤ v) (hd : (v : EReal) ≤ d.toE) :
    (mulBounds a b c d).1.toE ≤ ((u * v : ℝ) : EReal) ∧ ((u * v : ℝ) : EReal) ≤ (mulBounds a b c d).2.toE := by
  simp only [mulBounds, toE_min, toE_max, toE_mul, EReal.coe_mul]
  exact mul_corners ha hb hc hd

end XR

namespace Iv

variable {f : Fmt} {x y z : Iv} {u v w : ℝ}

/-- The bounds as extended reals. -/
theorem Within.toXR {a b : Pt} {d : Dec} (h : Within f a b d u) : (a.toXR f).toE ≤ u ∧ (u : EReal) ≤ (b.toXR f).toE := by
  rw [XR.toE_toXR h.low, XR.toE_toXR h.high]
  exact ⟨h.le, h.ge⟩

theorem Has.add (hx : x.Has f u) (hy : y.Has f v) : (Iv.add f x y).Has f (u + v) := by
  obtain ⟨a, b, d, rfl, hx⟩ := hx
  obtain ⟨c, e, d', rfl, hy⟩ := hy
  exact has_result_rounded (Dec.min_ne_ill hx.dec hy.dec) (XR.add_le hx.toXR.1 hy.toXR.1) (XR.le_add hx.toXR.2 hy.toXR.2)

theorem Has.negF (hx : x.Has f u) : x.negF.Has f (-u) := by
  obtain ⟨a, b, d, rfl, hx⟩ := hx
  refine ⟨_, _, d, rfl, hx.high.flip.posZero, hx.low.flip.posZero, hx.dec, ?_, ?_⟩ <;>
    rw [Pt.ext_posZero, Pt.ext_flip, EReal.coe_neg, EReal.neg_le_neg_iff]
  · exact hx.ge
  · exact hx.le

theorem Has.sub (hx : x.Has f u) (hy : y.Has f v) : (Iv.sub f x y).Has f (u - v) := sub_eq_add_neg u v ▸ hx.add hy.negF

theorem Has.mul (hx : x.Has f u) (hy : y.Has f v) : (Iv.mul f x y).Has f (u * v) := by
  obtain ⟨a, b, d, rfl, hx⟩ := hx
  obtain ⟨c, e, d', rfl, hy⟩ := hy
  obtain ⟨hle, hge⟩ := XR.mulBounds_mem hx.toXR.1 hx.toXR.2 hy.toXR.1 hy.toXR.2
  exact has_result_rounded (Dec.min_ne_ill hx.dec hy.dec) hle hge

theorem Has.fma (hx : x.Has f u) (hy : y.Has f v) (hz : z.Has f w) : (Iv.fma f x y z).Has f (u * v + w) := by
  obtain ⟨a, b, d, rfl, hx⟩ := hx
  obtain ⟨c, e, d', rfl, hy⟩ := hy
  obtain ⟨g, h, d'', rfl, hz⟩ := hz
  obtain ⟨hle, hge⟩ := XR.mulBounds_mem hx.toXR.1 hx.toXR.2 hy.toXR.1 hy.toXR.2
  exact has_result_rounded (Dec.min_ne_ill hx.dec (Dec.min_ne_ill hy.dec hz.dec)) (XR.add_le hle hz.toXR.1) (XR.le_add hge hz.toXR.2)

/-! ### Squares -/

/-- The bounds of an absolute value. -/
theorem Within.abs {a b : Pt} {d : Dec} (h : Within f a b d u) :
    Within f (absBounds a b).1 (absBounds a b).2 d |u| ∧ 0 ≤ (absBounds a b).1.ext f := by
  obtain ⟨ha, hb, hd, hle, hge⟩ := h
  unfold absBounds
  split_ifs with hpos hneg
  · have hu : 0 ≤ u := by exact_mod_cast ((Pt.key_nonneg_iff ha).mp hpos).trans hle
    rw [abs_of_nonneg hu]
    exact ⟨⟨ha, hb, hd, hle, hge⟩, (Pt.key_nonneg_iff ha).mp hpos⟩
  · have hb0 := (Pt.key_nonpos_iff hb).mp hneg
    have hu : u ≤ 0 := by exact_mod_cast hge.trans hb0
    rw [abs_of_nonpos hu]
    refine ⟨⟨hb.flip, ha.flip, hd, ?_, ?_⟩, ?_⟩ <;> simp only [Pt.ext_flip, EReal.coe_neg]
    · exact EReal.neg_le_neg_iff.mpr hge
    · exact EReal.neg_le_neg_iff.mpr hle
    · exact EReal.neg_nonneg.mpr hb0
  · refine ⟨⟨Pt.Good.zero, ha.flip.max hb, hd, ?_, ?_⟩, (Pt.ext_zero f).ge⟩
    · rw [Pt.ext_zero]; exact_mod_cast abs_nonneg u
    · rw [Pt.ext_max ha.flip hb, Pt.ext_flip]
      rcases abs_choice u with hu | hu <;> rw [hu]
      · exact le_sup_of_le_right hge
      · exact le_sup_of_le_left (by rw [EReal.coe_neg]; exact EReal.neg_le_neg_iff.mpr hle)

theorem Has.sqr (hx : x.Has f u) : (Iv.sqr f x).Has f (u * u) := by
  obtain ⟨a, b, d, rfl, hx⟩ := hx
  obtain ⟨habs, hpos⟩ := hx.abs
  obtain ⟨hle, hge⟩ := habs.toXR
  have hu : (0 : EReal) ≤ (|u| : ℝ) := by exact_mod_cast abs_nonneg u
  rw [← abs_mul_abs_self u]
  refine has_result_rounded hx.dec ?_ ?_ <;> rw [XR.toE_mul, EReal.coe_mul]
  · exact mul_le_mul hle hle ((XR.toE_toXR habs.low).symm ▸ hpos) hu
  · exact mul_le_mul hge hge hu (hu.trans hge)

/-! ### Square roots -/

theorem Has.sqrt (hx : x.Has f u) (hu : 0 ≤ u) : (Iv.sqrt f x).Has f (Real.sqrt u) := by
  obtain ⟨a, b, d, rfl, hx⟩ := hx
  obtain ⟨hle, hge⟩ := hx.toXR
  have hu' : (0 : EReal) ≤ (u : EReal) := by exact_mod_cast hu
  have hb : ¬ b.key < 0 := fun h => ((Pt.key_neg_iff hx.high).mp h).not_ge (hu'.trans hx.ge)
  have hroot : (Pt.zero.ext f : EReal) ≤ (Real.sqrt u : ℝ) := by rw [Pt.ext_zero]; exact_mod_cast Real.sqrt_nonneg u
  simp only [Iv.sqrt, Iv.lift1, if_neg hb]
  generalize a.toXR f = lo at hle
  generalize b.toXR f = hi at hge
  refine has_result hx.dec ?_ ?_ ?_ ?_
  · cases lo with
    | fin d => dsimp only; split_ifs; exacts [Pt.Good.zero, roundDown_good f _]
    | ninf => exact Pt.Good.zero
    | pinf => exact Pt.Good.zero
  · cases hi with
    | fin d => exact roundUp_good f _
    | ninf => trivial
    | pinf => trivial
  · cases lo with
    | ninf => exact hroot
    | pinf => exact hroot
    | fin d =>
      dsimp only
      split_ifs with hd
      · exact hroot
      · have hd : 0 ≤ d.real := (Dy.real_pos_iff.mpr (not_le.mp hd)).le
        exact (roundDown_le (cutSqrt_is hd)).trans (by exact_mod_cast Real.sqrt_le_sqrt (EReal.coe_le_coe_iff.mp hle))
  · cases hi with
    | ninf => exact absurd hge (not_le.mpr (EReal.bot_lt_coe u))
    | pinf => exact le_top
    | fin d =>
      have hud : u ≤ d.real := EReal.coe_le_coe_iff.mp hge
      exact le_trans (by exact_mod_cast Real.sqrt_le_sqrt hud) (le_roundUp (cutSqrt_is (hu.trans hud)))

end Iv
end Sys2Proof.Machine
end

section
/-! SUPPORT. Division and reciprocals of intervals (R263): the bounds of the quotients by positive divisors, the others by reflection. -/

namespace Sys2Proof.Machine

/-! ### Quotients by positive divisors -/

/-- A rounded quotient of bounds: 0 by an infinite divisor. -/
def quotBound (f : Fmt) (up : Bool) (n m : XR) : Pt :=
  match n, m with
  | .fin x, .fin y => if up then roundUp f (cutRatio x y) else roundDown f (cutRatio x y)
  | .fin _, _ => .fin false 0
  | x, _ => if up then x.up f else x.down f

theorem divPos_eq (f : Fmt) (a b c d : XR) : divPos f a b c d =
    (if a.sign < 0 then (if c.sign ≤ 0 then .inf true else quotBound f false a c) else if a.sign = 0 then Pt.zero else quotBound f false a d,
      if 0 < b.sign then (if c.sign ≤ 0 then .inf false else quotBound f true b c) else if b.sign = 0 then Pt.zero else quotBound f true b d) := rfl

section
variable {f : Fmt} {a b c d n m : XR} {x y : ℝ}

theorem quotBound_good (f : Fmt) (up : Bool) (n m : XR) : (quotBound f up n m).Good f := by
  unfold quotBound
  split
  · split
    · exact roundUp_good f _
    · exact roundDown_good f _
  · exact Pt.Good.zero
  · split
    · exact XR.up_good f _
    · exact XR.down_good f _

theorem divPos_good (f : Fmt) (a b c d : XR) : (divPos f a b c d).1.Good f ∧ (divPos f a b c d).2.Good f := by
  rw [divPos_eq]
  constructor <;> dsimp only <;> split_ifs
  exacts [trivial, quotBound_good .., Pt.Good.zero, quotBound_good .., trivial, quotBound_good .., Pt.Good.zero, quotBound_good ..]

theorem quotBound_le {p q : Dy} (hq : 0 < q.real) (h : p.real / q.real ≤ x) : (quotBound f false (.fin p) (.fin q)).ext f ≤ x :=
  (roundDown_le (cutRatio_is hq)).trans (EReal.coe_le_coe_iff.mpr h)

theorem le_quotBound {p q : Dy} (hq : 0 < q.real) (h : x ≤ p.real / q.real) : (x : EReal) ≤ (quotBound f true (.fin p) (.fin q)).ext f :=
  (EReal.coe_le_coe_iff.mpr h).trans (le_roundUp (cutRatio_is hq))

/-- The lower bound: by the least divisor below 0, by the largest above. -/
theorem divPos_le (ha : a.toE ≤ x) (hc0 : 0 ≤ c.toE) (hc : c.toE ≤ y) (hd : (y : EReal) ≤ d.toE) (hy : 0 < y) :
    (divPos f a b c d).1.ext f ≤ ((x / y : ℝ) : EReal) := by
  rw [divPos_eq]
  dsimp only
  split_ifs with hneg hcz hzero
  · exact bot_le
  · have hcpos : 0 < c.toE := (XR.sign_pos_iff c).mp (not_le.mp hcz)
    cases a with
    | ninf => cases c <;> exact bot_le
    | pinf => exact absurd hneg (by decide)
    | fin p =>
      cases c with
      | ninf => exact absurd hc0 (by simp [XR.toE])
      | pinf => exact absurd hc (not_le.mpr (EReal.coe_lt_top y))
      | fin q =>
        have hq : 0 < q.real := EReal.coe_pos.mp hcpos
        have hp : p.real < 0 := EReal.coe_neg'.mp ((XR.sign_neg_iff _).mp hneg)
        have hqy : q.real ≤ y := EReal.coe_le_coe_iff.mp hc
        have hpx : p.real ≤ x := EReal.coe_le_coe_iff.mp ha
        exact quotBound_le hq ((div_le_div_iff₀ hq hy).mpr ((mul_le_mul_of_nonpos_left hqy hp.le).trans (mul_le_mul_of_nonneg_right hpx hq.le)))
  · have hx : 0 ≤ x := EReal.coe_nonneg.mp (((XR.sign_eq_zero_iff a).mp hzero).symm.le.trans ha)
    rw [Pt.ext_zero]
    exact_mod_cast div_nonneg hx hy.le
  · have hapos : 0 < a.toE := (XR.sign_pos_iff a).mp (by omega)
    have hx : 0 < x := EReal.coe_pos.mp (hapos.trans_le ha)
    cases a with
    | ninf => exact absurd hapos (by simp [XR.toE])
    | pinf => exact absurd ha (not_le.mpr (EReal.coe_lt_top x))
    | fin p =>
      cases d with
      | ninf => exact absurd hd (not_le.mpr (EReal.bot_lt_coe y))
      | pinf =>
        refine (Pt.ext_zero f).le.trans ?_
        exact_mod_cast (div_pos hx hy).le
      | fin q =>
        have hyq : y ≤ q.real := EReal.coe_le_coe_iff.mp hd
        have hpx : p.real ≤ x := EReal.coe_le_coe_iff.mp ha
        have hq := hy.trans_le hyq
        exact quotBound_le hq (div_le_div₀ hx.le hpx hy hyq)

/-- The upper bound: by the largest divisor below 0, by the least above. -/
theorem le_divPos (hb : (x : EReal) ≤ b.toE) (hc0 : 0 ≤ c.toE) (hc : c.toE ≤ y) (hd : (y : EReal) ≤ d.toE) (hy : 0 < y) :
    ((x / y : ℝ) : EReal) ≤ (divPos f a b c d).2.ext f := by
  rw [divPos_eq]
  dsimp only
  split_ifs with hpos hcz hzero
  · exact le_top
  · have hcpos : 0 < c.toE := (XR.sign_pos_iff c).mp (not_le.mp hcz)
    cases b with
    | pinf => cases c <;> exact le_top
    | ninf => exact absurd hpos (by decide)
    | fin p =>
      cases c with
      | ninf => exact absurd hc0 (by simp [XR.toE])
      | pinf => exact absurd hc (not_le.mpr (EReal.coe_lt_top y))
      | fin q =>
        have hq : 0 < q.real := EReal.coe_pos.mp hcpos
        have hp : 0 < p.real := EReal.coe_pos.mp ((XR.sign_pos_iff _).mp hpos)
        have hqy : q.real ≤ y := EReal.coe_le_coe_iff.mp hc
        have hxp : x ≤ p.real := EReal.coe_le_coe_iff.mp hb
        exact le_quotBound hq (div_le_div₀ hp.le hxp hq hqy)
  · have hx : x ≤ 0 := EReal.coe_nonpos.mp (hb.trans ((XR.sign_eq_zero_iff b).mp hzero).le)
    rw [Pt.ext_zero]
    exact_mod_cast div_nonpos_of_nonpos_of_nonneg hx hy.le
  · have hbneg : b.toE < 0 := (XR.sign_neg_iff b).mp (by omega)
    have hx : x < 0 := EReal.coe_neg'.mp (hb.trans_lt hbneg)
    cases b with
    | pinf => exact absurd hbneg (by simp [XR.toE])
    | ninf => exact absurd hb (not_le.mpr (EReal.bot_lt_coe x))
    | fin p =>
      cases d with
      | ninf => exact absurd hd (not_le.mpr (EReal.bot_lt_coe y))
      | pinf =>
        refine le_trans ?_ (Pt.ext_zero f).ge
        exact_mod_cast (div_neg_of_neg_of_pos hx hy).le
      | fin q =>
        have hyq : y ≤ q.real := EReal.coe_le_coe_iff.mp hd
        have hxp : x ≤ p.real := EReal.coe_le_coe_iff.mp hb
        have hp : p.real < 0 := EReal.coe_neg'.mp hbneg
        have hq := hy.trans_le hyq
        exact le_quotBound hq ((div_le_div_iff₀ hy hq).mpr ((mul_le_mul_of_nonneg_right hxp hq.le).trans (mul_le_mul_of_nonpos_left hyq hp.le)))

/-- The least positive divisor. -/
theorem max_zero_mem (hc : c.toE ≤ y) (hy : 0 < y) :
    0 ≤ (XR.max c (.fin Dy.zero)).toE ∧ (XR.max c (.fin Dy.zero)).toE ≤ y := by
  have hzero : (XR.fin Dy.zero).toE = 0 := by simp [XR.toE]
  rw [XR.toE_max, hzero]
  exact ⟨le_sup_right, sup_le hc (EReal.coe_nonneg.mpr hy.le)⟩

/-- Quotients by positive divisors. -/
theorem divPos_mem (ha : a.toE ≤ x) (hb : (x : EReal) ≤ b.toE) (hc : c.toE ≤ y) (hd : (y : EReal) ≤ d.toE) (hy : 0 < y) :
    (divPos f a b (XR.max c (.fin Dy.zero)) d).1.ext f ≤ ((x / y : ℝ) : EReal) ∧
      ((x / y : ℝ) : EReal) ≤ (divPos f a b (XR.max c (.fin Dy.zero)) d).2.ext f := by
  obtain ⟨h0, hle⟩ := max_zero_mem hc hy
  exact ⟨divPos_le ha h0 hle hd hy, le_divPos hb h0 hle hd hy⟩

/-- Quotients by negative divisors are those of the reflections. -/
theorem divPos_neg_mem (ha : a.toE ≤ x) (hb : (x : EReal) ≤ b.toE) (hc : c.toE ≤ y) (hd : (y : EReal) ≤ d.toE) (hy : y < 0) :
    (divPos f b.neg a.neg (XR.max d.neg (.fin Dy.zero)) c.neg).1.ext f ≤ ((x / y : ℝ) : EReal) ∧
      ((x / y : ℝ) : EReal) ≤ (divPos f b.neg a.neg (XR.max d.neg (.fin Dy.zero)) c.neg).2.ext f := by
  rw [← neg_div_neg_eq x y]
  refine divPos_mem ?_ ?_ ?_ ?_ (neg_pos.mpr hy) <;> rw [XR.toE_neg, EReal.coe_neg, EReal.neg_le_neg_iff] <;> assumption

end

namespace Iv

variable {f : Fmt} {x y : Iv} {u v : ℝ}

theorem Has.div (hx : x.Has f u) (hy : y.Has f v) (hv : v ≠ 0) : (Iv.div f x y).Has f (u / v) := by
  obtain ⟨a, b, d, rfl, hx⟩ := hx
  obtain ⟨c, e, d', rfl, hy⟩ := hy
  have hds := Dec.min_ne_ill hx.dec hy.dec
  obtain ⟨hlea, hgeb⟩ := hx.toXR
  obtain ⟨hlec, hgee⟩ := hy.toXR
  simp only [Iv.div, Iv.lift2, XR.sign_pos_iff, XR.sign_neg_iff]
  generalize hp : divPos f (a.toXR f) (b.toXR f) (XR.max (c.toXR f) (.fin Dy.zero)) (e.toXR f) = p
  generalize hn : divPos f (b.toXR f).neg (a.toXR f).neg (XR.max (e.toXR f).neg (.fin Dy.zero)) (c.toXR f).neg = n
  have hpg : p.1.Good f ∧ p.2.Good f := hp ▸ divPos_good ..
  have hng : n.1.Good f ∧ n.2.Good f := hn ▸ divPos_good ..
  have hpos : 0 < v → p.1.ext f ≤ ((u / v : ℝ) : EReal) ∧ ((u / v : ℝ) : EReal) ≤ p.2.ext f := fun h => hp ▸ divPos_mem hlea hgeb hlec hgee h
  have hneg : v < 0 → n.1.ext f ≤ ((u / v : ℝ) : EReal) ∧ ((u / v : ℝ) : EReal) ≤ n.2.ext f := fun h => hn ▸ divPos_neg_mem hlea hgeb hlec hgee h
  split_ifs with he hc hc
  · refine has_result hds (hpg.1.min hng.1) (hpg.2.max hng.2) ?_ ?_
    · rw [Pt.ext_min hpg.1 hng.1]
      rcases hv.lt_or_gt with h | h
      · exact inf_le_of_right_le (hneg h).1
      · exact inf_le_of_left_le (hpos h).1
    · rw [Pt.ext_max hpg.2 hng.2]
      rcases hv.lt_or_gt with h | h
      · exact le_sup_of_le_right (hneg h).2
      · exact le_sup_of_le_left (hpos h).2
  · have hv0 : 0 ≤ v := EReal.coe_nonneg.mp ((not_lt.mp hc).trans hlec)
    obtain ⟨hle, hge⟩ := hpos (hv0.lt_of_ne hv.symm)
    exact has_result hds hpg.1 hpg.2 hle hge
  · have hv0 : v ≤ 0 := EReal.coe_nonpos.mp (hgee.trans (not_lt.mp he))
    obtain ⟨hle, hge⟩ := hneg (hv0.lt_of_ne hv)
    exact has_result hds hng.1 hng.2 hle hge
  · have hzero : v = 0 := le_antisymm (EReal.coe_nonpos.mp (hgee.trans (not_lt.mp he))) (EReal.coe_nonneg.mp ((not_lt.mp hc).trans hlec))
    exact absurd hzero hv

/-- An integer that the format rounds. -/
theorem has_ofNat (f : Fmt) (n : Nat) : (Iv.ofNat f n).Has f n := by
  have his : Cut.Is (Dy.ofInt n).cut (n : ℝ) := by simpa using (Dy.ofInt n).cut_is
  exact ⟨_, _, _, rfl, roundDown_good f _, roundUp_good f _, by decide, roundDown_le his, le_roundUp his⟩

theorem has_one (f : Fmt) : (Iv.one f).Has f 1 := by exact_mod_cast has_ofNat f 1

theorem Has.rcp (hx : x.Has f u) (hu : u ≠ 0) : (Iv.rcp f x).Has f (1 / u) := (has_one f).div hx hu

end Iv
end Sys2Proof.Machine
end

section
/-! SUPPORT. What an instruction that acts in each thread alone leaves in its destination: the registers of a thread read afterwards as
the thread's own step left them, and what a floating result's code reads back as. -/

namespace Sys2Proof.Machine

/-! ### One thread's registers -/

/-- In thread l the V, F and P registers read alike. -/
structure SameLane (l : Nat) (r t : Regs) : Prop where
  v : ∀ n, t.getV n l = r.getV n l
  f : ∀ n, t.getF n l = r.getF n l
  p : ∀ n, t.getP n l = r.getP n l

theorem SameLane.refl (l : Nat) (r : Regs) : SameLane l r r := ⟨fun _ => rfl, fun _ => rfl, fun _ => rfl⟩

theorem SameLane.trans {l : Nat} {r t u : Regs} (h : SameLane l r t) (h' : SameLane l t u) : SameLane l r u :=
  ⟨fun n => (h'.v n).trans (h.v n), fun n => (h'.f n).trans (h.f n), fun n => (h'.p n).trans (h.p n)⟩

/-- A write in another thread. -/
theorem LaneOnly.sameLane {nS : Nat} {ws : List (File × Nat)} {l j : Nat} {r t : Regs} (h : LaneOnly nS ws j r t) (hl : l < 128) (hne : l ≠ j) :
    SameLane l r t := by
  obtain ⟨hv, hf, hp, -⟩ := h
  exact ⟨fun n => hv n l hl fun h => hne h.2, fun n => hf n l hl fun h => hne h.2, fun n => hp n l hl fun h => hne h.2⟩

theorem lanesOf_nodup (m : Mask) : (lanesOf m).Nodup := List.nodup_range.filter _

section
variable {nS : Nat} {ws : List (File × Nat)} {f : Nat → Regs → Regs} {l : Nat} {ls : List Nat}
  (h : ∀ j < 128, ∀ r, LaneOnly nS ws j r (f j r)) (hl : l < 128)
include h hl

/-- The steps of other threads leave a thread's registers. -/
theorem foldl_sameLane (hls : ∀ j ∈ ls, j < 128) (hnot : l ∉ ls) (r : Regs) : SameLane l r (ls.foldl (fun r j => f j r) r) := by
  induction ls generalizing r with
  | nil => exact .refl l r
  | cons j ls ih =>
    obtain ⟨hj, hls⟩ := List.forall_mem_cons.mp hls
    obtain ⟨hne, hnot⟩ := not_or.mp (List.mem_cons.not.mp hnot)
    exact ((h j hj r).sameLane hl hne).trans (ih hls hnot _)

/-- A thread's registers are those its own step leaves. -/
theorem foldl_ownLane (hls : ∀ j ∈ ls, j < 128) (hnd : ls.Nodup) (hmem : l ∈ ls) (r : Regs) :
    ∃ q, SameLane l (f l q) (ls.foldl (fun r j => f j r) r) := by
  induction ls generalizing r with
  | nil => exact absurd hmem List.not_mem_nil
  | cons j ls ih =>
    obtain ⟨hj, htail⟩ := List.forall_mem_cons.mp hls
    obtain ⟨hjnot, hnd⟩ := List.nodup_cons.mp hnd
    rcases List.mem_cons.mp hmem with rfl | hmem
    · exact ⟨r, foldl_sameLane h hl htail hjnot _⟩
    · exact ih htail hnd hmem _

end

theorem Regs.written_sameLane (r : Regs) (m : Mask) (op : Op) (x : Ext) (pc : DWord) (l : Nat) :
    SameLane l r { r.written m op x with pc := pc } := by
  obtain ⟨u, t, h⟩ := r.written_eq m op x
  rw [h]
  exact ⟨fun _ => rfl, fun _ => rfl, fun _ => rfl⟩

section
variable {i : Instr} {c : Cx} {len : Nat} {p q : Cx → Nat → Prop}

theorem EachThread.imp (h : EachThread i c len p) (hpq : ∀ t, ∀ l ∈ lanesOf c.m, p t l → q t l) : EachThread i c len q := by
  obtain ⟨r, hrun, hp⟩ := h
  exact ⟨r, hrun, fun l hl => hpq _ l hl (hp l hl)⟩

/-- Each thread's operands read afterwards as its own step left them. -/
theorem Executes.eachThread_of_lane (he : Executes i c len) {op : Op} (ho : c.op = op) {e : LaneEffect op} (h : laneEffect op = some e)
    (hp : ∀ l ∈ lanesOf c.m, ∀ q r, SameLane l (e.run c l q) r → p (c.after r) l) : EachThread i c len p := by
  have hrun : exec i c.s = c.done len (c.each (e.run c)) := by
    rw [exec_of_laneEffect c.s h (ho ▸ he.form), perThread, he.frame_eq ho]
  have hpc : (c.each (e.run c)).pc = c.w.r.pc := (fold_only (ws := writesOf op c.x) c.m _ c.w.r fun l hl r => e.only c l r (lanesOf_lt hl)).2.2
  refine ⟨_, ⟨hrun.trans (Cx.done_eq ..), ?_⟩, fun l hl => ?_⟩
  · rw [Regs.written_pc, hpc]
  · obtain ⟨q, hq⟩ := foldl_ownLane (fun j hj r => e.only c j r hj) (lanesOf_lt hl) (fun j => lanesOf_lt) (lanesOf_nodup c.m) hl c.w.r
    exact hp l hl q _ (hq.trans (Regs.written_sameLane ..))

end

/-! ### Destinations -/

theorem Ext.posD_of_check {op : Op} {x : Ext} (h : x.check op = none) : (sig op x).d.accepts x.u x.d = true := by
  rw [Ext.check] at h
  obtain ⟨-, h⟩ := next_check h
  obtain ⟨-, h⟩ := next_check h
  obtain ⟨-, h⟩ := next_check h
  obtain ⟨-, h⟩ := next_check h
  obtain ⟨hd, -⟩ := next_check h
  simpa only [Bool.not_eq_true, Bool.not_eq_false'] using hd

theorem PK.accepts_f {u : Bool} {n al : Nat} {x : Sel} (h : (PK.f n al).accepts u x = true) : ∃ k : BitVec 7, x = .reg k := by
  cases x with
  | reg k => exact ⟨k, rfl⟩
  | _ => exact absurd h Bool.false_ne_true

section
variable {c : Cx} {l : Nat} {k : BitVec 7} {v : Raw} {q r : Regs}

theorem loWord_pair (a b : Word) : loWord (pair a b) = a := BitVec.extractLsb'_append_eq_right
theorem hiWord_pair (a b : Word) : hiWord (pair a b) = b := BitVec.extractLsb'_append_eq_left

/-- A pair whose codes fit is read back from a register. -/
theorem FReg.raw_ofRaw (hlo : v.lo < 2 ^ 32) (hhi : v.hi < 2 ^ 32) : (FReg.ofRaw v).raw = v := by
  simp only [FReg.raw, FReg.ofRaw, loWord_pair, hiWord_pair, BitVec.toNat_ofNat, Nat.mod_eq_of_lt hlo, Nat.mod_eq_of_lt hhi]

theorem flt_of_putF (h : SameLane l (putF l (.reg k) v q) r) (hlo : v.lo < 2 ^ 32) (hhi : v.hi < 2 ^ 32) :
    (c.after r).flt l (.reg k) = v := by
  show (r.getF k.toNat l).raw = v
  rw [h.f, putF, Regs.getF_setF, FReg.raw_ofRaw hlo hhi]

theorem dbl_of_putD (h : SameLane l (putD l (.reg k) v q) r) (hl : l < 128) (hlo : v.lo < 2 ^ 64) (hhi : v.hi < 2 ^ 64) :
    (c.after r).dbl l (.reg k) = v := by
  have hne : regKey k.toNat l ≠ regKey (k.toNat + 1) l := fun h => by simpa using (regKey_inj hl hl h).1
  show r.rawPair k.toNat l = v
  simp only [Regs.rawPair, h.f, putD, Regs.getF_setF_ne _ _ _ _ _ _ hne, Regs.getF_setF, BitVec.toNat_ofNat, Nat.mod_eq_of_lt hlo, Nat.mod_eq_of_lt hhi]

/-- The codes of what is written fit in the format's bits. -/
theorem Iv.write_lt {f : Fmt} (hf : f.isReg) {x : Iv} (h : x.Good f) : (x.write f).lo < 2 ^ f.bits ∧ (x.write f).hi < 2 ^ f.bits := by
  have hnan : f.nan < 2 ^ f.bits := by rcases hf with rfl | rfl <;> decide
  have hinf : ∀ n, (Pt.inf n).Good f := fun _ => trivial
  cases x with
  | nai => exact ⟨hnan, hnan⟩
  | empty => exact ⟨Pt.encode_lt hf (hinf _), Pt.encode_lt hf (hinf _)⟩
  | mk a b d => exact ⟨Pt.encode_lt hf h.1.posZero, Pt.encode_lt hf h.2.1.posZero⟩

/-- An interval result as the destination reads afterwards. -/
theorem held_of_outIv {f : Fmt} (hf : f.isReg) (hd : c.x.d = .reg k) (hl : l < 128) {x : Iv} (hx : x.Good f)
    (h : SameLane l (c.outIv f l x q) r) : (c.after r).held f l c.x.d = ((x.flush f c.x.fzo).write f).read f := by
  obtain ⟨hlo, hhi⟩ := Iv.write_lt hf (hx.flush hf c.x.fzo)
  rw [Cx.outIv, putRaw, hd] at h
  rw [Cx.held, hd]
  rcases hf with rfl | rfl
  · rw [if_neg (by decide)] at h ⊢
    rw [flt_of_putF h hlo hhi]
  · rw [if_pos rfl] at h ⊢
    rw [dbl_of_putD h hl hlo hhi]

end

end Sys2Proof.Machine
end

section
/-! SUPPORT. The result of each floating opcode outside `.pt`, as one table, and O12 settled. -/

namespace Sys2Proof.Machine

theorem opFmt_isReg (op : Op) : (opFmt op).isReg := by
  unfold opFmt
  split
  · exact .inr rfl
  · exact .inl rfl

/-- The opcodes of the special functions (R283). -/
def specialFn : Op → Option Fn
  | .fexp => some .exp
  | .fexp2 => some .exp2
  | .flog => some .log
  | .flog2 => some .log2
  | .ftanh => some .tanh
  | .fsig => some .sig
  | .ferf => some .erf
  | .fsin => some .sin
  | .fcos => some .cos
  | .fgelu => some .gelu
  | .fsilu => some .silu
  | _ => none

/-- What the opcode computes of intervals, with B as an integer for FPOWN and FLDEXP, and the fields of MOD for the special functions. -/
def ivValue (op : Op) (x : Ext) (n : Int) (a b d : Iv) : Iv :=
  let f := opFmt op
  match op with
  | .fadd | .dadd => Iv.add f a b
  | .fsub | .dsub => Iv.sub f a b
  | .fmul | .dmul => Iv.mul f a b
  | .fdiv | .ddiv => Iv.div f a b
  | .ffma | .dfma => Iv.fma f a b d
  | .fsqrt | .dsqrt => Iv.sqrt f a
  | .fsqr => Iv.sqr f a
  | .frcp => Iv.rcp f a
  | .frsqrt => Iv.rsqrt f a
  | .fpown => Iv.pown f a n
  | .fldexp => Iv.ldexp f a n
  | .fabs => a.abs
  | .fneg => a.neg
  | .fmin => a.imin b
  | .fmax => a.imax b
  | .fgate => mulInto (rfFmt (x.m 0 3)) ((gateFn (x.m 4 2)).iv 0 a) b
  | op => match specialFn op with
    | some fn => fn.iv (x.m 0 3) a
    | none => .nai

/-- The same of the instruction's operands in a thread. -/
def Cx.ivResult (c : Cx) (l : Nat) : Iv :=
  let f := opFmt c.op
  ivValue c.op c.x (c.i32 l c.x.b).toInt (c.taken f l c.x.a) (c.taken f l c.x.b) (c.taken f l c.x.d)

/-- Opcodes whose `.pt` is MOD[0], those without it, and those with MOD[3]. -/
def pt0Ops : List Op := [.fadd, .fsub, .fmul, .fdiv, .dadd, .dsub, .dmul, .ddiv, .ffma, .dfma, .fsqrt, .dsqrt, .fsqr, .frcp, .frsqrt, .fpown, .fldexp]
def exactOps : List Op := [.fabs, .fneg, .fmin, .fmax]
def pt3Ops : List Op := [.fexp, .fexp2, .flog, .flog2, .ftanh, .fsig, .ferf, .fsin, .fcos, .fgelu, .fsilu, .fgate]

theorem fltOps_split : ∀ op ∈ fltOps1 ++ fltOps2 ++ fltOps3, op ∈ pt0Ops ∨ op ∈ exactOps ∨ op ∈ pt3Ops := by decide

/-- The step of an opcode writes the opcode's result where p does not hold. -/
def WritesIv (op : Op) (p : Cx → Bool) : Prop :=
  ∃ e : LaneEffect op, laneEffect op = some e ∧ ∀ (c : Cx) (l : Nat) (q : Regs), c.op = op → p c = false →
    e.run c l q = c.outIv (opFmt op) l (ivValue op c.x (c.i32 l c.x.b).toInt (c.ivIn (opFmt op) l c.x.a) (c.ivIn (opFmt op) l c.x.b) (c.ivIn (opFmt op) l c.x.d)) q

theorem isPoint_pt0 (x : Ext) : ∀ op ∈ pt0Ops, isPoint op x = decide (x.m 0 1 = 1) := by
  simp only [pt0Ops, List.forall_mem_cons, List.not_mem_nil, false_imp_iff, implies_true, and_true]
  and_intros <;> rfl

theorem isPoint_pt3 (x : Ext) : ∀ op ∈ pt3Ops, isPoint op x = decide (x.m 3 1 = 1) := by
  simp only [pt3Ops, List.forall_mem_cons, List.not_mem_nil, false_imp_iff, implies_true, and_true]
  and_intros <;> rfl

theorem writesIv_pt0 : ∀ op ∈ pt0Ops, WritesIv op fun c => decide (c.x.m 0 1 = 1) := by
  simp only [pt0Ops, List.forall_mem_cons, List.not_mem_nil, false_imp_iff, implies_true, and_true]
  and_intros <;> exact ⟨_, rfl, fun c l q _ hp => if_neg (Bool.not_eq_true _ ▸ hp)⟩

theorem writesIv_exact : ∀ op ∈ exactOps, WritesIv op fun _ => false := by
  simp only [exactOps, List.forall_mem_cons, List.not_mem_nil, false_imp_iff, implies_true, and_true]
  and_intros <;> exact ⟨_, rfl, fun c l q _ _ => rfl⟩

theorem writesIv_pt3 : ∀ op ∈ pt3Ops, WritesIv op fun c => decide (c.x.m 3 1 = 1) := by
  simp only [pt3Ops, List.forall_mem_cons, List.not_mem_nil, false_imp_iff, implies_true, and_true]
  and_intros <;> exact ⟨_, rfl, fun c l q _ hp => if_neg (of_decide_eq_false hp)⟩

theorem writesIv {op : Op} (h : op ∈ fltOps1 ++ fltOps2 ++ fltOps3) : WritesIv op fun c => isPoint op c.x := by
  rcases fltOps_split op h with h | h | h
  · simpa only [isPoint_pt0 _ op h] using writesIv_pt0 op h
  · obtain ⟨e, he, hrun⟩ := writesIv_exact op h
    exact ⟨e, he, fun c l q ho _ => hrun c l q ho rfl⟩
  · simpa only [isPoint_pt3 _ op h] using writesIv_pt3 op h

section
variable {i : Instr} {c : Cx} {len : Nat}

/-- What the instruction takes is what the model reads. -/
theorem Cx.taken_eq {f : Fmt} (hf : f.isReg) (l : Nat) (x : Sel) : c.taken f l x = c.ivIn f l x := by
  rcases hf with rfl | rfl <;> rfl

theorem Cx.good_held (c : Cx) (f : Fmt) (l : Nat) (x : Sel) (hf : f.isReg) : (c.held f l x).Good f := by
  rcases hf with rfl | rfl <;> exact Iv.good_read _ _

theorem Cx.good_taken (c : Cx) (f : Fmt) (l : Nat) (x : Sel) (hf : f.isReg) : (c.taken f l x).Good f :=
  (c.good_held f l x hf).flush hf _

/-- Floating destinations are F registers (R262, R280). -/
theorem float_dest {op : Op} {x : Ext} (h : op ∈ fltOps1 ++ fltOps2 ++ fltOps3) (hc : x.check op = none) : ∃ k : BitVec 7, x.d = .reg k := by
  have hd : ∀ op ∈ fltOps1 ++ fltOps2 ++ fltOps3, ∃ n, (sig op x).d = .f n n := by
    simp only [fltOps1, fltOps2, fltOps3, List.cons_append, List.nil_append, List.forall_mem_cons, List.not_mem_nil, false_imp_iff, implies_true, and_true]
    and_intros <;> exact ⟨_, rfl⟩
  obtain ⟨n, hn⟩ := hd op h
  exact PK.accepts_f (hn ▸ Ext.posD_of_check hc)

/-- Outside `.pt` the destination reads what the opcode computes of the operands taken, flushed, written and read again. -/
theorem float_result (he : Executes i c len) (hop : c.op ∈ fltOps1 ++ fltOps2 ++ fltOps3) (hpt : isPoint c.op c.x = false) :
    let f := opFmt c.op
    EachThread i c len fun t l => (c.ivResult l).Good f → t.held f l c.x.d = (((c.ivResult l).flush f c.x.fzo).write f).read f := by
  obtain ⟨e, hlane, hrun⟩ := writesIv hop
  obtain ⟨k, hd⟩ := float_dest hop he.able.legal
  refine he.eachThread_of_lane rfl hlane fun l hl q r h hg => ?_
  refine held_of_outIv (opFmt_isReg _) hd (lanesOf_lt hl) hg (q := q) ?_
  rw [hrun c l q rfl hpt] at h
  simpa only [Cx.ivResult, Cx.taken_eq (opFmt_isReg _)] using h

/-! ### Enclosure (R202) -/

theorem Iv.Has.good {f : Fmt} {x : Iv} {u : ℝ} (h : x.Has f u) : x.Good f := by
  obtain ⟨a, b, d, rfl, h⟩ := h
  exact ⟨h.low, h.high, h.dec⟩

/-- The operations that are defined everywhere. -/
theorem ivValue_has_total {x : Ext} {n : Int} {a b d : Iv} {u v w : ℝ} : ∀ op ∈ [Op.fadd, .fsub, .fmul, .ffma, .fsqr, .dadd, .dsub, .dmul, .dfma],
    a.Has (opFmt op) u → (op ≠ .fsqr → b.Has (opFmt op) v) → (op ∈ [Op.ffma, .dfma] → d.Has (opFmt op) w) →
    (ivValue op x n a b d).Has (opFmt op) (realOp op u v w) := by
  simp only [List.forall_mem_cons, List.not_mem_nil, false_imp_iff, implies_true, and_true]
  refine ⟨?_, ?_, ?_, ?_, ?_, ?_, ?_, ?_, ?_⟩ <;> intro ha hb hd
  case refine_1 => exact ha.add (hb nofun)
  case refine_2 => exact ha.sub (hb nofun)
  case refine_3 => exact ha.mul (hb nofun)
  case refine_4 => exact ha.fma (hb nofun) (hd (by decide))
  case refine_5 => exact ha.sqr
  case refine_6 => exact ha.add (hb nofun)
  case refine_7 => exact ha.sub (hb nofun)
  case refine_8 => exact ha.mul (hb nofun)
  case refine_9 => exact ha.fma (hb nofun) (hd (by decide))

/-- Division, reciprocals and square roots, where they are defined. -/
theorem ivValue_has_partial {x : Ext} {n : Int} {a b d : Iv} {u v : ℝ} : ∀ op ∈ [Op.fdiv, .frcp, .fsqrt, .ddiv, .dsqrt],
    a.Has (opFmt op) u → (op ∈ [Op.fdiv, .ddiv] → b.Has (opFmt op) v) → realDom op u v →
    (ivValue op x n a b d).Has (opFmt op) (realOp op u v 0) := by
  simp only [List.forall_mem_cons, List.not_mem_nil, false_imp_iff, implies_true, and_true]
  refine ⟨?_, ?_, ?_, ?_, ?_⟩ <;> intro ha hb hdom
  case refine_1 => exact ha.div (hb (by decide)) hdom
  case refine_2 => exact ha.rcp hdom
  case refine_3 => exact ha.sqrt hdom
  case refine_4 => exact ha.div (hb (by decide)) hdom
  case refine_5 => exact ha.sqrt hdom

/-- A result that holds a real is written around it. -/
theorem holds_of_result {f : Fmt} (hf : f.isReg) {fzo : Bool} {x y : Iv} {u : ℝ} (h : x.Good f → y = ((x.flush f fzo).write f).read f) (hx : x.Has f u) :
    y.Holds f u := h hx.good ▸ ((hx.flush hf fzo).read_write hf).holds

end

/-- Settles O12: the sums, products, quotients and roots of bounds are rounded outwards, and flushing, writing and reading again only
widen. -/
theorem encloses : Obligations.Encloses := by
  have hsub : ∀ op ∈ [Op.fadd, .fsub, .fmul, .ffma, .fsqr, .dadd, .dsub, .dmul, .dfma] ++ [Op.fdiv, .frcp, .fsqrt, .ddiv, .dsqrt],
      op ∈ fltOps1 ++ fltOps2 ++ fltOps3 := by decide
  have hhas : ∀ (c : Cx) (l : Nat) (x : Sel) (u : ℝ), (c.taken (opFmt c.op) l x).Holds (opFmt c.op) u → (c.taken (opFmt c.op) l x).Has (opFmt c.op) u :=
    fun c l x u h => (c.good_taken _ l x (opFmt_isReg _)).has h
  constructor
  · intro i c len he hop hpt
    refine (float_result he (hsub _ (List.mem_append_left _ hop)) hpt).imp fun t l _ h x y z hx hy hz => ?_
    exact holds_of_result (opFmt_isReg _) h
      (ivValue_has_total _ hop (hhas _ _ _ _ hx) (fun ho => hhas _ _ _ _ (hy ho)) fun ho => hhas _ _ _ _ (hz ho))
  · intro i c len he hop hpt
    refine (float_result he (hsub _ (List.mem_append_right _ hop)) hpt).imp fun t l _ h x y hx hy hdom => ?_
    exact holds_of_result (opFmt_isReg _) h (ivValue_has_partial _ hop (hhas _ _ _ _ hx) (fun ho => hhas _ _ _ _ (hy ho)) hdom)

end Sys2Proof.Machine
end

section
/-! SUPPORT. The sums of the matrix unit (R192, R305, R306, R308), and O53 settled. -/

namespace Sys2Proof.Machine

/-! ### Exact sums (R192) -/

/-- A dyadic sum is the sum of the reals. -/
theorem Dy.real_foldl_add {α : Type} (g : α → Dy) (l : List α) (z : Dy) :
    (l.foldl (fun t p => t.add (g p)) z).real = z.real + (l.map fun p => (g p).real).sum := by
  induction l generalizing z with
  | nil => simp
  | cons p l ih => rw [List.foldl_cons, ih, Dy.real_add, List.map_cons, List.sum_cons, add_assoc]

theorem Dy.real_foldl_mul {α : Type} (g : α → Dy) (l : List α) (z : Dy) :
    (l.foldl (fun t p => t.mul (g p)) z).real = z.real * (l.map fun p => (g p).real).prod := by
  induction l generalizing z with
  | nil => simp
  | cons p l ih => rw [List.foldl_cons, ih, Dy.real_mul, List.map_cons, List.prod_cons, mul_assoc]

theorem MEl.real_times (es : List MEl) : (MEl.times es).real = (es.map fun e => e.value.real).prod := by
  rw [MEl.times, Dy.real_foldl_mul, Dy.real, Int.cast_one, zpow_zero, one_mul, one_mul]

section
variable {terms : List (List MEl)}

theorem contains_flatten {e : MEl} : terms.flatten.contains e = true ↔ ∃ t ∈ terms, e ∈ t := by
  rw [List.contains_iff_mem, List.mem_flatten]

theorem exactSum_nan (h : ∃ t ∈ terms, MEl.nan ∈ t) : exactSum terms = .nai := if_pos (contains_flatten.mpr h)

theorem exactSum_inf (h : ∀ t ∈ terms, MEl.nan ∉ t) (h' : ∃ t ∈ terms, MEl.inf ∈ t) : exactSum terms = .all :=
  (if_neg fun hc => let ⟨t, ht, he⟩ := contains_flatten.mp hc; h t ht he).trans (if_pos (contains_flatten.mpr h'))

theorem exactSum_val (h : ∀ t ∈ terms, MEl.nan ∉ t ∧ MEl.inf ∉ t) :
    ∃ d nz, exactSum terms = .val d d nz ∧ d.real = (terms.map fun t => (t.map fun e => e.value.real).prod).sum := by
  refine ⟨_, _, (if_neg fun hc => ?_).trans (if_neg fun hc => ?_), ?_⟩
  · obtain ⟨t, ht, he⟩ := contains_flatten.mp hc
    exact (h t ht).1 he
  · obtain ⟨t, ht, he⟩ := contains_flatten.mp hc
    exact (h t ht).2 he
  · rw [Dy.real_foldl_add, Dy.real_zero, zero_add]
    simp only [MEl.real_times]

end

/-! ### Midpoints and radii (R308) -/

/-- A product of points of two discs of the line lies in the disc of R308. -/
theorem abs_mul_sub_le {x y m n r s : ℝ} (hx : |x - m| ≤ r) (hy : |y - n| ≤ s) : |x * y - m * n| ≤ |m| * s + r * (|n| + s) := by
  have hny : |y| ≤ |n| + s := by
    calc |y| = |n + (y - n)| := by rw [add_sub_cancel]
      _ ≤ |n| + |y - n| := abs_add_le _ _
      _ ≤ |n| + s := by gcongr
  calc |x * y - m * n| = |m * (y - n) + (x - m) * y| := by ring_nf
    _ ≤ |m| * |y - n| + |x - m| * |y| := by rw [← abs_mul, ← abs_mul]; exact abs_add_le _ _
    _ ≤ |m| * s + r * (|n| + s) := by gcongr; exact (abs_nonneg _).trans hx

/-- Sums of products of points lie within the sum of the discs. -/
theorem abs_sum_sub_le (n : Nat) {p m r : Nat → ℝ} (h : ∀ k < n, |p k - m k| ≤ r k) :
    |((List.range n).map p).sum - ((List.range n).map m).sum| ≤ ((List.range n).map r).sum := by
  induction n with
  | zero => simp
  | succ n ih =>
    simp only [List.range_succ, List.map_append, List.sum_append, List.map_cons, List.map_nil, List.sum_cons, List.sum_nil, add_zero]
    rw [add_sub_add_comm]
    exact (abs_add_le _ _).trans (add_le_add (ih fun k hk => h k (hk.trans n.lt_succ_self)) (h n n.lt_succ_self))

/-- Elements none of which is special have midpoints and radii. -/
theorem MidEl.eq_mid {es : List MidEl} {e : MidEl} (he : e ∈ es) (h : .nai ∉ es) (h' : .empty ∉ es) (h'' : .all ∉ es) : e = .mid e.m e.r := by
  cases e with
  | mid m r => rfl
  | nai => exact absurd he h
  | empty => exact absurd he h'
  | all => exact absurd he h''

/-- Element k of a slice of MMAI. -/
def MatJob.midAt (j : MatJob) (v k : Nat) : MidEl := midElem (j.bit 0) (v / 2 ^ ((if j.bit 0 then 64 else 32) * k) % 2 ^ (if j.bit 0 then 64 else 32))

/-- A row of elements of MMAI. -/
def MatJob.midRow (j : MatJob) (v : Nat) : List MidEl := (List.range j.k).map (j.midAt v)

/-- The elements of A and of B that meet at k. -/
def MatJob.midPair (j : MatJob) (d : MatData) (l n k : Nat) : MidEl × MidEl := (j.midAt (d.a l).1 k, j.midAt (d.b n).1 k)

/-- The sum of R308 of two rows. -/
def discSum (xs ys : List MidEl) : MSum :=
  if (xs ++ ys).contains .nai then .nai
  else if (xs ++ ys).contains .empty then .empty
  else if (xs ++ ys).contains .all then .all
  else
    let m := (xs.zip ys).foldl (fun (t : Dy) p => t.add (p.1.m.mul p.2.m)) Dy.zero
    let r := (xs.zip ys).foldl (fun (t : Dy) p => t.add ((p.1.m.abs.mul p.2.r).add (p.1.r.mul (p.2.m.abs.add p.2.r)))) Dy.zero
    .val (m.sub r) (m.add r) false

theorem MatJob.midSum_eq (j : MatJob) (d : MatData) (l n : Nat) : j.midSum d l n = discSum (j.midRow (d.a l).1) (j.midRow (d.b n).1) := rfl

/-- The midpoint and radius of a product (R308). -/
noncomputable def discMid (p : MidEl × MidEl) : ℝ := p.1.m.real * p.2.m.real
noncomputable def discRad (p : MidEl × MidEl) : ℝ := |p.1.m.real| * p.2.r.real + p.1.r.real * (|p.2.m.real| + p.2.r.real)

/-- Where no element is special the sum is a disc whose midpoint and radius are the sums of the products'. -/
theorem discSum_val {xs ys : List MidEl} {lo hi : Dy} {nz : Bool} (h : discSum xs ys = .val lo hi nz) :
    (∀ e ∈ xs ++ ys, e = .mid e.m e.r) ∧ lo.real = ((xs.zip ys).map discMid).sum - ((xs.zip ys).map discRad).sum ∧
      hi.real = ((xs.zip ys).map discMid).sum + ((xs.zip ys).map discRad).sum := by
  have hm : ((xs.zip ys).foldl (fun (t : Dy) p => t.add (p.1.m.mul p.2.m)) Dy.zero).real = ((xs.zip ys).map discMid).sum := by
    simp only [Dy.real_foldl_add, Dy.real_zero, zero_add, Dy.real_mul]
    rfl
  have hr : ((xs.zip ys).foldl (fun (t : Dy) p => t.add ((p.1.m.abs.mul p.2.r).add (p.1.r.mul (p.2.m.abs.add p.2.r)))) Dy.zero).real =
      ((xs.zip ys).map discRad).sum := by
    simp only [Dy.real_foldl_add, Dy.real_zero, zero_add, Dy.real_add, Dy.real_mul, Dy.real_abs]
    rfl
  unfold discSum at h
  split at h <;> rename_i hnai
  · cases h
  split at h <;> rename_i hempty
  · cases h
  split at h <;> rename_i hall
  · cases h
  rw [List.contains_iff_mem] at hnai hempty hall
  obtain ⟨rfl, rfl, -⟩ := MSum.val.inj h
  exact ⟨fun e he => MidEl.eq_mid he hnai hempty hall, by rw [Dy.real_sub, hm, hr], by rw [Dy.real_add, hm, hr]⟩

/-- The bounds hold the sum of the products of any points of the elements' discs. -/
theorem MatJob.midSum_mem {j : MatJob} {d : MatData} {l n : Nat} {lo hi : Dy} {nz : Bool} {x y : Nat → ℝ} (h : j.midSum d l n = .val lo hi nz)
    (hx : ∀ k < j.k, ∀ m r, j.midAt (d.a l).1 k = .mid m r → |x k - m.real| ≤ r.real)
    (hy : ∀ k < j.k, ∀ m r, j.midAt (d.b n).1 k = .mid m r → |y k - m.real| ≤ r.real) :
    lo.real ≤ ((List.range j.k).map fun k => x k * y k).sum ∧ ((List.range j.k).map fun k => x k * y k).sum ≤ hi.real := by
  rw [MatJob.midSum_eq] at h
  obtain ⟨hmid, hlo, hhi⟩ := discSum_val h
  have hzip : (j.midRow (d.a l).1).zip (j.midRow (d.b n).1) = (List.range j.k).map (j.midPair d l n) := List.zip_map' ..
  rw [hzip, List.map_map, List.map_map] at hlo hhi
  have hdisc := abs_sum_sub_le j.k (p := fun k => x k * y k) (m := discMid ∘ j.midPair d l n) (r := discRad ∘ j.midPair d l n) fun k hk => by
    have hmem : ∀ v, j.midAt v k ∈ j.midRow v := fun v => List.mem_map_of_mem (List.mem_range.mpr hk)
    exact abs_mul_sub_le (hx k hk _ _ (hmid _ (List.mem_append_left _ (hmem _)))) (hy k hk _ _ (hmid _ (List.mem_append_right _ (hmem _))))
  rw [abs_le] at hdisc
  rw [hlo, hhi]
  exact ⟨sub_le_iff_le_add.mpr (by linarith [hdisc.1]), by linarith [hdisc.2]⟩

/-! ### Accumulators (R306) -/

/-- The new interval holds the sum of a point of the old and one of the sum's bounds. -/
theorem accumulate_holds {fzi fzo : Bool} {old : Raw} {lo hi : Dy} {nz : Bool} {u x : ℝ} (hlo : lo.real ≤ x) (hhi : x ≤ hi.real)
    (h : (old.read .fp32).Holds .fp32 u) : ((accumulate false false fzi fzo old (.val lo hi nz)).read .fp32).Holds .fp32 (u + x) := by
  have hreg : Fmt.fp32.isReg := .inl rfl
  obtain ⟨a, b, d, heq, hin⟩ := ((Iv.good_read .fp32 old).has h).flush hreg fzi
  refine (((show Iv.Has .fp32 _ (u + x) from ?_).flush hreg fzo).read_write hreg).holds
  dsimp only
  rw [if_neg Bool.false_ne_true, heq]
  dsimp only
  have hle := XR.add_le hin.toXR.1 (show (XR.fin lo).toE ≤ x from EReal.coe_le_coe_iff.mpr hlo)
  have hge := XR.le_add hin.toXR.2 (show (x : EReal) ≤ (XR.fin hi).toE from EReal.coe_le_coe_iff.mpr hhi)
  refine ⟨_, _, _, rfl, (XR.down_good ..).posZero, (XR.up_good ..).posZero, ?_, ?_, ?_⟩
  · refine Iv.Dec.min_ne_ill hin.dec ?_
    split <;> decide
  · rw [Pt.ext_posZero]; exact (XR.down_le ..).trans hle
  · rw [Pt.ext_posZero]; exact hge.trans (XR.le_up ..)

/-- Settles O53: exact sums are sums of dyadics, a product of two discs lies in the disc of R308, and an accumulator's bounds are
rounded outwards. -/
theorem matrixSumsEnclose : Obligations.MatrixSumsEnclose :=
  ⟨fun _ => ⟨exactSum_nan, exactSum_inf, exactSum_val⟩,
    fun _ _ _ _ _ _ _ _ _ h hin => MatJob.midSum_mem h (fun k hk => (hin k hk).1) fun k hk => (hin k hk).2,
    fun _ _ _ _ _ _ _ _ => accumulate_holds⟩

end Sys2Proof.Machine
end

section
/-! SUPPORT. Relations, set tests and classification of intervals (R208 to R210, R275) by the order of their bounds, and O15 settled. -/

namespace Sys2Proof.Machine

/-! ### Bounds that R194 reads -/

section
variable {f : Fmt} {p : Pt}

theorem Pt.eq_neg_inf_iff (h : p.Good f) : p = .inf true ↔ p.ext f = ⊥ := by
  cases p with
  | nan => exact h.elim
  | inf n => cases n <;> simp [Pt.ext]
  | fin n c => simp [Pt.ext_fin]

theorem Pt.eq_pos_inf_iff (h : p.Good f) : p = .inf false ↔ p.ext f = ⊤ := by
  cases p with
  | nan => exact h.elim
  | inf n => cases n <;> simp [Pt.ext]
  | fin n c => simp [Pt.ext_fin]

theorem Pt.isFin_iff (h : p.Good f) : p.isFin = true ↔ p ≠ .inf true ∧ p ≠ .inf false := by
  cases p with
  | nan => exact h.elim
  | inf n => cases n <;> simp [Pt.isFin]
  | fin n c => simp [Pt.isFin]

end

namespace Iv

/-- The lower bound is not +∞ and the upper not −∞ (R194). -/
def Proper : Iv → Prop
  | .mk a b _ => a ≠ .inf false ∧ b ≠ .inf true
  | _ => True

theorem posZero_ne_inf {p : Pt} {n : Bool} (h : p ≠ .inf n) : p.posZero ≠ .inf n := by
  unfold Pt.posZero
  split
  · nofun
  · exact h

theorem proper_ofPts {f : Fmt} {a b : Pt} {d : Dec} (ha : a ≠ .nan → a.Good f) (hb : b ≠ .nan → b.Good f) : (Iv.ofPts f a b d).Proper := by
  unfold Iv.ofPts
  split
  · trivial
  · trivial
  · trivial
  · exact ⟨nofun, nofun⟩
  · exact ⟨nofun, nofun⟩
  · rename_i hna hnb hne hpos hneg
    split
    · trivial
    · rename_i hlt
      have hag := ha hna
      have hbg := hb hnb
      have hle : a.ext f ≤ b.ext f := not_lt.mp fun h => hlt ((Pt.lt_iff hbg hag).mpr h)
      refine ⟨posZero_ne_inf ?_, posZero_ne_inf ?_⟩
      · rintro rfl
        exact hpos rfl ((Pt.eq_pos_inf_iff hbg).mpr (top_le_iff.mp hle))
      · rintro rfl
        exact hneg ((Pt.eq_neg_inf_iff hag).mpr (le_bot_iff.mp hle)) rfl

theorem proper_read (f : Fmt) (r : Raw) : (r.read f).Proper := by
  unfold Raw.read
  split
  · trivial
  · exact proper_ofPts Pt.good_decode Pt.good_decode

theorem Proper.flush {x : Iv} {f : Fmt} (on : Bool) (h : x.Proper) : (x.flush f on).Proper := by
  cases x with
  | nai => trivial
  | empty => trivial
  | mk a b d =>
    obtain ⟨ha, hb⟩ := h
    cases on with
    | false => exact ⟨ha, hb⟩
    | true =>
      refine ⟨?_, ?_⟩
      · unfold Pt.flushLo; split_ifs; exacts [nofun, nofun, ha]
      · unfold Pt.flushHi; split_ifs; exacts [nofun, nofun, hb]

end Iv

/-! ### Relations (R208, R209) -/

/-- TRUE, FALSE or UNDECIDED by two tests, the first before the second. -/
def triTests (t f : Bool) : Tri := if t then Tri.tt else if f then Tri.ff else Tri.und

theorem triTests_spec {t f : Bool} {T F : Prop} (ht : t = true ↔ T) (hf : f = true ↔ F) :
    (triTests t f = Tri.tt ↔ T) ∧ (triTests t f = Tri.ff ↔ F ∧ ¬ T) ∧ (triTests t f = Tri.tt ∨ triTests t f = Tri.ff ∨ triTests t f = Tri.und) := by
  rw [← ht, ← hf]
  clear ht hf
  revert t f
  decide

/-- The negation, where the two tests exclude each other. -/
theorem not_triTests_spec {t f : Bool} {T F : Prop} (ht : t = true ↔ T) (hf : f = true ↔ F) (hTF : F → ¬ T) :
    (Tri.not (triTests t f) = Tri.tt ↔ F) ∧ (Tri.not (triTests t f) = Tri.ff ↔ T ∧ ¬ F) ∧
      (Tri.not (triTests t f) = Tri.tt ∨ Tri.not (triTests t f) = Tri.ff ∨ Tri.not (triTests t f) = Tri.und) := by
  rw [← ht, ← hf] at hTF ⊢
  clear ht hf
  revert t f
  decide

section
variable {f : Fmt} {a b e g : Pt} {d d' : Dec}

/-- Relations of bounds as R208 states them. -/
theorem rel_mk (ha : a.Good f) (hb : b.Good f) (he : e.Good f) (hg : g.Good f) (rel : Nat) :
    let v := Iv.rel rel (.mk a b d) (.mk e g d')
    (v = Tri.tt ↔ relTrue rel (a.ext f) (b.ext f) (e.ext f) (g.ext f)) ∧
    (v = Tri.ff ↔ relFalse rel (a.ext f) (b.ext f) (e.ext f) (g.ext f) ∧ ¬ relTrue rel (a.ext f) (b.ext f) (e.ext f) (g.ext f)) ∧
    (v = Tri.tt ∨ v = Tri.ff ∨ v = Tri.und) := by
  have heq : (decide (a.key = b.key) && decide (b.key = e.key) && decide (e.key = g.key)) = true ↔
      a.ext f = b.ext f ∧ b.ext f = e.ext f ∧ e.ext f = g.ext f := by
    simp only [Bool.and_eq_true, decide_eq_true_eq, Pt.key_eq_iff ha hb, Pt.key_eq_iff hb he, Pt.key_eq_iff he hg, and_assoc]
  have hne : (b.lt e || g.lt a) = true ↔ b.ext f < e.ext f ∨ g.ext f < a.ext f := by
    rw [Bool.or_eq_true, Pt.lt_iff hb he, Pt.lt_iff hg ha]
  match rel with
  | 0 => exact triTests_spec (Pt.lt_iff hb he) (Pt.le_iff hg ha)
  | 1 => exact triTests_spec (Pt.le_iff hb he) (Pt.lt_iff hg ha)
  | 2 => exact triTests_spec heq hne
  | 3 =>
    refine not_triTests_spec heq hne fun hlt heq => ?_
    obtain ⟨hab, hbe, heg⟩ := heq
    rcases hlt with h | h
    · exact h.ne hbe
    · exact h.ne (heg.symm.trans (hbe.symm.trans hab.symm))
  | 4 => exact triTests_spec (Pt.lt_iff hg ha) (Pt.le_iff hb he)
  | _ + 5 => exact triTests_spec (Pt.le_iff hg ha) (Pt.lt_iff hb he)

end

theorem rel_nai {rel : Nat} {x y : Iv} (h : x = .nai ∨ y = .nai) : Iv.rel rel x y = Tri.und := by
  rcases h with rfl | rfl
  · rfl
  · cases x <;> rfl

theorem rel_empty {rel : Nat} {x y : Iv} (hx : x ≠ .nai) (hy : y ≠ .nai) (h : x = .empty ∨ y = .empty) :
    Iv.rel rel x y = match rel with
      | 2 => if x = .empty ∧ y = .empty then Tri.tt else Tri.ff
      | 3 => if x = .empty ∧ y = .empty then Tri.ff else Tri.tt
      | _ => Tri.ff := by
  cases x with
  | nai => exact absurd rfl hx
  | empty =>
    cases y with
    | nai => exact absurd rfl hy
    | empty => rfl
    | mk e g d => simp only [Iv.rel, Iv.isEmpty, reduceCtorEq, and_false, if_false]; rfl
  | mk a b d =>
    cases y with
    | nai => exact absurd rfl hy
    | empty => simp only [Iv.rel, Iv.isEmpty, reduceCtorEq, false_and, if_false]; rfl
    | mk e g d => simp at h

/-! ### Set tests (R210) -/

theorem ofBool_tt (b : Bool) : Tri.ofBool b = Tri.tt ↔ b = true := by revert b; decide
theorem ofBool_ff (b : Bool) : Tri.ofBool b = Tri.ff ↔ b = false := by revert b; decide

section
variable {f : Fmt} {x y : Iv} {a b e g : Pt} {d d' : Dec} {t : Nat}

theorem test_nai (ht : t < 3) (h : x = .nai ∨ y = .nai) : Iv.test t x y = false := by
  rcases h with rfl | rfl
  · interval_cases t <;> rfl
  · interval_cases t <;> cases x <;> rfl

theorem test_empty_left (ht : t < 3) (hy : y ≠ .nai) : Iv.test t .empty y = true := by
  cases y with
  | nai => exact absurd rfl hy
  | empty => interval_cases t <;> rfl
  | mk e g d => interval_cases t <;> rfl

theorem test_empty_right (ht : t < 3) (hx : x ≠ .nai) (hx' : x ≠ .empty) : Iv.test t x .empty = decide (t = 2) := by
  cases x with
  | nai => exact absurd rfl hx
  | empty => exact absurd rfl hx'
  | mk a b d => interval_cases t <;> rfl

section
variable (ha : a.Good f) (hb : b.Good f) (he : e.Good f) (hg : g.Good f)
include ha hb he hg

/-- Subset, interior and disjoint, of nonempty sets. -/
theorem test_subset : Iv.test 0 (.mk a b d) (.mk e g d') = true ↔ e.ext f ≤ a.ext f ∧ b.ext f ≤ g.ext f := by
  rw [← Pt.le_iff he ha, ← Pt.le_iff hb hg, ← Bool.and_eq_true]
  rfl

theorem test_interior : Iv.test 1 (.mk a b d) (.mk e g d') = true ↔
    (e.ext f < a.ext f ∨ (a.ext f = e.ext f ∧ a.ext f = ⊥)) ∧ (b.ext f < g.ext f ∨ (b.ext f = g.ext f ∧ b.ext f = ⊤)) := by
  have key : Iv.test 1 (.mk a b d) (.mk e g d') = ((e.lt a || (decide (a = .inf true) && decide (e = .inf true))) &&
    (b.lt g || (decide (b = .inf false) && decide (g = .inf false)))) := rfl
  rw [key]
  simp only [Bool.and_eq_true, Bool.or_eq_true, decide_eq_true_eq, Pt.lt_iff he ha, Pt.lt_iff hb hg, Pt.eq_neg_inf_iff ha, Pt.eq_neg_inf_iff he,
    Pt.eq_pos_inf_iff hb, Pt.eq_pos_inf_iff hg]
  have hbot : a.ext f = ⊥ ∧ e.ext f = ⊥ ↔ a.ext f = e.ext f ∧ a.ext f = ⊥ :=
    ⟨fun ⟨h, h'⟩ => ⟨h.trans h'.symm, h⟩, fun ⟨h, h'⟩ => ⟨h', h.symm.trans h'⟩⟩
  have htop : b.ext f = ⊤ ∧ g.ext f = ⊤ ↔ b.ext f = g.ext f ∧ b.ext f = ⊤ :=
    ⟨fun ⟨h, h'⟩ => ⟨h.trans h'.symm, h⟩, fun ⟨h, h'⟩ => ⟨h', h.symm.trans h'⟩⟩
  rw [hbot, htop]

theorem test_disjoint : Iv.test 2 (.mk a b d) (.mk e g d') = true ↔ b.ext f < e.ext f ∨ g.ext f < a.ext f := by
  rw [← Pt.lt_iff hb he, ← Pt.lt_iff hg ha, ← Bool.or_eq_true]
  rfl

end

/-- What an interval holds, by its bounds. -/
theorem Iv.holds_mk {u : ℝ} : (Iv.mk a b d).Holds f u ↔ a.ext f ≤ u ∧ (u : EReal) ≤ b.ext f :=
  ⟨fun ⟨_, _, _, h, hle⟩ => by cases h; exact hle, fun h => ⟨a, b, d, rfl, h⟩⟩

theorem Iv.not_holds_nai {u : ℝ} : ¬ Iv.nai.Holds f u := nofun
theorem Iv.not_holds_empty {u : ℝ} : ¬ Iv.empty.Holds f u := nofun

theorem test_zero (hx : x.Good f) : Iv.test 3 x y = true ↔ x.Holds f 0 := by
  cases x with
  | nai => exact iff_of_false Bool.false_ne_true Iv.not_holds_nai
  | empty => exact iff_of_false Bool.false_ne_true Iv.not_holds_empty
  | mk a b d =>
    obtain ⟨ha, hb, -⟩ := hx
    rw [Iv.holds_mk, EReal.coe_zero, ← Pt.key_nonpos_iff ha, ← Pt.key_nonneg_iff hb]
    simp [Iv.test]

theorem test_isEmpty : Iv.test 4 x y = true ↔ x = .empty := by cases x <;> simp [Iv.test, Iv.isEmpty]

theorem test_entire (hx : x.Good f) : Iv.test 5 x y = true ↔ ∀ u : ℝ, x.Holds f u := by
  cases x with
  | nai => exact iff_of_false Bool.false_ne_true fun h => Iv.not_holds_nai (h 0)
  | empty => exact iff_of_false Bool.false_ne_true fun h => Iv.not_holds_empty (h 0)
  | mk a b d =>
    obtain ⟨ha, hb, -⟩ := hx
    have hbounds : Iv.test 5 (.mk a b d) y = true ↔ a.ext f = ⊥ ∧ b.ext f = ⊤ := by
      rw [← Pt.eq_neg_inf_iff ha, ← Pt.eq_pos_inf_iff hb]
      simp [Iv.test]
    simp only [hbounds, Iv.holds_mk]
    refine ⟨fun ⟨h, h'⟩ u => by simp [h, h'], fun h => ⟨?_, ?_⟩⟩
    · exact EReal.eq_bot_iff_forall_lt _ |>.mpr fun u => (h (u - 1)).1.trans_lt (EReal.coe_lt_coe_iff.mpr (sub_one_lt u))
    · exact EReal.eq_top_iff_forall_lt _ |>.mpr fun u => (EReal.coe_lt_coe_iff.mpr (lt_add_one u)).trans_le (h (u + 1)).2

theorem test_thin (hx : x.Good f) : Iv.test 6 x y = true ↔ ∃ a b d, x = .mk a b d ∧ a.ext f = b.ext f := by
  cases x with
  | nai => exact iff_of_false Bool.false_ne_true nofun
  | empty => exact iff_of_false Bool.false_ne_true nofun
  | mk a b d =>
    obtain ⟨ha, hb, -⟩ := hx
    simp [Iv.test, Pt.key_eq_iff ha hb]

end

/-! ### Classification (R275) -/

/-- The conditions of FCLASS's bits 2 to 10, 0 elsewhere. -/
def classBit (a b : Pt) : Nat → Bool
  | 10 => a.subnormal .fp32 || b.subnormal .fp32
  | 9 => b = .inf false
  | 8 => a = .inf true
  | 7 => b.key < 0
  | 6 => 0 < a.key
  | 5 => a.key ≤ 0 && 0 ≤ b.key
  | 4 => a.isFin && b.isFin
  | 3 => a.key = b.key
  | 2 => a = .inf true && b = .inf false
  | _ => false

theorem getLsbD_bit (n k : Nat) (p : Bool) (hn : n < 32) : (if p then BitVec.ofNat 32 (2 ^ n) else 0 : BitVec 32).getLsbD k = (p && decide (k = n)) := by
  cases p with
  | false => simp
  | true =>
    rw [if_pos rfl, BitVec.getLsbD_ofNat, Nat.testBit_two_pow, Bool.true_and]
    by_cases h : n = k
    · subst h; simp [hn]
    · simp [h, Ne.symm h]

theorem getLsbD_classify (a b : Pt) (d : Dec) (k : Nat) :
    (Iv.classify .fp32 (.mk a b d)).getLsbD k = ((decide (11 ≤ k) && decide (k < 32) && d.getLsbD (k - 11)) || classBit a b k) := by
  simp only [Iv.classify, BitVec.getLsbD_or]
  rw [getLsbD_bit 10 k _ (by decide), getLsbD_bit 9 k _ (by decide), getLsbD_bit 8 k _ (by decide), getLsbD_bit 7 k _ (by decide),
    getLsbD_bit 6 k _ (by decide), getLsbD_bit 5 k _ (by decide), getLsbD_bit 4 k _ (by decide), getLsbD_bit 3 k _ (by decide), getLsbD_bit 2 k _ (by decide)]
  rcases Nat.lt_or_ge k 11 with hk | hk
  · interval_cases k <;> simp [classBit]
  · obtain ⟨n, rfl⟩ := Nat.exists_eq_add_of_le' hk
    have hsmall : (decide (n + 11 < 32) && decide (n < 32)) = decide (n + 11 < 32) := by
      rw [← Bool.decide_and, decide_eq_decide]; omega
    simp [classBit, ← Bool.and_assoc, hsmall]

/-- The word of a nonempty set: its decoration above the bits of its bounds. -/
theorem classify_fields {x : Iv} {a b : Pt} {d : Dec} (hg : x.Good .fp32) (hp : x.Proper) (hx : x = .mk a b d) :
    let w := Iv.classify .fp32 x
    let A := a.ext .fp32
    let B := b.ext .fp32
    let sub (p : Pt) : Prop := ∃ neg n, p = .fin neg n ∧ 0 < n ∧ n < 2 ^ 23
    w.extractLsb' 13 19 = 0 ∧ w.extractLsb' 11 2 = d ∧ (w.getLsbD 10 ↔ sub a ∨ sub b) ∧ (w.getLsbD 9 ↔ B = ⊤) ∧ (w.getLsbD 8 ↔ A = ⊥) ∧
      (w.getLsbD 7 ↔ B < 0) ∧ (w.getLsbD 6 ↔ 0 < A) ∧ (w.getLsbD 5 ↔ A ≤ 0 ∧ 0 ≤ B) ∧ (w.getLsbD 4 ↔ A ≠ ⊥ ∧ B ≠ ⊤) ∧ (w.getLsbD 3 ↔ A = B) ∧
      (w.getLsbD 2 ↔ A = ⊥ ∧ B = ⊤) ∧ w.getLsbD 1 = false ∧ w.getLsbD 0 = false := by
  subst hx
  obtain ⟨ha, hb, -⟩ := hg
  obtain ⟨hal, hbl⟩ := hp
  have hlow : ∀ k < 11, (Iv.classify .fp32 (.mk a b d)).getLsbD k = classBit a b k := fun k hk => by
    rw [getLsbD_classify, decide_eq_false (by omega), Bool.false_and, Bool.false_and, Bool.false_or]
  have hhigh : ∀ k, (Iv.classify .fp32 (.mk a b d)).getLsbD (11 + k) = (decide (11 + k < 32) && d.getLsbD k) := fun k => by
    rw [getLsbD_classify, decide_eq_true (by omega), Bool.true_and, Nat.add_sub_cancel_left, Nat.add_comm]
    simp [classBit]
  dsimp only
  refine ⟨?_, ?_, ?_, ?_, ?_, ?_, ?_, ?_, ?_, ?_, ?_, hlow 1 (by decide), hlow 0 (by decide)⟩
  · refine BitVec.eq_of_getLsbD_eq fun k hk => ?_
    rw [BitVec.getLsbD_extractLsb', show 13 + k = 11 + (2 + k) by omega, hhigh, BitVec.getLsbD_of_ge d _ (by omega)]
    simp
  · refine BitVec.eq_of_getLsbD_eq fun k hk => ?_
    rw [BitVec.getLsbD_extractLsb', hhigh, decide_eq_true hk, decide_eq_true (by omega), Bool.true_and, Bool.true_and]
  all_goals rw [hlow _ (by decide)]
  · exact Bool.or_eq_true_iff.trans (or_congr Pt.subnormal_iff Pt.subnormal_iff)
  · exact decide_eq_true_iff.trans (Pt.eq_pos_inf_iff hb)
  · exact decide_eq_true_iff.trans (Pt.eq_neg_inf_iff ha)
  · exact decide_eq_true_iff.trans (Pt.key_neg_iff hb)
  · exact decide_eq_true_iff.trans (Pt.key_pos_iff ha)
  · exact Bool.and_eq_true_iff.trans (and_congr (decide_eq_true_iff.trans (Pt.key_nonpos_iff ha)) (decide_eq_true_iff.trans (Pt.key_nonneg_iff hb)))
  · refine Bool.and_eq_true_iff.trans (and_congr ?_ ?_)
    · exact (Pt.isFin_iff ha).trans ((and_iff_left hal).trans (not_congr (Pt.eq_neg_inf_iff ha)))
    · exact (Pt.isFin_iff hb).trans ((and_iff_right hbl).trans (not_congr (Pt.eq_pos_inf_iff hb)))
  · exact decide_eq_true_iff.trans (Pt.key_eq_iff ha hb)
  · exact Bool.and_eq_true_iff.trans (and_congr (decide_eq_true_iff.trans (Pt.eq_neg_inf_iff ha)) (decide_eq_true_iff.trans (Pt.eq_pos_inf_iff hb)))

/-! ### Destinations -/

section
variable {i : Instr} {c : Cx} {len l : Nat} {q r : Regs}

theorem PK.accepts_pred {u : Bool} {x : Sel} (h : PK.pred.accepts u x = true) : ∃ k : BitVec 4, x = .p k := by
  cases x with
  | p k => exact ⟨k, rfl⟩
  | _ => exact absurd h Bool.false_ne_true

theorem PK.accepts_v {n al : Nat} {x : Sel} (h : (PK.v n al).accepts false x = true) : ∃ k : BitVec 7, x = .reg k := by
  cases x with
  | reg k => exact ⟨k, rfl⟩
  | _ => exact absurd h Bool.false_ne_true

/-- A predicate other than P15 reads what was written. -/
theorem pred_of_putP {k : BitVec 4} {v : Tri} (h : SameLane l (putP l (.p k) v q) r) (hk : k ≠ 15) : (c.after r).pred l (.p k) = v := by
  show r.getP k.toNat l = v
  rw [h.p, putP, Regs.getP_setP _ _ _ _ fun h => hk (BitVec.eq_of_toNat_eq h)]

/-- A V register reads the word that was written. -/
theorem src_of_putInt {k : BitVec 7} {v : Word} (h : SameLane l (c.putInt 1 l (.reg k) (v.zeroExtend 64) q) r) : (c.after r).src 1 l (.reg k) = v := by
  have hlow : loWord (v.zeroExtend 64) = v := BitVec.eq_of_getLsbD_eq fun j hj => by
    simp [loWord, hj, show j < 64 by omega]
  have hreg : r.getV k.toNat l = v := by
    rw [h.v, Cx.putInt, if_neg (by decide), Regs.getV_setV, hlow]
  show ((r.getV k.toNat l).zeroExtend 64).setWidth 32 = v
  rw [hreg]
  simp

theorem Ext.u_of_check {op : Op} {x : Ext} (h : x.check op = none) (hu : (sig op x).uOk = false) : x.u = false := by
  rw [Ext.check] at h
  obtain ⟨h, -⟩ := next_check h
  simpa [hu] using h

/-- A word to V registers. -/
theorem word_result (he : Executes i c len) {op : Op} (ho : c.op = op) (hu : (sig op c.x).uOk = false) (hd : (sig op c.x).d = .v 1 1) {e : LaneEffect op}
    (hlane : laneEffect op = some e) {v : Nat → Word} (hrun : ∀ l q, e.run c l q = c.putInt 1 l c.x.d ((v l).zeroExtend 64) q) :
    EachThread i c len fun t l => t.src 1 l c.x.d = v l := by
  have hlegal : c.x.check op = none := ho ▸ he.able.legal
  obtain ⟨k, hk⟩ := PK.accepts_v (Ext.u_of_check hlegal hu ▸ hd ▸ Ext.posD_of_check hlegal)
  refine he.eachThread_of_lane ho hlane fun l _ q r h => ?_
  rw [hrun, hk] at h
  rw [hk]
  exact src_of_putInt h

/-- FCMP, DCMP and FSET write a predicate. -/
theorem pred_result (he : Executes i c len) {op : Op} (ho : c.op = op) (hd : (sig op c.x).d = .pred) (hne : c.x.d ≠ .p 15) {e : LaneEffect op}
    (hlane : laneEffect op = some e) {v : Nat → Tri} (hrun : ∀ l q, e.run c l q = putP l c.x.d (v l) q) :
    EachThread i c len fun t l => t.pred l c.x.d = v l := by
  obtain ⟨k, hk⟩ := PK.accepts_pred (hd ▸ ho ▸ Ext.posD_of_check he.able.legal)
  refine he.eachThread_of_lane ho hlane fun l _ q r h => ?_
  rw [hrun, hk] at h
  rw [hk] at hne ⊢
  exact pred_of_putP h fun h => hne (h ▸ rfl)

end

/-- Settles O15: the relations and tests compare places of bounds, and the places are in the order of the values. -/
theorem relationsAndSetTests : Obligations.RelationsAndSetTests := by
  refine ⟨fun i c len he hop hne => ?_, fun i c len he ho hne => ?_, fun i c len he ho => ?_⟩
  case refine_1 =>
    have hreg : (opFmt c.op).isReg := opFmt_isReg _
    have hv : EachThread i c len fun t l => t.pred l c.x.d = Iv.rel (c.x.m 0 3) (c.taken (opFmt c.op) l c.x.a) (c.taken (opFmt c.op) l c.x.b) := by
      rcases List.mem_pair.mp hop with ho | ho <;> rw [ho]
      · exact pred_result he ho rfl hne rfl fun _ _ => rfl
      · exact pred_result he ho rfl hne rfl fun _ _ => rfl
    refine hv.imp fun t l _ hv => ?_
    rw [hv]
    refine ⟨rel_nai, rel_empty, fun a b da e g dy hx hy => ?_⟩
    obtain ⟨ha, hb, -⟩ : (Iv.mk a b da).Good _ := hx ▸ c.good_taken _ l c.x.a hreg
    obtain ⟨he, hg, -⟩ : (Iv.mk e g dy).Good _ := hy ▸ c.good_taken _ l c.x.b hreg
    rw [hx, hy]
    exact rel_mk ha hb he hg _
  case refine_2 =>
    have hv : EachThread i c len fun t l => t.pred l c.x.d =
        Tri.ofBool (Iv.test (c.x.m 0 3) (c.taken .fp32 l c.x.a) (c.taken .fp32 l c.x.b)) := pred_result he ho rfl hne rfl fun _ _ => rfl
    refine hv.imp fun t l _ hv => ?_
    have hx := c.good_taken .fp32 l c.x.a (.inl rfl)
    have hy := c.good_taken .fp32 l c.x.b (.inl rfl)
    rw [hv]
    generalize c.taken .fp32 l c.x.a = x at hx
    generalize c.taken .fp32 l c.x.b = y at hy
    generalize c.x.m 0 3 = test
    simp only [ofBool_tt, ofBool_ff]
    refine ⟨Bool.eq_false_or_eq_true _, fun ht => ⟨test_nai ht, ?_, ?_, ?_⟩, ?_, ?_, ?_, ?_⟩
    · rintro rfl hy'
      exact test_empty_left ht hy'
    · rintro hx' hx'' rfl
      rw [test_empty_right ht hx' hx'', decide_eq_true_iff]
    · rintro a b da e g dy rfl rfl
      obtain ⟨ha, hb, -⟩ := hx
      obtain ⟨he, hg, -⟩ := hy
      refine ⟨?_, ?_, ?_⟩ <;> rintro rfl
      · exact test_subset ha hb he hg
      · exact test_interior ha hb he hg
      · exact test_disjoint ha hb he hg
    · rintro rfl; exact test_zero hx
    · rintro rfl; exact test_isEmpty
    · rintro rfl; exact test_entire hx
    · rintro rfl; exact test_thin hx
  case refine_3 =>
    have hw : EachThread i c len fun t l => t.src 1 l c.x.d = Iv.classify .fp32 (c.taken .fp32 l c.x.a) :=
      word_result he ho rfl rfl rfl fun _ _ => rfl
    refine hw.imp fun t l _ hw => ?_
    have hx := c.good_taken .fp32 l c.x.a (.inl rfl)
    have hp : (c.taken .fp32 l c.x.a).Proper := (Iv.proper_read ..).flush _
    rw [hw]
    split
    · rename_i heq; rw [heq]; rfl
    · rename_i heq; rw [heq]; rfl
    · rename_i heq; exact classify_fields hx hp heq

end Sys2Proof.Machine
end

section
/-! SUPPORT. NaI and empty operands (R204), the results of point mode (R206), and O11 settled. -/

namespace Sys2Proof.Machine

/-! ### NaI and empty operands (R204) -/

/-- NaI gives NaI, and the empty set otherwise the empty set: of one operand, and of two. -/
structure Strict1 (g : Iv → Iv) : Prop where
  nai : g .nai = .nai
  empty : g .empty = .empty

structure Strict2 (g : Iv → Iv → Iv) : Prop where
  nai : ∀ x y, x = .nai ∨ y = .nai → g x y = .nai
  empty : ∀ x y, x ≠ .nai → y ≠ .nai → x = .empty ∨ y = .empty → g x y = .empty

theorem strict2_lift2 (k : Pt → Pt → Pt → Pt → Dec → Iv) : Strict2 fun x y => Iv.lift2 x y k where
  nai x y h := by
    rcases h with rfl | rfl
    · rfl
    · cases x <;> rfl
  empty x y hx hy h := by
    cases x with
    | nai => exact absurd rfl hx
    | empty =>
      cases y with
      | nai => exact absurd rfl hy
      | empty => rfl
      | mk _ _ _ => rfl
    | mk _ _ _ =>
      cases y with
      | nai => exact absurd rfl hy
      | empty => rfl
      | mk _ _ _ => simp at h

/-- Operations that keep NaI and empty may come before and after. -/
theorem Strict2.comp {g : Iv → Iv → Iv} {p q s : Iv → Iv} (hg : Strict2 g) (hp : Strict1 p) (hq : Strict1 q) (hs : Strict1 s)
    (hp' : ∀ x, x ≠ .nai → p x ≠ .nai) (hq' : ∀ x, x ≠ .nai → q x ≠ .nai) : Strict2 fun x y => s (g (p x) (q y)) where
  nai x y h := by
    rw [hg.nai _ _ (h.imp (fun h => by rw [h, hp.nai]) fun h => by rw [h, hq.nai]), hs.nai]
  empty x y hx hy h := by
    rw [hg.empty _ _ (hp' x hx) (hq' y hy) (h.imp (fun h => by rw [h, hp.empty]) fun h => by rw [h, hq.empty]), hs.empty]

theorem strict1_id : Strict1 id := ⟨rfl, rfl⟩

theorem strict2_addF (g f : Fmt) : Strict2 (Iv.addF g f) := strict2_lift2 _
theorem strict2_mulF (g f : Fmt) : Strict2 (Iv.mulF g f) := strict2_lift2 _

theorem strict2_subF (g f : Fmt) : Strict2 (Iv.subF g f) :=
  (strict2_addF g f).comp strict1_id ⟨rfl, rfl⟩ strict1_id (fun _ h => h) (q := Iv.negF) fun x hx => by
    cases x with
    | nai => exact hx
    | empty => nofun
    | mk a b d => nofun

theorem fn_iv_ne_nai (fn : Fn) (rf : Nat) {x : Iv} (hx : x ≠ .nai) : fn.iv rf x ≠ .nai := by
  cases x with
  | nai => exact hx
  | empty => nofun
  | mk a b d =>
    simp only [Fn.iv, Iv.lift1]
    split
    · nofun
    · nofun

theorem strict2_gate (f : Fmt) (fn : Fn) : Strict2 fun x y => mulInto f (fn.iv 0 x) y :=
  (strict2_mulF .fp32 f).comp (p := fn.iv 0) (q := id) (s := fun v => match v with
    | .mk a b d => .mk (a.convert f .fp32) (b.convert f .fp32) d
    | v => v) ⟨rfl, rfl⟩ strict1_id ⟨rfl, rfl⟩ (fun _ => fn_iv_ne_nai fn 0) fun _ h => h

theorem strict2_add (f : Fmt) : Strict2 (Iv.add f) := strict2_addF f f
theorem strict2_sub (f : Fmt) : Strict2 (Iv.sub f) := strict2_subF f f
theorem strict2_mul (f : Fmt) : Strict2 (Iv.mul f) := strict2_mulF f f
theorem strict2_div (f : Fmt) : Strict2 (Iv.div f) := strict2_lift2 _
theorem strict2_imin : Strict2 Iv.imin := strict2_lift2 _
theorem strict2_imax : Strict2 Iv.imax := strict2_lift2 _

section
variable (x : Ext) (n : Int)

theorem strict_ops1 (b d : Iv) : ∀ op ∈ fltOps1, Strict1 fun a => ivValue op x n a b d := by
  simp only [fltOps1, List.forall_mem_cons, List.not_mem_nil, false_imp_iff, implies_true, and_true]
  and_intros <;> exact ⟨rfl, rfl⟩

theorem strict_ops2 (d : Iv) : ∀ op ∈ fltOps2, Strict2 fun a b => ivValue op x n a b d := by
  simp only [fltOps2, List.forall_mem_cons, List.not_mem_nil, false_imp_iff, implies_true, and_true]
  exact ⟨strict2_add _, strict2_sub _, strict2_mul _, strict2_div _, strict2_imin, strict2_imax, strict2_gate _ _,
    strict2_add _, strict2_sub _, strict2_mul _, strict2_div _⟩

end

section
variable {f : Fmt} {a b d : Iv}

theorem fma_nai (h : a = .nai ∨ b = .nai ∨ d = .nai) : Iv.fma f a b d = .nai := by
  rcases h with rfl | rfl | rfl
  · rfl
  · cases a <;> rfl
  · cases a <;> cases b <;> rfl

theorem fma_empty (ha : a ≠ .nai) (hb : b ≠ .nai) (hd : d ≠ .nai) (h : a = .empty ∨ b = .empty ∨ d = .empty) : Iv.fma f a b d = .empty := by
  rcases h with rfl | rfl | rfl
  · cases b with
    | nai => exact absurd rfl hb
    | _ =>
      cases d with
      | nai => exact absurd rfl hd
      | _ => rfl
  · cases a with
    | nai => exact absurd rfl ha
    | _ =>
      cases d with
      | nai => exact absurd rfl hd
      | _ => rfl
  · cases a with
    | nai => exact absurd rfl ha
    | _ =>
      cases b with
      | nai => exact absurd rfl hb
      | _ => rfl

end

/-! ### The operands of an opcode -/

theorem fltSources_ops1 (x : Ext) {op : Op} (h : op ∈ fltOps1) : fltSources op x = [x.a] := if_pos h

theorem fltSources_ops2 (x : Ext) {op : Op} (h : op ∈ fltOps2) : fltSources op x = [x.a, x.b] :=
  (if_neg ((by decide : ∀ op ∈ fltOps2, op ∉ fltOps1) op h)).trans (if_pos h)

theorem fltSources_ops3 (x : Ext) {op : Op} (h : op ∈ fltOps3) : fltSources op x = [x.a, x.b, x.d] :=
  (if_neg ((by decide : ∀ op ∈ fltOps3, op ∉ fltOps1) op h)).trans (if_neg ((by decide : ∀ op ∈ fltOps3, op ∉ fltOps2) op h))

theorem flush_eq_nai {f : Fmt} {on : Bool} {x : Iv} : x.flush f on = .nai ↔ x = .nai := by
  cases x with
  | mk a b d => cases on <;> simp [Iv.flush]
  | _ => simp [Iv.flush]

theorem flush_eq_empty {f : Fmt} {on : Bool} {x : Iv} : x.flush f on = .empty ↔ x = .empty := by
  cases x with
  | mk a b d => cases on <;> simp [Iv.flush]
  | _ => simp [Iv.flush]

section
variable {c : Cx} {l : Nat}

theorem taken_nai {f : Fmt} {x : Sel} : c.taken f l x = .nai ↔ c.held f l x = .nai := flush_eq_nai
theorem taken_empty {f : Fmt} {x : Sel} : c.taken f l x = .empty ↔ c.held f l x = .empty := flush_eq_empty

/-- What NaI and empty operands give (R204). -/
theorem ivResult_strict (hop : c.op ∈ fltOps1 ++ fltOps2 ++ fltOps3) :
    let vs := (fltSources c.op c.x).map (c.held (opFmt c.op) l)
    (.nai ∈ vs → c.ivResult l = .nai) ∧ (.nai ∉ vs → .empty ∈ vs → c.ivResult l = .empty) := by
  rcases List.mem_append.mp hop with hop | h3
  · rcases List.mem_append.mp hop with h1 | h2
    · have hs := fun b d => strict_ops1 c.x (c.i32 l c.x.b).toInt b d _ h1
      simp only [fltSources_ops1 c.x h1, List.map_cons, List.map_nil, List.mem_singleton, eq_comm (a := Iv.nai), eq_comm (a := Iv.empty), ← taken_nai, ← taken_empty]
      refine ⟨fun h => ?_, fun _ h => ?_⟩ <;> rw [Cx.ivResult, h]
      · exact (hs _ _).nai
      · exact (hs _ _).empty
    · have hs := fun d => strict_ops2 c.x (c.i32 l c.x.b).toInt d _ h2
      simp only [fltSources_ops2 c.x h2, List.map_cons, List.map_nil, List.mem_pair, eq_comm (a := Iv.nai), eq_comm (a := Iv.empty),
        ← taken_nai, ← taken_empty, not_or]
      exact ⟨(hs _).nai _ _, fun hn => (hs _).empty _ _ hn.1 hn.2⟩
  · simp only [fltSources_ops3 c.x h3, List.map_cons, List.map_nil, List.mem_cons, List.not_mem_nil, or_false, eq_comm (a := Iv.nai), eq_comm (a := Iv.empty),
    ← taken_nai, ← taken_empty, not_or]
    have hfma : c.ivResult l = Iv.fma (opFmt c.op) (c.taken (opFmt c.op) l c.x.a) (c.taken (opFmt c.op) l c.x.b) (c.taken (opFmt c.op) l c.x.d) := by
      unfold Cx.ivResult
      rcases List.mem_pair.mp h3 with ho | ho <;> rw [ho] <;> rfl
    rw [hfma]
    exact ⟨fma_nai, fun hn => fma_empty hn.1 hn.2.1 hn.2.2⟩

end

/-! ### Point mode (R206) -/

namespace Pt

variable {f : Fmt}

/-- NaN, or a point of the format. -/
def Ok (f : Fmt) (p : Pt) : Prop := p ≠ .nan → p.Good f

theorem Good.ok {p : Pt} (h : p.Good f) : p.Ok f := fun _ => h
theorem ok_nan : Pt.nan.Ok f := fun h => absurd rfl h
theorem good_inf (n : Bool) : (Pt.inf n).Good f := trivial
theorem good_zero (n : Bool) : (Pt.fin n 0).Good f := Nat.zero_le _

theorem good_roundNearAbs (f : Fmt) (neg : Bool) (x : Cut) : (roundNearAbs f neg x).Good f := by
  have hle : f.codeLE x ≤ f.top := searchCode_le _ _ (Nat.zero_le _)
  unfold roundNearAbs
  dsimp only
  split <;> rename_i htop
  · split
    · trivial
    · exact hle
  · have hlt : f.codeLE x + 1 ≤ f.top := Nat.succ_le_of_lt (lt_of_le_of_ne hle htop)
    split
    · exact hle
    · exact hlt
    · split
      · exact hle
      · exact hlt

theorem good_roundNear (f : Fmt) (x : Cut) : (roundNear f x).Good f := by
  unfold roundNear
  split
  · exact good_roundNearAbs ..
  · exact Nat.zero_le _
  · exact good_roundNearAbs ..

theorem good_nearZ (f : Fmt) (zneg : Bool) (d : Dy) : (nearZ f zneg d).Good f := by
  unfold nearZ
  split
  · exact Nat.zero_le _
  · exact good_roundNear ..

theorem ok_addP (f : Fmt) (x y : Pt) : (Pt.addP f x y).Ok f := by
  unfold Pt.addP
  split
  · exact ok_nan
  · exact ok_nan
  · split
    · exact (good_inf _).ok
    · exact ok_nan
  · exact (good_inf _).ok
  · exact (good_inf _).ok
  · split
    · exact (good_nearZ ..).ok
    · exact ok_nan

theorem ok_fmaP (f : Fmt) (x y : Pt) (z : Option Pt) : (Pt.fmaP f x y z).Ok f := by
  unfold Pt.fmaP
  dsimp only
  split
  · exact ok_nan
  · exact ok_nan
  · exact ok_nan
  split
  · split
    · exact ok_nan
    split
    · split
      · exact (good_inf _).ok
      · exact ok_nan
    · exact (good_inf _).ok
  · split
    · exact (good_inf _).ok
    split
    · split
      · exact (good_nearZ ..).ok
      · split
        · exact (good_nearZ ..).ok
        · exact ok_nan
    · exact ok_nan

theorem ok_divP (f : Fmt) (x y : Pt) : (Pt.divP f x y).Ok f := by
  unfold Pt.divP
  dsimp only
  split
  · exact ok_nan
  · exact ok_nan
  · exact ok_nan
  · exact (good_inf _).ok
  · exact (good_zero _).ok
  · split_ifs
    exacts [ok_nan, (good_inf _).ok, (good_zero _).ok, (good_roundNearAbs ..).ok]

theorem ok_sqrtP (f : Fmt) (x : Pt) : (Pt.sqrtP f x).Ok f := by
  cases x with
  | nan => exact ok_nan
  | inf n => cases n; exacts [(good_inf _).ok, ok_nan]
  | fin n c =>
    unfold Pt.sqrtP
    dsimp only
    split_ifs
    exacts [(good_zero _).ok, ok_nan, (good_roundNearAbs ..).ok]

theorem ok_rsqrtP (f : Fmt) (x : Pt) : (Pt.rsqrtP f x).Ok f := by
  cases x with
  | nan => exact ok_nan
  | inf n => cases n; exacts [(good_zero _).ok, ok_nan]
  | fin n c =>
    unfold Pt.rsqrtP
    dsimp only
    split_ifs
    exacts [(good_inf _).ok, ok_nan, (good_roundNearAbs ..).ok]

/-- What rounds an enclosed real is a rounding. -/
theorem approx_round_of {P : Pt → Prop} {r : Cut → Pt} (h : ∀ x, P (r x)) (fn : Nat) (arg : Dy) (a : Approx) (n p : Nat) : P (Approx.round r fn arg a n p) := by
  induction n generalizing p with
  | zero =>
    rw [Approx.round]
    split
    · exact h _
    · exact h _
  | succ n ih =>
    rw [Approx.round]
    split
    · exact h _
    · exact ih _

theorem rpowRound_of {P : Pt → Prop} {r : Cut → Pt} (h : ∀ x, P (r x)) (u : Dy) (n : Nat) : P (rpowRound r u n) := by
  unfold rpowRound
  dsimp only
  split_ifs
  all_goals exact h _

theorem ok_pownP (f : Fmt) (x : Pt) (n : Int) : (Pt.pownP f x n).Ok f := by
  unfold Pt.pownP
  dsimp only
  split
  · exact (roundDown_good ..).ok
  split
  · exact ok_nan
  · split
    · exact (good_inf _).ok
    · exact (good_zero _).ok
  · split_ifs
    · exact (good_zero _).ok
    · exact (good_inf _).ok
    · exact Good.ok (approx_round_of (good_roundNearAbs f _) ..)
    · exact Good.ok (rpowRound_of (good_roundNearAbs f _) ..)

theorem ok_ldexpP (f : Fmt) (x : Pt) (n : Int) : (Pt.ldexpP f x n).Ok f := by
  cases x with
  | nan => exact ok_nan
  | inf m => exact (good_inf m).ok
  | fin m c =>
    unfold Pt.ldexpP
    dsimp only
    split
    · rename_i hc; exact hc ▸ (good_zero m).ok
    · exact (good_roundNearAbs ..).ok

theorem Ok.flush {p : Pt} (on : Bool) (h : p.Ok f) : (ptFlush f on p).Ok f := by
  unfold ptFlush
  split
  · unfold Pt.flushPt
    split
    · exact (good_zero _).ok
    · exact h
  · exact h

/-- A point result that is written has one value as both bounds, with decoration trv, or is NaI. -/
theorem writePt_spec (hf : f.isReg) {p : Pt} (h : p.Ok f) : let v := p.writePt f
    v.lo < 2 ^ f.bits ∧ v.lo = v.hi ∧ ((v.dec = Dec.trv ∧ f.decode v.lo ≠ .nan) ∨ (v.dec = Dec.ill ∧ v.lo = f.nan)) := by
  have hnan : f.nan < 2 ^ f.bits := by rcases hf with rfl | rfl <;> decide
  have hgood : ∀ {p : Pt}, p.Good f → p.writePt f = ⟨f.encode p, f.encode p, Dec.trv⟩ → let v := p.writePt f
      v.lo < 2 ^ f.bits ∧ v.lo = v.hi ∧ ((v.dec = Dec.trv ∧ f.decode v.lo ≠ .nan) ∨ (v.dec = Dec.ill ∧ v.lo = f.nan)) := by
    intro p hp hw
    rw [hw]
    exact ⟨encode_lt hf hp, rfl, .inl ⟨rfl, by rw [decode_encode hf hp]; exact hp.ne_nan⟩⟩
  cases p with
  | nan => exact ⟨hnan, rfl, .inr ⟨rfl, rfl⟩⟩
  | inf n => exact hgood (good_inf n) rfl
  | fin n c => exact hgood (h nofun) rfl

end Pt

/-- The step of an opcode in point mode writes a point of FP32 or NaN. -/
def WritesPt (op : Op) : Prop :=
  ∃ e : LaneEffect op, laneEffect op = some e ∧ ∀ (c : Cx) (l : Nat) (q : Regs), c.x.m 0 1 = 1 → ∃ p, Pt.Ok .fp32 p ∧ e.run c l q = c.outPt .fp32 l p q

theorem writesPt : ∀ op ∈ [Op.fadd, .fsub, .fmul, .ffma, .fdiv, .fsqrt, .fsqr, .frcp, .frsqrt, .fpown, .fldexp], WritesPt op := by
  have key : ∀ {op : Op} {e : LaneEffect op} {b : Cx → Nat → Regs → Regs} {p : Cx → Nat → Pt}, laneEffect op = some e →
      (∀ c l q, e.run c l q = if c.isPt = true then c.outPt .fp32 l (p c l) q else b c l q) → (∀ c l, Pt.Ok .fp32 (p c l)) → WritesPt op := by
    intro op e b p he hrun hp
    exact ⟨e, he, fun c l q hpt => ⟨p c l, hp c l, (hrun c l q).trans (if_pos (decide_eq_true hpt))⟩⟩
  simp only [List.forall_mem_cons, List.not_mem_nil, false_imp_iff, implies_true, and_true]
  refine ⟨?_, ?_, ?_, ?_, ?_, ?_, ?_, ?_, ?_, ?_, ?_⟩
  case refine_1 => exact key rfl (fun _ _ _ => rfl) fun _ _ => Pt.ok_addP _ _ _
  case refine_2 => exact key rfl (fun _ _ _ => rfl) fun _ _ => Pt.ok_addP _ _ _
  case refine_3 => exact key rfl (fun _ _ _ => rfl) fun _ _ => Pt.ok_fmaP _ _ _ _
  case refine_4 => exact key rfl (fun _ _ _ => rfl) fun _ _ => Pt.ok_fmaP _ _ _ _
  case refine_5 => exact key rfl (fun _ _ _ => rfl) fun _ _ => Pt.ok_divP _ _ _
  case refine_6 => exact key rfl (fun _ _ _ => rfl) fun _ _ => Pt.ok_sqrtP _ _
  case refine_7 => exact key rfl (fun _ _ _ => rfl) fun _ _ => Pt.ok_fmaP _ _ _ _
  case refine_8 => exact key rfl (fun _ _ _ => rfl) fun _ _ => Pt.ok_divP _ _ _
  case refine_9 => exact key rfl (fun _ _ _ => rfl) fun _ _ => Pt.ok_rsqrtP _ _
  case refine_10 => exact key rfl (fun _ _ _ => rfl) fun _ _ => Pt.ok_pownP _ _ _
  case refine_11 => exact key rfl (fun _ _ _ => rfl) fun _ _ => Pt.ok_ldexpP _ _ _

/-- Settles O11: each interval operation looks at NaI and empty operands before its bounds, and each point operation ends with one
rounding into FP32. -/
theorem specialAndPointResults : Obligations.SpecialAndPointResults := by
  constructor
  · intro i c len he hop hpt
    refine (float_result he hop hpt).imp fun t l _ h => ?_
    obtain ⟨hnai, hempty⟩ := ivResult_strict (l := l) hop
    refine ⟨fun hn => ?_, fun hn hm => ?_⟩
    · rw [hnai hn] at h
      exact h trivial
    · rw [hempty hn hm] at h
      exact (h trivial).trans (Iv.read_write_empty (opFmt_isReg _))
  · intro i c len he hop hpt
    obtain ⟨e, hlane, hrun⟩ := writesPt _ hop
    have hmem : ∀ op ∈ [Op.fadd, .fsub, .fmul, .ffma, .fdiv, .fsqrt, .fsqr, .frcp, .frsqrt, .fpown, .fldexp],
        op ∈ fltOps1 ++ fltOps2 ++ fltOps3 ∧ op ∈ pt0Ops := by decide
    obtain ⟨hflt, hpt0⟩ := hmem _ hop
    obtain ⟨k, hd⟩ := float_dest hflt he.able.legal
    rw [isPoint_pt0 _ _ hpt0, decide_eq_true_iff] at hpt
    refine he.eachThread_of_lane rfl hlane fun l _ q r h => ?_
    obtain ⟨p, hp, hq⟩ := hrun c l q hpt
    obtain ⟨hlt, heq, hspec⟩ := Pt.writePt_spec (.inl rfl) (hp.flush c.x.fzo)
    rw [hq, Cx.outPt, putRaw, if_neg (by decide), hd] at h
    have hv : (c.after r).flt l c.x.d = (ptFlush .fp32 c.x.fzo p).writePt .fp32 := hd ▸ flt_of_putF h hlt (heq ▸ hlt)
    rw [hv]
    exact ⟨heq, hspec⟩

end Sys2Proof.Machine
end

section
/-! SUPPORT. What decode's checks find before an instruction's effect (R237): words that are no instruction, an empty source, and poison
in a source; the spec's worked encodings; O4 and O58 settled. -/

namespace Sys2Proof.Machine

/-! ### Words that are no instruction (R236) -/

theorem decodeView_legal {ws : List Word} {v : View} {n : Nat} (h : decodeView ws = .ok (v, n)) : v.legal = true := by
  unfold decodeView at h
  split at h
  · cases h
  · split at h
    · cases h
    · split at h
      · cases h
      · split at h
        · cases h
        · split_ifs at h with hl
          cases h
          exact hl

/-- Only the reading of the layout refuses words: every layout that is read has an instruction. -/
theorem decodeView_error_of_decode {ws : List Word} {e : DecodeError} (h : decode ws = .error e) : ∃ e', decodeView ws = .error e' := by
  cases hv : decodeView ws with
  | error e' => exact ⟨e', rfl⟩
  | ok p =>
    obtain ⟨i, hi⟩ := View.legal_instr p.1 (decodeView_legal hv)
    have hok := decode_ok_iff.mpr ⟨p.1, hv, hi⟩
    rw [h] at hok
    cases hok

/-- Words that are no instruction, or one that a check of R236 refuses, trap ILLEGAL. -/
theorem State.runWords_illegal {ws : List Word} {e : DecodeError} (s : State) (k : WarpKey) (w : Warp) (h : decode ws = .error e) :
    s.runWords k w ws = s.precise k w cIllegal 0 0 wholeWarp 0 := by
  obtain ⟨e', hv⟩ := decodeView_error_of_decode h
  rw [State.runWords, hv]

/-! ### Threads of a mask -/

theorem foldl_or_getLsbD {α : Type} (f : α → Mask) (ps : List α) (m : Mask) (l : Nat) :
    (ps.foldl (fun a p => a ||| f p) m).getLsbD l = true ↔ m.getLsbD l = true ∨ ∃ p ∈ ps, (f p).getLsbD l = true := by
  induction ps generalizing m with
  | nil => simp
  | cons p ps ih => simp [ih, or_assoc]

theorem bitMask_getLsbD {l : Nat} (hl : l < 128) : (bitMask l).getLsbD l = true := by
  rw [bitMask, BitVec.getLsbD_ofNat, Nat.testBit_two_pow_self, decide_eq_true hl, Bool.and_self]

theorem maskOf_getLsbD {ls : List Nat} {l : Nat} (h : l ∈ ls) (hl : l < 128) : (maskOf ls).getLsbD l = true :=
  (foldl_or_getLsbD bitMask ls 0 l).mpr (.inr ⟨l, h, bitMask_getLsbD hl⟩)

theorem mem_lanesOf {m : Mask} {l : Nat} : l ∈ lanesOf m ↔ l < 128 ∧ m.getLsbD l = true := by simp [lanesOf]

/-- The threads of a mask stand in ascending order, so the first of them is at or below each. -/
theorem lowest_le {m : Mask} {l : Nat} (hl : l < 128) (h : m.getLsbD l = true) : lowest m ≤ l := by
  have hmem : l ∈ lanesOf m := mem_lanesOf.mpr ⟨hl, h⟩
  have hsorted : (lanesOf m).Pairwise (· < ·) := List.pairwise_lt_range.filter _
  unfold lowest
  cases hm : lanesOf m with
  | nil => simp
  | cons j js =>
    rw [hm] at hmem hsorted
    obtain rfl | hjs := List.mem_cons.mp hmem
    · exact le_rfl
    · exact (List.rel_of_pairwise_cons hsorted hjs).le

/-! ### Poison in a source (R458) -/

section
variable {r : Regs} {fl : File} {n l : Nat}

/-- A thread of the mask that reads a poisoned V or F register is among those that read poison. -/
theorem Regs.badIn_getLsbD (nS : Nat) {m : Mask} (hfl : fl ≠ .s) (hl : l < 128) (hm : m.getLsbD l = true) (hbad : (⟨fl, n, l⟩ : Dest) ∈ r.bad) :
    (r.badIn nS m (fl, n)).getLsbD l = true := by
  rw [Regs.badIn, if_neg hfl]
  exact maskOf_getLsbD (List.mem_filter.mpr ⟨mem_lanesOf.mpr ⟨hl, hm⟩, by simpa using hbad⟩) hl

/-- The thread that the trap names is at or below each thread that reads poison. -/
theorem Regs.badLane_le {nS : Nat} {ps : List (Mask × File × Nat)} {p : Mask × File × Nat} (hp : p ∈ ps) (hl : l < 128)
    (hbad : (r.badIn nS p.1 p.2).getLsbD l = true) (hne : r.bad ≠ []) : ∃ lane ≤ l, r.badLane nS ps = some lane := by
  have hall : (ps.foldl (fun a p => a ||| r.badIn nS p.1 p.2) (0 : Mask)).getLsbD l = true :=
    (foldl_or_getLsbD (fun p : Mask × File × Nat => r.badIn nS p.1 p.2) ps 0 l).mpr (.inr ⟨p, hp, hbad⟩)
  have hsome : ps.foldl (fun a p => a ||| r.badIn nS p.1 p.2) (0 : Mask) ≠ 0 := fun h0 => by rw [h0] at hall; simp at hall
  exact ⟨_, lowest_le hl hall, by simp only [Regs.badLane, if_neg hne, if_neg hsome]⟩

/-- With every register full, poison in a V or F register that a thread reads stops the instruction, at that thread or below. -/
theorem readiness_ecc_of_bad (nS : Nat) {w : Warp} {m : Mask} {op : Op} {x : Ext} {pos : Nat} (hfull : fullness w m op x = .go)
    (hread : (pos, fl, n) ∈ readsOf op x) (hfl : fl ≠ .s) (hl : l < 128) (hm : m.getLsbD l = true) (hbad : (⟨fl, n, l⟩ : Dest) ∈ w.r.bad) :
    ∃ lane ≤ l, readiness nS w m op x = .ecc lane := by
  have hreaders : readersOf w m op fl = m := by simp [readersOf, hfl]
  have hin : (w.r.badIn nS (readersOf w m op fl) (fl, n)).getLsbD l = true := by
    rw [hreaders]
    exact Regs.badIn_getLsbD nS hfl hl hm hbad
  have hmem := List.mem_map_of_mem (f := fun p : Nat × File × Nat => (readersOf w m op p.2.1, p.2)) hread
  obtain ⟨lane, hle, hlane⟩ := Regs.badLane_le hmem hl hin (List.ne_nil_of_mem hbad)
  exact ⟨lane, hle, readiness_ecc hfull hlane⟩

end

/-! ### What the frame does when a source is empty or poisoned (R177, R458) -/

section
variable {s : State} {k : WarpKey} {w : Warp} {op : Op} {x : Ext} {body : Cx → Res}
  (hr : s.running = some (k, w)) (hl : x.check op = none) (hd : s.namesOk k w op x = true)
include hr hl hd

theorem frame_fe {pos lane : Nat} {p : File × Nat} (hq : readiness (s.header k).nS w (w.r.takes x) op (w.named op x) = .fe pos p lane) :
    frame op x s body = s.precise k w cFe (selOf p % 256) (selOf p / 256 % 4 + pos * 16) lane 0 := by
  unfold frame; rw [hr]; simp [hl, hd, hq]

theorem frame_ecc {lane : Nat} (hq : readiness (s.header k).nS w (w.r.takes x) op (w.named op x) = .ecc lane) :
    frame op x s body = s.precise k w cEcc 0 0 lane 0 := by
  unfold frame; rw [hr]; simp [hl, hd, hq]

end

/-- Settles O4: whatever follows them, the checks of the frame come first, in this order. That ECC stands after FE and before an
instruction's own traps is the model's reading (log 90). -/
theorem decodeChecksTrap : Obligations.DecodeChecksTrap := by
  refine ⟨fun s k w ws e h => s.runWords_illegal k w h, ?_⟩
  intro i s k w op x len hform hr
  obtain ⟨body, hexec⟩ := exec_frame i s op x len hform
  refine ⟨fun hbad => hexec.trans (frame_illegal hr hbad), fun hl hd => hexec.trans (frame_undeclared hr hl hd),
    fun pos p lane hl hd hq => hexec.trans (frame_fe hr hl hd hq), ?_⟩
  intro pos fl n l hl hd hfull hread hfile hlt hm hbad
  have hfl : fl ≠ .s := by rintro rfl; simp at hfile
  obtain ⟨lane, hle, hq⟩ := readiness_ecc_of_bad (s.header k).nS hfull hread hfl hlt hm hbad
  exact ⟨lane, hle, hexec.trans (frame_ecc hr hl hd hq)⟩

/-! ### Worked encodings (R215, R236) -/

/-- Settles O58: base forms, three-word and five-word forms, a jump, a branch over paths, and a compare. -/
theorem specWordsDecode : Obligations.SpecWordsDecode :=
  ⟨rfl, rfl, rfl, rfl, rfl, rfl, rfl, rfl⟩

end Sys2Proof.Machine
end
